-- ==== Sys2Proof/Word.lean ====
section
/-! DEFINITION. The plain word types, and the type of a sparse array. -/

namespace Sys2Proof

/-- One byte (00_scope, R6). -/
abbrev Byte := BitVec 8

/-- One 32-bit register word. -/
abbrev W32 := BitVec 32

/-- A bit per cell of the fabric: bit c stands for cell c (R48, *Table — Stored configuration record*). On the smaller parts the
bits above the last cell are 0. -/
abbrev CellMap := BitVec 2048

/-- A bit per port (*Table — Disturbance report*, *Table — Takeover report*). -/
abbrev PortMap := BitVec 256

/-- An instant of device time, or a length of it, as a count of 2^-16 ns: ((SEC x 10^9 + NS) x 2^16 + FRAC) (R151, R153). The
count is kept whole here; R153's comparison takes it modulo 2^64. -/
abbrev Time := Nat

/-- An array in which most places hold a default value: the places that do not, with rising indices. -/
abbrev Sparse (α : Type) := List (Nat × α)

/-- Bytes by address, in the same form. -/
abbrev Mem := Sparse Byte

/-- `k` nanoseconds as a length of device time. -/
abbrev ns (k : Nat) : Time := k * 65536

end Sys2Proof
end

