-- ==== Sys2Proof/Config.lean ====
section
/-! DEFINITION. What an implementation fixes: the three parts and their counts, and the free values, each an opaque constant
without a body (the log entry named with it says what the spec leaves open). -/

namespace Sys2Proof

/-- The three configurations (*Table — Kolox configurations*). -/
inductive Part where
  | kx064 | kx128 | kx256
  deriving DecidableEq, Repr

namespace Part

/-- Ports (R30). -/
def ports : Part → Nat
  | .kx064 => 64 | .kx128 => 128 | .kx256 => 256

/-- m = log2 P (R30). -/
def m : Part → Nat
  | .kx064 => 6 | .kx128 => 7 | .kx256 => 8

/-- Stages with the relief stage: 2m (R30). -/
def stages (p : Part) : Nat := 2 * p.m

/-- Cells per stage: P / 2 (R30). -/
def rows (p : Part) : Nat := p.ports / 2

/-- Cells (*Table — Kolox configurations*). -/
def cells (p : Part) : Nat := p.stages * p.rows

/-- Loops: the cells, then the ingress equalisers, then the egress valves (R4). -/
def loops (p : Part) : Nat := p.cells + 2 * p.ports

/-- Jets in service (*Table — Loops held by each Jet*); as many wells are in service. -/
def jets : Part → Nat
  | .kx064 => 16 | .kx128 => 32 | .kx256 => 64

/-- Spare Jets; as many spare wells (R73). -/
def spares : Part → Nat
  | .kx064 => 1 | .kx128 => 2 | .kx256 => 4

/-- Cells per Jet: C of R90. -/
def cellsPerJet : Part → Nat
  | .kx064 => 24 | .kx128 => 28 | .kx256 => 32

/-- `MBX_ID.PART` (*Table — MBX_ID*). -/
def code : Part → Nat
  | .kx064 => 1 | .kx128 => 2 | .kx256 => 3

end Part

/-! ### Free values -/

/-- Log entry 9. Whether a quotient whose rounding the spec does not state is the one above the floor. -/
opaque Config.roundUp : Int → Int → Bool

/-- Log entry 10. The heat word of a heater from its code, range and calibrated resistance (R100 states no formula). -/
opaque Config.heaterHeat : Nat → Bool → Nat → BitVec 16

/-- Log entry 10. The heat word of an egress valve's ladder from its code (R134 states no formula). -/
opaque Config.valveHeat : Nat → Nat → BitVec 16

/-- Log entry 11. The phase at a heater's ladder for a code: LIN^-1 of R110, whose rounding and off-table values are not stated. -/
opaque Config.linInv : List (BitVec 16) → Nat → Nat → Nat

/-- Log entry 12. The valve's own linearisation (R99): the code change for a phase sum, by egress port. -/
opaque Config.valveLin : Nat → Int → Int

/-- Log entry 12. INTEG of a valve that its own linearisation reads a code difference as (R121), by egress port. -/
opaque Config.valveInv : Nat → Int → BitVec 32

/-- Log entry 116. The TAU_SH that best matches a loop's responses in rounds 0 to 31 after a source's step (R136 states no measure of the
match). -/
opaque Config.fitTau : List (List Int) → Nat

/-- Log entry 13. The cell that BLOCKER of a rejected route names (R50), from the request's rank in the engine's life. -/
opaque Config.blocker : Nat → Nat

/-- Log entry 119. The calibrated loss of a path (R149) from its ingress port and its cells: the egress tap power word over the ingress
one, in units of 2^-16. -/
opaque Config.pathLoss : Nat → List Nat → Nat

/-- Log entry 129. The unit's clockIdentity (R162), from MAC_BASE. -/
opaque Config.clockIdentity : BitVec 48 → BitVec 64

/-- Log entry 14. The draw of R371 (its pseudo-random sequence is not given): true tags the request. -/
opaque Config.tagDraw : Nat → Nat → Bool

/-- Log entry 15. The seed and the identifier of the lower tree under a leaf of the upper one, from ATT_SEED and ATT_ID (RFC 8554
derives a tree's own keys and no subtree's). -/
opaque Config.childSeed : BitVec 256 → BitVec 128 → Nat → BitVec 256
opaque Config.childId : BitVec 256 → BitVec 128 → Nat → BitVec 128

/-- Log entry 15. The randomiser C of an LM-OTS signature, from ATT_SEED, the leaf's index in all its level and the level (RFC 8554 lets the signer choose it). -/
opaque Config.randomiser : BitVec 256 → Nat → Nat → BitVec 256

/-- Log entry 16. SHA-256 of the boot ROM (measurement entry 0), whose contents the spec does not give. -/
opaque Config.romDigest : BitVec 256

/-- Log entry 34. Measurement entry 1 from LC_BITS, SERIAL, ROOT_HASH0, ROOT_HASH1, ROOT_REVOKE and SVN_FLOOR: their order is given,
their layout as bytes is not. -/
opaque Config.otpDigest : Nat → Nat → Nat → Nat → Nat → Nat → BitVec 256

/-- Log entry 17. MAGIC of the slot control record (R380), which the spec does not give. -/
opaque Config.slotMagic : BitVec 32

/-- Log entry 18. A quantity that falls outside its number format where the spec states no saturation: its bits, from the format's
width and the exact value. -/
opaque Config.outside : Nat → Int → Nat

/-- Log entry 23. The background estimator of R58: OFFSET and GAIN of a slice after a frame, from those before it, whether the entry
converted the reference (channel 72) or the zero (channel 73), and the raw code. -/
opaque Config.estOffset : BitVec 12 → BitVec 16 → Bool → Nat → BitVec 12
opaque Config.estGain : BitVec 12 → BitVec 16 → Bool → Nat → BitVec 16

/-- Log entry 114. The rest-to-flip writes that a calibration makes on a cell (R330), by the count of calibrations and the cell. -/
opaque Config.calToggles : Nat → Nat → Nat

/-- Log entry 19. `MBX_ID.STEP`, the silicon stepping. -/
opaque Config.stepping : BitVec 8

/-- Log entry 27. What a bus counter has counted of the transactions between two commands (their largest number in a cycle in MAX mode), by the
count of free values drawn and its SELECT. -/
opaque Config.busUnseen : Nat → List (BitVec 8) → Nat

/-- Log entry 20. A value that nothing constrains, by the count of such values drawn before it. -/
opaque Config.free : Nat → Nat

end Sys2Proof
end

