-- ==== Sys2Proof/Machine/Types.lean ====
section
/-! DEFINITION. The plain data that the commands carry and the state holds: named alternatives and records of the spec's tables.
What is done with them stands in the other files of this folder. -/

namespace Sys2Proof

/-- Modes, in the order of their codes (R12). -/
inductive Mode where
  | reset | boot | calibrate | dark | operate | degraded | maintenance | safe
  deriving DecidableEq, Repr

/-- Pair roles, in the order of their codes (*Table — Role encoding*). -/
inductive Role where
  | solo | active | standby | resync
  deriving DecidableEq, Repr

/-- Time states, in the order of their codes (R155). -/
inductive TimeState where
  | free | acquiring | locked | holdover
  deriving DecidableEq, Repr

/-- Disciplines of a port domain, in the order of their codes (R23, *Table — SLC_DOM[d] word 0*). -/
inductive Disc where
  | static | calendar | tracked
  deriving DecidableEq, Repr

/-- Cell conditions, in the order of their codes (R42). -/
inductive Cond where
  | good | stuckBar | stuckCross | opaqueCell
  deriving DecidableEq, Repr

/-- Fault classes, in the order of their codes (R310). -/
inductive FClass where
  | note | minor | major | fatal
  deriving DecidableEq, Repr

/-- Life-cycle states, in the order of their codes (R386). -/
inductive Lc where
  | blank | factory | provisioned | deployed | returned | decommissioned
  deriving DecidableEq, Repr

/-- The seven supply rails (*Table — Supply monitors*). -/
inductive Rail where
  | vddCore | vddIo | vdd18 | vdd33 | vmem | vhtr | vpin
  deriving DecidableEq, Repr

/-- Masters of the bus matrix (*Table — Bus matrix connectivity*), in the order of *Table — SELECT*'s MASTER bits. -/
inductive Master where
  | cpu | dma | capture | cladal | route | host
  deriving DecidableEq, Repr

/-- Privilege levels of a bus transaction (R352). -/
inductive Priv where
  | p0 | p1 | dev
  deriving DecidableEq, Repr

/-- The drive outputs: heater ladder n (2c + h), port ladder n, flip driver c (R75, R82). -/
inductive DacOut where
  | htr (n : Nat) | port (n : Nat) | flip (c : Nat)
  deriving DecidableEq, Repr

/-- Weir lane L or Cladal lane i (R209, R239). -/
inductive LaneId where
  | weir (l : Nat) | cld (i : Nat)
  deriving DecidableEq, Repr

/-- Loop kinds, in the order of their codes (*Table — Loop descriptor*, KIND). -/
inductive Kind where
  | empty | cell | equaliser | valve
  deriving DecidableEq, Repr

/-- Instructions of the test access port (R419): SAMPLE/PRELOAD is `sample`. -/
inductive TapInstr where
  | bypass | idcode | sample | extest | clamp | highz
  deriving DecidableEq, Repr

/-- The single-ended balls in the boundary register (R407, R419), less the test access port's own, which IEEE 1149.1 keeps out of it. -/
inductive Ball where
  | perstN | spiSck | spiCsN | spiSdi | spiSdo | qspiSck | qspiCsN | qspiIo (j : Fin 4) | ppsIn | ppsOut
  | roleOutA | roleOutB | roleInA | roleInB | presentOut | presentIn | pairSide | hostSel | resetN | intN
  deriving DecidableEq, Repr

/-- Tags of a well result, in the order of their codes (R64). -/
inductive Tag where
  | valid | settling | clipped | wake
  deriving DecidableEq, Repr

/-! ### Loops -/

/-- One coefficient bank (*Table — Coefficient bank*). -/
structure Bank where
  kp    : BitVec 16 := 0
  ki    : BitVec 16 := 0
  shP   : BitVec 8 := 0
  shI   : BitVec 8 := 0
  demSh : BitVec 8 := 0
  conSh : BitVec 8 := 0
  tauSh : BitVec 8 := 0
  a     : List (BitVec 16) := []
  deriving DecidableEq, Repr

/-- One loop descriptor (*Table — Loop descriptor*), less LOOP, which is the place it stands at. A neighbour list shorter than
eight is filled with 0xFFFF. The wipe of R390 leaves `{}`. -/
structure Desc where
  kind     : Kind := .empty
  en       : Bool := false
  htrB     : Bool := false
  st       : Bool := false
  abank    : Bool := false
  integ    : BitVec 32 := 0
  base     : BitVec 40 := 0
  lastCode : BitVec 16 := 0
  iAcc     : BitVec 32 := 0
  qAcc     : BitVec 32 := 0
  con      : BitVec 32 := 0
  drift    : BitVec 32 := 0
  ff       : BitVec 32 := 0
  lightMin : BitVec 24 := 0
  setpt    : BitVec 32 := 0
  rampStep : BitVec 16 := 0
  lockBand : BitVec 16 := 0
  nb       : List (BitVec 16) := []
  deriving DecidableEq, Repr

/-- Calibration of one heater (R101, R107, R399): its window's ends, its linearisation tables by range (256 codes each), its
resistance and its calibrated operating code. -/
structure HtrCal where
  baseMin : Nat := 0
  baseMax : Nat := 0
  linN    : List (BitVec 16) := []
  linE    : List (BitVec 16) := []
  spanN   : Nat := 0
  spanE   : Nat := 0
  resist  : Nat := 0
  opCode  : BitVec 16 := 0
  range   : Bool := false
  deriving DecidableEq, Repr

/-- Calibration of one flip segment (R82, R100). -/
structure FlipCal where
  iset     : BitVec 8 := 0
  preemph  : BitVec 3 := 0
  flipHeat : Nat := 0
  deriving DecidableEq, Repr

/-- Calibration of one ingress equaliser (R96): the codes for 0.5 dB and for 15.0 dB. -/
structure EqCal where
  codeMin : BitVec 14 := 0
  codeMax : BitVec 14 := 0
  deriving DecidableEq, Repr

/-- Correction of one slice (*Table — WELL_SLICE_CORR*). -/
structure SliceCorr where
  offset : BitVec 12 := 0
  gain   : BitVec 16 := 0
  skew   : BitVec 6 := 0
  deriving DecidableEq, Repr

/-- One measured entry of a coupling row (R136): the source's loop number, its coefficient, and the largest change in its heat word that
a reconfiguration or loop can cause. -/
structure Coef where
  source : BitVec 16
  a      : BitVec 16
  dh     : Nat
  deriving DecidableEq, Repr

/-- Body of a CAL record (R385): everything R399 loads from it, by loop, heater, cell, port or well. -/
structure CalData where
  desc   : Sparse Desc := []
  bank   : Sparse Bank := []
  htr    : Sparse HtrCal := []
  flip   : Sparse FlipCal := []
  eq     : Sparse EqCal := []
  gain   : Sparse (BitVec 2) := []
  slice  : Sparse SliceCorr := []
  cond   : Sparse (BitVec 3) := []
  rows   : Sparse (List Coef) := []     -- by loop, all its measured sources, from which firmware chooses (R136)
  deriving DecidableEq, Repr

/-- How a calibration steps a source (R136): a flip segment toggled, or a heater's or valve's code stepped by 4,096. -/
inductive StepKind where
  | toggle | code
  deriving DecidableEq, Repr

/-- What a calibration sees at one loop of a source's step (R136): the source's loop number and how it is stepped, the group of sources
stepped together, the change in its heat word by the step and the largest that a reconfiguration or loop can cause; whether every cell
concerned had light and every loop but the source was enabled and in lock; BASE + INTEG + p before the step, and in each round after it,
rounds 0 to 511. -/
structure Response where
  source : BitVec 16
  how    : StepKind
  group  : Nat
  heat   : Int
  dh     : Nat
  able   : Bool
  before : Int
  after  : List Int
  deriving DecidableEq, Repr

/-- What a calibration measures: each loop's own data, and its responses to the sources' steps, in the order measured. -/
structure CalResult where
  data  : CalData := {}
  steps : Sparse (List Response) := []
  deriving DecidableEq, Repr

/-- Column of an element (R85). -/
def columnOf (p : Part) (l : Nat) : Int :=
  if l < p.cells then (l / p.rows : Nat) else if l < p.cells + p.ports then -1 else (2 * p.m : Nat)

/-- Row of an element (R85). -/
def rowOf (p : Part) (l : Nat) : Int :=
  ((if l < p.cells then l % p.rows else if l < p.cells + p.ports then l - p.cells else l - p.cells - p.ports : Nat) : Int)

/-- Two elements within as many columns, and as many rows, of each other. -/
def near (p : Part) (cols rows l k : Nat) : Bool :=
  decide ((columnOf p l - columnOf p k).natAbs ≤ cols ∧ (rowOf p l - rowOf p k).natAbs ≤ rows)

/-! ### Connections, routes and reconfigurations -/

/-- Egress port by ingress port, for the connected ones. -/
abbrev ConnMap := Sparse Nat

/-- Domain definitions (R21, *Table — Domain definition*): domain by ingress and by egress port where it is not domain 0,
discipline by domain where it is not static, protected domains. -/
structure Domains where
  ing  : Sparse Nat := []
  egr  : Sparse Nat := []
  disc : Sparse Disc := []
  prot : BitVec 16 := 0
  deriving DecidableEq, Repr

/-- Disturbance report (*Table — Disturbance report*). -/
structure Disturb where
  outcome  : Nat := 0
  flips    : Nat := 0
  moved    : Nat := 0
  domains  : BitVec 16 := 0
  byDomain : List Nat := []
  movedMap : PortMap := 0
  blocker  : W32 := 0xFFFFFFFF
  phase    : Nat := 0
  deriving DecidableEq, Repr

/-- Stored configuration record (*Table — Stored configuration record*), less NUMBER, which is its place. -/
structure CfgRec where
  valid    : Bool := false
  entryRouted : Bool := false
  reroute  : Bool := false
  scope    : BitVec 16 := 0
  movedDom : BitVec 16 := 0
  gen      : W32 := 0
  routedAt : Time := 0
  report   : Disturb := {}
  ports    : PortMap := 0          -- ingress ports of SCOPE and MOVED when it was routed
  conn     : Sparse Nat := []
  claim    : CellMap := 0
  cells    : CellMap := 0
  deriving DecidableEq, Repr

/-! ### Calendars, entries and trains -/

/-- A calendar bank as it is written: header bytes (none when the bank is empty) and entries of 16 bytes (R187, R296). -/
structure CalBank where
  hdr  : List Byte := []
  ents : Sparse (List Byte) := []
  deriving DecidableEq, Repr

/-- States of a tracked entry, in the order of their codes (R196). -/
inductive EState where
  | pending | scheduled | armed | fired | skipped | refused
  deriving DecidableEq, Repr

/-- A committed tracked entry (*Table — Tracked entry*), the SEQ of the reconfiguration that armed it (R242), the model's notes on
how it came to fire (R202, R198), whether R181 kept it from being armed in time (R198), and whether it was mirrored as ARMED by a follow
that never came (R251). -/
structure TEntry where
  used    : Bool := false
  train   : Nat := 0
  domain  : Nat := 0
  sense   : Bool := false
  state   : EState := .pending
  config  : Nat := 0
  pos     : W32 := 0
  lead    : Nat := 0
  tFire   : Time := 0
  seqUsed : W32 := 0
  reconf  : Option W32 := none
  short   : Bool := false
  overtaken : Bool := false
  missed  : Bool := false
  lost    : Bool := false
  deriving DecidableEq, Repr

/-- A train record (*Table — Train record*). -/
structure Train where
  id      : W32 := 0
  bound   : Bool := false
  valid   : Bool := false
  stale   : Bool := false
  gone    : Bool := false
  accValid : Bool := false
  via     : Nat := 0
  seq     : W32 := 0
  fix     : Time := 0
  arrival : Time := 0
  pos     : W32 := 0
  vel     : W32 := 0
  acc     : W32 := 0
  uPos    : W32 := 0
  uVel    : W32 := 0
  uAcc    : W32 := 0
  dropped : BitVec 16 := 0
  short   : BitVec 16 := 0
  deriving DecidableEq, Repr

/-- Calendar state of a domain, in the order of its codes (*Table — SLC_DOM[d] word 0*). -/
inductive CalState where
  | none | waiting | running | suspended | stopped
  deriving DecidableEq, Repr

/-- Calendar position of one domain, as CAL_POS mirrors it (R242). -/
structure CalPos where
  state : CalState := .none
  abank : Bool := false
  entry : Nat := 0
  cycle : W32 := 0
  deriving DecidableEq, Repr

/-! ### Messages from outside -/

/-- A PTP message as it arrives, with the fields the slave uses (R161, R162; IEEE 1588-2019's own coding is not the spec's). -/
inductive PtpBody where
  | announce (prio1 clkClass accuracy variance prio2 : Nat) (gm : BitVec 64) (steps : Nat) (utc : BitVec 16)
  | sync (twoStep : Bool) (origin : Time) (correction : Int)
  | followUp (origin : Time) (correction : Int)
  | delayResp (receive : Time) (correction : Int) (logMinDelay : Int) (reqClock : BitVec 64) (reqPort : Nat)
  | management
  | other
  deriving DecidableEq, Repr

/-- Where a PTP message is sent: UDP over IPv4 to an address, or IEEE 802.3 to a MAC address. -/
inductive PtpDst where
  | udp (addr : BitVec 32)
  | ether (mac : BitVec 48)
  deriving DecidableEq, Repr

/-- A PTP message: domainNumber, sequenceId, source portIdentity, logMessageInterval, destination and body. -/
structure PtpMsg where
  domain  : Nat
  seqId   : Nat
  clock   : BitVec 64
  portNo  : Nat
  logInt  : Int
  dst     : PtpDst
  body    : PtpBody
  deriving DecidableEq, Repr

/-- What decides whether a management port receives an Ethernet frame (R414): its VLAN tag and its length in bytes. -/
structure Envelope where
  vlan : Option Nat
  size : Nat
  deriving DecidableEq, Repr

/-- A frame at management port `port` of which nothing but its envelope is read (R414). -/
structure PortFrame where
  port : Nat
  env  : Envelope
  deriving DecidableEq, Repr

/-- How the programming of the next attestation index in OTP goes (R384): `bad` bits in succession fail and are skipped, and `cut` says
that a Reset falls between programming and signing. -/
structure OtpWrite where
  bad : Nat
  cut : Bool
  deriving DecidableEq, Repr

/-- An Ethernet frame at a management port as far as R414 and R168 read it: its envelope, its IPv4 destination and UDP port where it
carries a datagram, and the datagram's payload. -/
structure Frame where
  env     : Envelope
  ip      : BitVec 32
  udp     : Nat
  payload : List Byte
  deriving DecidableEq, Repr

/-- Heartbeat payload (*Table — Heartbeat payload*). -/
structure Heartbeat where
  mode     : Mode := .reset
  role     : Role := .solo
  eligible : Bool := false
  stale    : Bool := false
  sideB    : Bool := false
  timeOk   : Bool := false
  follow   : Bool := false
  split    : Bool := false
  part     : Part := .kx256
  gap      : Nat := 0
  rate     : Nat := 0
  seqTx    : W32 := 0
  seqAck   : W32 := 0
  deriving DecidableEq, Repr

/-- What a mirror or resync item carries (*Table — Mirrored items*). -/
inductive Item where
  | domains (d : Domains)
  | applied (m : ConnMap) (seq : W32)
  | config (n : Nat) (scope : BitVec 16) (ports : PortMap) (conn : Sparse Nat) (deleted : Bool)
  | calendar (d : Nat) (bank : Bool) (content : CalBank) (committed : Bool) (start : Time) (firstCycle : Nat)
  | calPos (pos : List CalPos)
  | entry (n : Nat) (e : Option TEntry)
  | train (slot : Nat) (t : Train)
  deriving DecidableEq, Repr

/-- A message as a Cladal lane brings it. -/
structure LaneMsg where
  lane  : Nat
  bytes : List Byte
  deriving DecidableEq, Repr

/-- What a resync message's payload spells, where it ends an item (log entry 127), and whether it is the resync's last (log entry 128). -/
structure ResyncPart where
  item  : Option Item
  final : Bool
  deriving DecidableEq, Repr

/-- Log entry 127. Byte k of an item's payload (R242 gives what an item holds and no layout). -/
opaque Config.itemByte : Item → Nat → Byte

/-- An item by its name: what a resync still has to send (R255). -/
inductive ItemKey where
  | domains | applied | calPos
  | calendar (d : Nat) (bank : Bool)
  | train (k : Nat)
  | entry (n : Nat)
  | config (n : Nat)
  deriving DecidableEq, Repr

/-- Follow payload (*Table — Follow payload*). -/
structure Follow where
  reconf  : W32 := 0
  source  : Nat := 0
  domains : BitVec 16 := 0
  config  : W32 := 0
  tClose  : Time := 0
  map     : ConnMap := []
  deriving DecidableEq, Repr

/-- A message on the Cladal link (R239), with its mirror sequence; an item longer than 255 slots takes several, numbered `part`. -/
inductive CldMsg where
  | heartbeat (count : W32) (h : Heartbeat)
  | mirror (seq : W32) (part : Nat) (i : Item)
  | follow (seq : W32) (f : Follow)
  | retransmit (first : W32)
  | resync (seq : W32) (part : Nat) (i : Item)
  deriving DecidableEq, Repr

/-- What leaves the device: an MSI-X message, bytes on SPI_SDO, a message on a Weir lane, one on a Cladal lane, a frame on a
management port, a level change on PPS_OUT, an answer to a register read. -/
inductive Out where
  | msix (vector : Nat)
  | spi (bytes : List Byte)
  | weirTx (lane : Nat) (msg : List Byte)
  | cldTx (lane : Nat) (msg : CldMsg) (slots : List Byte)
  | arpReply (port : Nat) (tag : Option (BitVec 16)) (mac : BitVec 48) (addr : BitVec 32)
  | delayReq (port : Nat) (tag : Option (BitVec 16)) (mac : BitVec 48) (clock : BitVec 64) (portNo seqId : Nat)
  | readData (v : W32)
  | unsupported
  | busError
  | pps (level : Bool)
  | latched (words : List W32)
  deriving DecidableEq, Repr

end Sys2Proof
end

