-- ==== Sys2Proof/Syntax.lean ====
section
/-! DEFINITION. The commands of the block: one constructor for each row of spec/opcode_table.json, in the table's order. -/

namespace Sys2Proof

/-- One constructor per row of the table. `dt` is the device time that has passed since the command before it, in 2^-16 ns (log
entry 1); a happening whose instant the state fixes carries none (log entry 2). `slot` is the mailbox slot whose accepted frame a
host command is read from (log entry 3). -/
inductive Instr where
  -- power, reset and boot
  | powerOn (dt : Nat)
  | powerRemoved (dt : Nat)
  | supplyTrip (dt : Nat) (rail : Rail)
  | supplyWarn (dt : Nat) (rail : Rail)
  | resetNLow (dt : Nat)
  | resetRelease (dt : Nat) (pairSide hostSel : Bool)
  | watchdogExpiry (dt : Nat)
  | watchdogRestart (dt : Nat)
  | pllLock (dt : Nat)
  | basinTrained (dt : Nat)
  | wipeComplete (dt : Nat)
  | firmwareHandover (dt : Nat) (valveCodes : List (BitVec 14 × BitVec 14)) (failedJets failedWells : List Nat)
  | storeLoaded (dt : Nat)
  | refclkLoss (dt : Nat)
  | perst (dt : Nat)
  -- host window
  | spiTransaction (dt : Nat) (bytes : List Byte)
  | hostWindowWrite (dt : Nat) (offset : BitVec 16) (data : List Byte)
  | mbxDoorbell (dt : Nat) (value : W32)
  | commandAcceptance (dt : Nat)
  | barrierStart (dt slot : Nat)
  | mbxCompleteClear (dt : Nat) (value : W32)
  | mbxIrqMaskWrite (dt : Nat) (value : W32)
  | mbxRingConsWrite (dt : Nat) (value : W32)
  | mbxRingLostRead (dt : Nat)
  -- system commands
  | identify (dt slot : Nat)
  | status (dt slot : Nat)
  | reset (dt slot : Nat)
  | setMode (dt slot : Nat)
  | modeChange (dt : Nat)
  | calibrate (dt slot : Nat)
  | calibrationEnd (dt : Nat) (success : Bool) (failedCells failedJets : List Nat) (result : CalResult) (durationMs : W32)
  -- fabric commands
  | domainSet (dt slot : Nat)
  | domainGet (dt slot : Nat)
  | connect (dt slot : Nat)
  | configDefine (dt slot : Nat)
  | configDelete (dt slot : Nat)
  | configRead (dt slot : Nat)
  | configApply (dt slot : Nat)
  | cellMark (dt slot : Nat)
  | cellRead (dt slot : Nat)
  | setGap (dt slot : Nat)
  -- loop commands
  | loopRead (dt slot : Nat)
  | loopSet (dt slot : Nat)
  | loopEnable (dt slot : Nat)
  | recentre (dt slot : Nat)
  | rangeSet (dt slot : Nat)
  | setRate (dt slot : Nat)
  | loopCfg (dt slot : Nat)
  | heaterB (dt slot : Nat)
  -- calendar commands
  | calWrite (dt slot : Nat)
  | calCommit (dt slot : Nat)
  | calCommitDone (dt : Nat)
  | calStop (dt slot : Nat)
  | calRead (dt slot : Nat)
  | calStatus (dt slot : Nat)
  -- tracking commands
  | trainBind (dt slot : Nat)
  | trainRead (dt slot : Nat)
  | entryWrite (dt slot : Nat)
  | entryCommit (dt slot : Nat)
  | entryCommitDone (dt : Nat)
  | entryDelete (dt slot : Nat)
  | entryRead (dt slot : Nat)
  | telegram (dt slot : Nat)
  | trackCfg (dt slot : Nat)
  -- Weir commands
  | weirPort (dt slot : Nat)
  | weirQueue (dt slot : Nat)
  | weirLanes (dt slot : Nat)
  | weirRead (dt slot : Nat)
  -- time commands
  | timeSet (dt slot : Nat)
  | timeRead (dt slot : Nat)
  | setTod (dt slot : Nat)
  | timeStep (dt slot : Nat)
  | timeStepApply (dt : Nat)
  | netSet (dt slot : Nat)
  -- pair commands
  | pairSet (dt slot : Nat)
  | pairRead (dt slot : Nat)
  | promote (dt slot : Nat)
  | exchange (dt slot : Nat)
  | exchangeRelease
  -- fault commands
  | faultRead (dt slot : Nat)
  | faultClear (dt slot : Nat)
  | faultCfg (dt slot : Nat)
  | faultInject (dt slot : Nat)
  -- diagnostic commands
  | captureStart (dt slot : Nat)
  | captureStop (dt slot : Nat)
  | captureRead (dt slot : Nat)
  | inject (dt slot : Nat)
  | tempRead (dt slot : Nat)
  | tempCfg (dt slot : Nat)
  | wearRead (dt slot : Nat)
  | pmonSet (dt slot : Nat)
  | pmonRead (dt slot : Nat)
  -- security commands
  | attest (dt slot : Nat) (otp : OtpWrite)
  | attestRead (dt slot : Nat)
  | measureRead (dt slot : Nat)
  | fwWrite (dt slot : Nat)
  | fwActivate (dt slot : Nat)
  | fwActivateDone (dt : Nat) (back : Option (List Byte))
  | lcTransition (dt slot : Nat)
  -- internal registers, wells, ladders and Jets
  | registerWrite (dt : Nat) (master : Master) (priv : Priv) (addr : Nat) (value : W32)
  | busTimeout (dt : Nat) (master : Master) (priv : Priv) (addr : Nat) (write : Bool)
  | wellSchedWrite (dt well entry : Nat) (value : W32) (late : Bool)
  | wellChanWrite (dt well chan : Nat) (value : W32) (late : Bool)
  | wellTakeover (dt well : Nat)
  | wellFrame (dt well : Nat) (raw : List Nat)
  | wellWakeEnd (dt well : Nat)
  | rangeStepDown (dt well chan : Nat)
  | rangeStepUp (dt well chan : Nat)
  | wellSliceFail (dt well : Nat)
  | dacWrite (dt : Nat) (out : DacOut) (byJet : Bool) (value : W32)
  | rangeChangeEnd (dt heater : Nat)
  | jetSwapWrite (dt jet : Nat) (hi : Bool) (value : W32)
  | roundStart (dt : Nat) (lateFetch : List Nat)
  | skipLimitExceeded (dt jet : Nat)
  | skipWindowEnd (dt jet : Nat)
  | lockLossTimeout (dt cell : Nat)
  | driftScan (dt : Nat)
  | sramCopyRefresh (dt : Nat)
  | jetTakeover (dt jet : Nat)
  -- route engine and reconfiguration
  | routeRequest (dt : Nat)
  | routeComplete (dt : Nat)
  | cellFailureReroute (dt cell : Nat) (cond : Cond)
  | backgroundRerouteDone (dt : Nat)
  | reconfArm (dt : Nat)
  | tClose
  | tDark
  | levelReadback (mismatch : List Nat)
  | tOpen
  | settleDeadline
  | reconfReport (dt : Nat) (seq : W32)
  -- Sluice
  | entryPrepare (dt : Nat) (tracked : Bool) (domain entry : Nat)
  | entryArm (dt : Nat) (tracked : Bool) (domain entry : Nat)
  | recheckDone (dt : Nat)
  | calendarStart (domain : Nat)
  | calendarWindow (domain : Nat)
  | calendarResume (domain : Nat)
  -- telegrams, time and management ports
  | telegramReceive (dt port : Nat) (stamp : Time) (frame : Frame)
  | trainStale (train : Nat)
  | ptpMessageRx (dt port : Nat) (stamp : Time) (env : Envelope) (msg : PtpMsg)
  | delayReqTx (dt : Nat) (stamp : Time)
  | announceTimeout (dt : Nat)
  | syncTimeout (dt : Nat)
  | ppsInEdge (dt : Nat) (stamp : Time)
  | ppsTimeout (dt : Nat)
  | holdoverExpiry (dt : Nat)
  | secondBoundary
  | ppsOutEnd
  | tbNowRead (dt : Nat)
  | arpRequest (dt port : Nat) (addr : BitVec 32) (env : Envelope)
  | mgmtFrameOther (dt : Nat) (frame : PortFrame)
  | mgmtLinkChange (dt port : Nat) (up : Bool)
  -- Weir
  | laneUp (dt : Nat) (lane : LaneId)
  | laneDown (dt : Nat) (lane : LaneId)
  | weirRequest (dt lane : Nat) (msg : List Byte)
  | weirDecision (dt port : Nat)
  | timeMessageTx (dt lane : Nat)
  -- pair
  | heartbeatTx (dt : Nat)
  | heartbeatRx (dt : Nat) (msg : LaneMsg)
  | linkDownTimeout (dt : Nat)
  | mirrorSend (dt : Nat)
  | mirrorItemRx (dt : Nat) (msg : LaneMsg) (item : Option Item)
  | followRx (dt lane : Nat) (msg : List Byte)
  | retransmitRequest (dt : Nat) (msg : LaneMsg)
  | resyncItemRx (dt : Nat) (msg : LaneMsg) (part : ResyncPart)
  | resyncComplete (dt : Nat)
  | calPosPeriodic (dt : Nat)
  | roleInChange (dt : Nat) (a b : Bool)
  | roleInReleased (dt : Nat)
  | roleSplit (dt : Nat)
  | presentInChange (dt : Nat) (level : Bool)
  | presentFault (dt : Nat)
  | dualActive (dt : Nat)
  | promotion
  | takeoverReport (dt : Nat)
  -- faults
  | faultOccurrence (dt source : Nat) (holds : Bool)
  | faultWindowClose (dt source : Nat) (stayed : Bool)
  | dikeInjGo (dt : Nat) (value : W32)
  | evrLock (dt : Nat)
  -- temperature and wear
  | tempMeasurementStart (dt : Nat)
  | tempMeasurementDone (dt : Nat) (readings : List (BitVec 16))
  | wearFold (dt : Nat)
  | wearSave (dt : Nat)
  | eolPrediction (dt : Nat)
  | heaterBPendingInsert (dt cell : Nat)
  | heaterBTIns (cell : Nat)
  | heaterBReopen (cell : Nat)
  -- ends of a trigger, a warning and an injection
  | railGood (dt : Nat) (rail : Rail)
  | resetNHigh (dt : Nat)
  | supplyInRange (dt : Nat) (rail : Rail)
  | injectionDurationEnd (dt target : Nat)
  deriving DecidableEq, Repr

end Sys2Proof
end

