-- ==== Sys2Proof/Decode.lean ====
section
/-! DEFINITION. Commands from words. The command table gives no row any bits: a command comes from outside the block, and a host
command's bytes lie in a mailbox slot, where the meaning reads them. -/

namespace Sys2Proof

/-- The command that a word spells: none, since no row of the table has bits. -/
def decodeTableWord (_nbits _w : Nat) : Option Instr := none

end Sys2Proof
end

