-- ==== Sys2Proof/Machine/State.lean ====
section
/-! DEFINITION. State: every register, memory, queue, counter, mode and pin the spec gives the Kolox, as plain data, and its value
after reset. Arrays that are mostly at one value are `Sparse`: an absent place holds the default of its structure. -/

namespace Sys2Proof.Machine

/-! ### Power, reset and boot -/

/-- Supplies and the reset sequencer (R391 to R396). -/
structure Pwr where
  powered   : Bool := true         -- false while power is removed (R393)
  tripped   : List Rail := []      -- rails that tripped and are not good again (R392)
  warned    : List Rail := []      -- rails outside their operating range (R392)
  resetLow  : Bool := false        -- RESET_N recognised low (R395)
  refclk    : Bool := true         -- the reference clock runs (R376)
  plls      : Bool := false        -- the internal PLLs are locked (R396)
  basin     : Bool := false        -- the Basin interfaces are trained (R396)
  wiped     : Bool := false        -- the wipe is complete: the window answers (R396)
  stopped   : Bool := false        -- the boot ROM stopped the boot (R317, R380)
  blocked   : Bool := false        -- BLOCK_CODE has been written to every valve since Reset (R398)
  hiZ       : Bool := true         -- drive outputs high-impedance (R78)
  halted    : Bool := false        -- the management cores are halted (R318)
  t0        : Time := 0            -- the instant reset was released (R395)
  watchdog  : Time := 0            -- the watchdog's last restart (R353)
  deriving DecidableEq, Repr

/-- A command-driven mode transition in progress (R17): the mode it goes to, the slot of its command, and the Jet round in which it was
ordered, or once it is made that of the change: its response is not written in that round (R16). -/
structure Trans where
  target : Mode
  slot   : Nat
  round  : W32
  made   : Bool := false
  deriving DecidableEq, Repr

/-- Mode, role and what they depend on (R12 to R20). -/
structure Sys where
  mode      : Mode := .reset
  role      : Role := .solo
  fromDark  : Bool := false        -- Maintenance was entered from Dark (R14)
  trans     : Option Trans := none
  resetAt   : Option Time := none  -- a Reset ordered by command, at least 10 us after its response (R288, R389)
  calFull   : Bool := false        -- the calibration in progress: full or incremental, its band and cells (R289)
  calBand   : Bool := false
  calCells  : List Nat := []
  fwRun     : Bool := false        -- MBX_STATUS.FW_RUN
  throttle  : Bool := false        -- MBX_STATUS.THROTTLE (R349)
  calValid  : Bool := false        -- a valid calibration for every cell not masked as failed (R14, R400)
  uncal     : List Nat := []       -- cells that the last calibration left without one (R289)
  band      : Option Bool := none  -- band of the calibration store: false O-band, true C-band (R40)
  sideB     : Bool := false        -- PAIR_SIDE as sampled (R408)
  spi       : Bool := false        -- HOST_SEL as sampled: the SPI target is selected (R261)
  wearLoaded : Bool := false       -- the wear table has been loaded since Reset (R329)
  deriving DecidableEq, Repr

/-! ### Host mailboxes -/

/-- A command in a slot between its acceptance and its final status (R273, R274). -/
structure SlotCmd where
  slot    : Nat
  opcode  : Nat
  seq     : BitVec 16
  notify  : Bool
  barrier : Bool                   -- BARRIER is set and the command is still held by it
  started : Bool := false
  deferred : Bool := false         -- answered DEFERRED, and not final
  acc     : Time := 0              -- the instant of its acceptance
  deriving DecidableEq, Repr

/-- The register window (R266 to R279): MBX_STATUS's W1C bits, the other registers, slot and ring memory by window offset, and the
firmware's own notes on commands and on the ring. -/
structure Mbx where
  hostErr  : Bool := false
  ringOvf  : Bool := false
  faultChg : Bool := false
  statChg  : Bool := false
  done     : BitVec 8 := 0
  busy     : BitVec 8 := 0
  rung     : BitVec 8 := 0         -- doorbells not yet accepted
  irqMask  : BitVec 11 := 0x7FF
  prod     : W32 := 0
  cons     : W32 := 0
  lost     : BitVec 16 := 0
  nseq     : W32 := 0              -- the next notification number (R275)
  lostFirst : Option W32 := none   -- NSEQ of the first notification dropped since the last LOST
  lostCount : W32 := 0             -- notifications dropped since then
  ringArmed : Bool := false        -- CONS has been written since the last ring message (R278)
  ifMinor  : BitVec 8 := 0
  fwBuild  : BitVec 16 := 0
  msixOn   : Bool := false         -- MSI-X enabled in configuration space (R278)
  cmds     : List SlotCmd := []    -- accepted commands without a final status, in acceptance order
  mem      : Mem := []             -- slots at 0x1000 to 0x8FFF and ring at 0x9000 to 0xBFFF
  pairDirty : Bool := false        -- a change that R433 reports has fallen in this round
  deriving DecidableEq, Repr

/-! ### PCIe endpoint and test access port -/

/-- The PCIe endpoint's own state (R262, R278): BAR0's base address, D3hot, the link's L1, the payload size (0 128 bytes, 1 256) and the
read request size (0 128 bytes to 2 512) set, the AER status bit of an Unsupported Request, MSI-X's function mask, and by vector the
table's mask bit and the pending bit. MSI-X's enable is `Mbx.msixOn`. -/
structure Pcie where
  bar0     : W32 := 0
  d3hot    : Bool := false
  l1       : Bool := false
  payload  : Nat := 0
  readReq  : Nat := 2
  urSeen   : Bool := false
  funMask  : Bool := false
  tableMask : BitVec 32 := 0xFFFFFFFF
  pend     : BitVec 32 := 0
  deriving DecidableEq, Repr

/-- The test access port (R419): the instruction in force, the balls whose boundary cell was last updated to 1, and the data register
as the last capture left it, first bit out first. -/
structure Tap where
  instr    : TapInstr := .idcode
  boundary : List Ball := []
  shift    : List Bool := []
  deriving DecidableEq, Repr

/-! ### Dike -/

/-- One fault source (R309, R313): sticky and LASTING bits, the input's level, the open window and its count, the class last
applied, and configuration. -/
structure Src where
  sticky  : Bool := false
  lasting : Bool := false
  input   : Bool := false
  winOpen : Bool := false
  count   : BitVec 8 := 0
  applied : FClass
  winMs   : BitVec 16 := 1000
  thresh  : BitVec 8
  mask    : Bool := false
  deriving DecidableEq, Repr

/-- The fault collector (R309 to R328). A source absent from `src` holds its reset value. -/
structure Dike where
  src      : Sparse Src := []
  fatal    : Bool := false         -- the FATAL latch (R15)
  safeLine : Bool := false         -- DIKE_STATE.SAFE
  ftm      : Bool := false         -- DIKE_STATE.FTM (R327)
  injSrc   : BitVec 8 := 0         -- DIKE_INJ.SOURCE
  injCount : BitVec 8 := 0         -- DIKE_INJ.COUNT
  injLeft  : Nat := 0              -- checks still to be inverted (R326)
  injSlot  : Option Nat := none    -- slot of the FAULT_INJECT that runs until the injection ends (R327)
  fatalAt  : Option Time := none   -- the instant FATAL latched, until Reset (R16)
  safeAt   : Option Time := none   -- the instant of entry into Safe (R322)
  jetSpare : List Nat := []        -- sparing groups whose spare Jet is in service or failed (R340)
  wellSpare : List Nat := []       -- the same for wells
  deriving DecidableEq, Repr

/-! ### Loops and Jets -/

/-- What a loop's ramp is doing (R110 to R112). -/
inductive Ramp where
  | none | starting | soft | shutdown
  deriving DecidableEq, Repr

/-- One loop: its descriptor and banks, JET_LOOP_STAT, its Fountain slot, and the Jet's own working values for it. -/
structure Loop where
  desc    : Desc := {}
  bank0   : Bank := {}
  bank1   : Bank := {}
  hops    : BitVec 8 := 0
  skips   : BitVec 8 := 0
  clamps  : BitVec 8 := 0
  limit   : Bool := false
  ramping : Bool := false
  holding : Bool := false
  clamp   : Bool := false
  balanced : Bool := false
  dark    : Bool := false
  lock    : Bool := false
  enabled : Bool := false
  ramp    : Ramp := .none
  conFirst : Bool := false         -- CON is taken from the first valid round (R110)
  good    : Nat := 0               -- computing rounds within LOCK_BAND in succession, to 16 (R116)
  bad     : Nat := 0               -- computing rounds beyond it in succession, to 4
  unlit   : Nat := 0               -- rounds below LIGHT_MIN in succession, to 16 (R118)
  even    : Nat := 0               -- rounds with balanced inputs in succession, to 16
  lit     : Nat := 0               -- rounds that meet the exit condition in succession, to 16
  segs    : List (Bool × Nat) := []       -- cached linearisation segments, most recent first: EXTENDED range's table, and number (R101)
  swap    : Bool := false          -- a bank swap is requested for the next round start (R108)
  setLight : Option (BitVec 24) := none   -- parameter writes for the next round start (R123)
  setSetpt : Option (BitVec 32) := none
  setRamp : Option (BitVec 16) := none
  setLock : Option (BitVec 16) := none
  levelled : Bool := false         -- an equaliser that starts a connection (R96, R131)
  lastErr : Int := 0               -- e of the last computing round
  diff    : Int := 0               -- D of the last round with valid results
  heat    : BitVec 16 := 0         -- heat word of its heater or valve, as published at the last round start (R100, R134)
  flipHeat : BitVec 16 := 0        -- that of its flip segment (R100, R135)
  frac    : Nat := 0               -- fraction of a phase LSB of borrowed drift, in units of 2^-24 (log entry 25)
  valid   : Bool := false          -- the last round computed from valid results (R142)
  deriving DecidableEq, Repr

/-- The Fountain's slot for a loop (R83): JET_FNT_CFG, JET_FNT_AMP and the accumulator. -/
structure Fnt where
  slot    : BitVec 6 := 0
  inc     : BitVec 24 := 0
  en      : Bool := false
  amp     : BitVec 8 := 32
  phRst   : Bool := false
  acc     : BitVec 24 := 0
  deriving DecidableEq, Repr

/-- A Fountain test generator (R87): running, its waveform, loop, amplitude, increment, accumulator and rounds run. -/
structure TestGen where
  on      : Bool := false
  wave    : Nat := 0
  loop    : Nat := 0
  amp     : BitVec 12 := 0
  inc     : BitVec 24 := 0
  acc     : BitVec 24 := 0
  rounds  : Nat := 0
  armed   : Bool := false          -- armed for tasks 268 to 335 (R363): no rule arms it (log entry 125)
  base    : BitVec 16 := 0         -- the ladder's code when it started
  slot    : Nat := 0               -- the command's slot and SEQ, for the notification of R89
  seq     : BitVec 16 := 0
  ends    : Option Time := none    -- the end of its DURATION_US (R307)
  deriving DecidableEq, Repr

/-- The registers of one Jet (*Table — JET_CTRL* and those after it). WELL_SEL absent is the Jet's own number. -/
structure Jet where
  takeIdx : BitVec 4 := 0
  takeEn  : Bool := false
  wellSel : Option Nat := none
  failed  : Bool := false
  run     : Bool := false
  limit   : BitVec 8 := 16
  win     : BitVec 16 := 1024
  skipped : Nat := 0               -- skips in the window (R114)
  cap     : BitVec 8 := 255        -- JET_FNT_CAP.CAP
  takenBy : Option Nat := none     -- the spare that has taken this Jet's loops over (R121)
  remap   : Bool := false          -- the next round is the remap round of a takeover
  rewrite : Bool := false          -- the next round is the first after it: the Jet's valves and equalisers are written again (R148)
  test    : TestGen := {}
  deriving DecidableEq, Repr

/-- The Jets and the values set in every one of them alike (R92, R139). -/
structure Jets where
  loops   : Sparse Loop := []
  fnt     : Sparse Fnt := []
  regs    : Sparse Jet := []
  rate    : BitVec 2 := 0          -- JET_CTRL.RATE
  newRate : Option (BitVec 2) := none   -- a rate that takes effect at the next frame start (R92)
  rateHold : Bool := false         -- the round is the first at a new rate
  gap     : BitVec 14 := 800       -- JET_SEQ_CFG.GAP
  round   : BitVec 32 := 0         -- rounds begun
  roundAt : Time := 0              -- start of the round in progress
  horizon : W32 := 3600            -- R106's horizon, s
  sram    : Sparse Loop := []      -- the SRAM copy of R121
  raw     : Sparse Loop := []      -- slots that hold no loop in service, by 64 x Jet + slot: an idle spare's and empty ones (R123)
  rawLoop : Sparse (BitVec 16) := []   -- LOOP as written to such a slot
  deriving DecidableEq, Repr

/-! ### Wells and ladders -/

/-- *Table — WELL_SCHED[e]*. -/
structure Sched where
  en   : Bool := false
  chan : BitVec 7
  deriving DecidableEq, Repr

/-- *Table — WELL_CHAN[ch]*. -/
structure Chan where
  filtDm1 : BitVec 8 := 0
  filtK   : BitVec 3 := 0
  avgK    : BitVec 4 := 0
  gain    : BitVec 2 := 0
  deriving DecidableEq, Repr

/-- *Table — Well result word*. -/
structure Result where
  tag   : Tag := .wake
  gain  : BitVec 2 := 0
  value : BitVec 18 := 0
  chan  : BitVec 7 := 0            -- CHAN: 0 until a result is delivered
  fresh : Nat := 0                 -- the frame in which the result was produced
  start : Time := 0                -- the start of the result's window
  deriving DecidableEq, Repr

/-- A channel's window in progress (R62, R65, R66): its sum and marks, the running taint counts, the forerunner's samples, and the
counts of range selection (R61). -/
structure Window where
  sum     : Nat := 0
  n       : Nat := 0
  start   : Time := 0
  wakeTag : Bool := false
  settTag : Bool := false
  clipTag : Bool := false
  part    : Bool := false          -- begun part-way to an aligned start
  taint   : Nat := 0               -- samples still tainted by a gain change
  hist    : List (Nat × Bool × Bool × Bool) := []   -- forerunner samples, newest first, and whether wake, tainted, clipped (R68)
  filtN   : Nat := 0               -- samples since the last forerunner output
  filtTaint : Nat := 0             -- forerunner outputs still tainted
  clips   : Nat := 0               -- clipped results in succession
  lows    : Nat := 0               -- low results in succession
  deriving DecidableEq, Repr

/-- A well setting that waits for a frame start (R57): 0 for the next, 1 for the one after. -/
inductive WellSet where
  | sched (wait e : Nat) (v : Sched)
  | chan (wait ch : Nat) (v : Chan)
  | gain (wait ch : Nat) (g : BitVec 2)
  | avg (wait ch : Nat) (k : BitVec 4)
  deriving DecidableEq, Repr

/-- One well (R55 to R74, R88). -/
structure Well where
  pdAuto  : Bool := true
  pdState : Bool := true
  takeEn  : Bool := false
  takeIdx : BitVec 4 := 0
  failed  : Bool := false
  sched   : Sparse Sched := []
  chan    : Sparse Chan := []
  result  : Sparse Result := []
  slice   : Sparse SliceCorr := []
  win     : Sparse Window := []
  entTaint : Sparse Nat := []      -- by entry, its samples still tainted by a change of channel or source (R66)
  pend    : List WellSet := []
  frame   : Nat := 0               -- frames since the last change of loop rate
  frameAt : Time := 0
  wakeAt  : Option Time := none    -- start of the frame from which the start-up delay counts (R71)
  wakeDue : Bool := false          -- it wakes at the next frame start (R71)
  wakeConv : BitVec 8 := 0         -- slices whose first conversion after the delay is still due
  away    : Bool := false          -- its taps are switched to a spare (R74)
  injOn   : Bool := false          -- WELL_INJ: on, channel and current in steps of 250 nA (R88)
  injChan : Nat := 0
  injAmp  : BitVec 4 := 0
  injLoop : Nat := 0
  injSlot : Nat := 0
  injSeq  : BitVec 16 := 0
  injEnds : Option Time := none
  deriving DecidableEq, Repr

/-- *Table — DAC_HTR[n]*. -/
structure Htr where
  own    : Bool := false
  range  : Bool := false
  rcBusy : Bool := false
  rcSlot : Option Nat := none      -- the slot of the RANGE_SET that waits for the interval's end (R295)
  code   : BitVec 16 := 0
  held   : BitVec 16 := 0          -- the code the change of range began at (R79)
  deriving DecidableEq, Repr

/-- *Table — DAC_PORT[n]*. -/
structure PortDac where
  own      : Bool := false
  safe     : Bool := false
  safeCode : BitVec 14 := 0
  code     : BitVec 14 := 0
  deriving DecidableEq, Repr

/-- *Table — DAC_FLIP[c]*. -/
structure Flip where
  own     : Bool := false
  preemph : BitVec 3 := 0
  level   : Bool := false
  iset    : BitVec 8 := 0
  deriving DecidableEq, Repr

/-- The drive ladders and flip drivers (R75 to R82). -/
structure Dac where
  htr  : Sparse Htr := []
  port : Sparse PortDac := []
  flip : Sparse Flip := []
  deriving DecidableEq, Repr

/-! ### Fabric: applied state, configurations, route engine and sequencers -/

/-- Who asked for a route (R45) or a reconfiguration (R150). -/
inductive Origin where
  | connect (slot : Nat) (tries : Nat) (checkOnly : Bool)
  | define (slot n : Nat) (scope : BitVec 16)
  | apply (slot n : Nat) (tries : Nat)
  | calendar | tracked
  | reroute (cell : Nat) (slot : Option Nat)
  | follow (mirrorSeq : W32) (f : Follow)
  | catchUp
  deriving DecidableEq, Repr

/-- A route request (R45): the connections wanted and who asked. -/
structure RouteReq where
  origin  : Origin
  want    : ConnMap
  scope   : BitVec 16 := 0         -- the domains whose connections `want` gives; none for a reroute
  forEntry : Bool := false         -- CONFIG_DEFINE of a configuration that an entry names (R184)
  deriving DecidableEq, Repr

/-- A completed route on its way to be armed (R127, R291). -/
structure Routed where
  req    : RouteReq
  report : Disturb
  cells  : CellMap
  conns  : ConnMap                 -- the connections after the change
  armSeq : W32                     -- the next reconfiguration number when the engine began the route
  deriving DecidableEq, Repr

/-- An entry that a reconfiguration applies: tracked or not, domain, number, configuration, cycle, wanted instant, telegram SEQ,
whether advanced, short or overtaken. -/
structure Applied where
  tracked : Bool
  domain  : Nat
  entry   : Nat
  config  : Nat
  cycle   : W32
  wanted  : Time
  seqUsed : W32
  train   : Nat
  advanced : Bool := false
  short   : Bool := false
  overtaken : Bool := false
  deriving DecidableEq, Repr

/-- How far a reconfiguration has come (*Table — Reconfiguration sequence*). -/
inductive Phase where
  | armed | closed | dark | opened | judged | abandoned
  deriving DecidableEq, Repr

/-- A reconfiguration from its arming to its report (R126 to R150). -/
structure Reconf where
  seq      : W32
  source   : Nat
  origin   : Origin
  config   : W32
  entries  : List Applied
  cells    : CellMap               -- target cell states
  conns    : ConnMap               -- target connections
  wanted   : Time                  -- requested T_close
  tClose   : Time
  gap      : Nat
  phase    : Phase := .armed
  noWrites : Bool := false
  stored   : Option Nat := none    -- the stored configuration whose record the target applies (R185), where no entry does
  affected : PortMap := 0          -- ingress ports of the affected connections
  closure  : PortMap := 0
  opening  : PortMap := 0
  eqOn     : PortMap := 0          -- ingress ports that start a connection only after the change
  eqOff    : PortMap := 0          -- ingress ports that start one only before it
  flips    : CellMap := 0          -- cells written at T_dark
  written  : Nat := 0              -- flip levels written at T_dark
  ingPow   : Sparse Nat := []      -- by ingress port, the ingress tap power word of the first result begun at or after T_dark + 600 ns (R149)
  egrPow   : Sparse Nat := []      -- the egress tap power word of its path
  unmade   : Nat := 0              -- writes left unmade and levels not as written (LEVEL_ERR)
  todo     : List Nat := []        -- loops on affected connections still to be judged settled (R142)
  late     : List Nat := []        -- late loops
  seen     : List Nat := []        -- loops judged at least once and not yet found settled (R142, R148)
  unjudged : Nat := 0
  settleMax : Nat := 0
  grants   : Nat := 0              -- GRANTS_IN_GAP
  domains  : BitVec 16 := 0
  forced   : PortMap := 0          -- ingress ports treated as changed though unchanged (R53)
  report   : Disturb := {}
  deriving DecidableEq, Repr

/-- A stretch of time in which a heater B insertion kept the light of an ingress port's connection from coming back: from the T_open that
found it blocked to the T_close that took the port off the cell, where one has (R338). -/
structure LateSpan where
  port : Nat
  lo   : Time
  hi   : Option Time := none
  deriving DecidableEq, Repr

/-- A heater B insertion (R334 to R338): the cell, T_ins, whether the remap round is past and its cell settled, the slots of the
HEATER_B commands that wait, the egress ports held blocking, and whether it began on a connection. -/
structure Insert where
  cell    : Nat
  tIns    : Time
  running : Bool := false
  remapped : Bool := false
  settled : Bool := false
  slots   : List Nat := []
  closed  : PortMap := 0
  carried : Bool := false
  late    : List LateSpan := []    -- ingress ports routed through the cell since (R338)
  deriving DecidableEq, Repr

/-- A loop late in a reported reconfiguration, with its T_open (R143). -/
structure LateLoop where
  loop  : Nat
  tOpen : Time
  deriving DecidableEq, Repr

/-- Connections, domains, stored configurations, the route engine and the sequencers. -/
structure Fab where
  cells    : CellMap := 0          -- applied states (R430)
  conns    : ConnMap := []         -- applied connections
  cond     : Sparse (BitVec 3) := []   -- cell condition bytes (R43)
  dom      : Domains := {}
  configs  : Sparse CfgRec := []   -- stored configurations (R182)
  queue    : List RouteReq := []   -- route requests waiting, in arrival order (R52)
  active   : Option Routed := none -- the request being routed, with its outcome
  ready    : List Routed := []     -- completed routes waiting to be armed
  recon    : List Reconf := []     -- reconfigurations armed or in progress, in order of T_close
  seq      : W32 := 0              -- the next reconfiguration number (R150)
  lastFree : Time := 0             -- the last reconfiguration's T_open + 120 ns (R146)
  lastClose : Option Time := none  -- the last T_close, for R147
  failed   : PortMap := 0          -- egress ports held blocking for a failed cell (R53, R54)
  openPorts : PortMap := 0         -- egress ports whose valve is open
  cellPend : Sparse (List Nat) := []   -- failed cells that a configuration uses, until its re-route (R54)
  fired    : Sparse Nat := []      -- firings of configurations before their re-route (R54)
  bgTried  : List Nat := []        -- configurations whose background re-route was rejected since the last change
  inserts  : List Insert := []     -- heater B insertions (R334)
  routes   : Nat := 0              -- requests the engine has begun
  lateLoops : List LateLoop := []  -- late loops of reported reconfigurations, to 100 us after T_open (R143)
  lateSettle : Sparse Nat := []    -- by loop, the rounds after T_open in which it settled late
  deriving DecidableEq, Repr

/-! ### Timebase and tracker -/

/-- A foreign master as the best master clock algorithm sees it (R162). -/
structure Foreign where
  clock : BitVec 64
  portNo : Nat
  prio1 : Nat
  clkClass : Nat
  accuracy : Nat
  variance : Nat
  prio2 : Nat
  gm : BitVec 64
  steps : Nat
  utc : BitVec 16
  deriving DecidableEq, Repr

/-- One management port: PTP state, NET_SET settings (R301) and counts (R414). -/
structure Mgmt where
  linkUp  : Bool := false
  addr    : BitVec 32 := 0
  prefixLen : BitVec 8 := 0
  vlan    : BitVec 16 := 0
  mac     : BitVec 48 := 0
  groups  : List (BitVec 32) := []
  foreign : List Foreign := []
  localPrio : Nat := 128           -- localPriority of G.8275.1 (R161; log entry 129)
  other   : W32 := 0               -- other frames counted and dropped
  egrLat  : BitVec 16 := 0         -- TB_PORT_CAL
  ingLat  : BitVec 16 := 0
  asym    : W32 := 0
  deriving DecidableEq, Repr

/-- The timebase (R151 to R165). -/
structure Tb where
  now     : Time := 0              -- device time
  src     : BitVec 2 := 0          -- TB_CTRL
  profile : BitVec 2 := 0
  transport : Bool := false
  domain  : BitVec 8 := 0
  servoBw : BitVec 4 := 3
  p1En    : Bool := false
  p0En    : Bool := false
  ppsOutEn : Bool := false
  en      : Bool := false
  outliers : BitVec 16 := 0        -- TB_STATUS
  ppsSeen : Bool := false
  ppsDisagree : Bool := false
  jumpRefused : Bool := false
  parent  : Bool := false
  slew    : Bool := false
  ts      : TimeState := .free
  offset  : W32 := 0               -- TB_OFFSET
  thr     : BitVec 30 := 1000      -- TB_STEP_THR
  slewPpm : BitVec 6 := 50         -- TB_SERVO_CFG
  holdLimit : BitVec 17 := 300
  ppsDelay : BitVec 16 := 0        -- TB_PPS_DELAY
  latch   : List W32 := []         -- TB_NOW's latched words
  p0      : Mgmt := {}
  p1      : Mgmt := {}
  deriving DecidableEq, Repr

/-- What the servo and the best master clock algorithm remember between messages. -/
structure Servo where
  hasParent : Bool := false
  master  : Option Foreign := none
  first   : Bool := false          -- the next offset measurement is the first after a source was selected (R157)
  inRange : Nat := 0               -- measurements within 100 ns in succession (R156)
  above   : Nat := 0               -- measurements above the threshold in succession (R157, R158)
  lastSync : Option (Nat × Time) := none   -- a two-step Sync's sequenceId and stamp
  syncInt : Int := 0
  delayT3 : Option (Nat × Time) := none    -- a Delay_Req's sequenceId and stamp
  delaySeq : Nat := 0
  delayInt : Int := 0              -- logMinDelayReqInterval in use (R161)
  pathDelay : Int := 0             -- mean path delay, units of 2^-16 ns
  lastT12 : Int := 0               -- t2 - t1 of the last Sync
  utc     : BitVec 16 := 0
  ptpOff  : Option Int := none     -- the PTP offset of this second, for R165
  disagree : Nat := 0              -- successive seconds of disagreement, and the edge of the last of them
  disagreeAt : Time := 0
  todSet  : Bool := false          -- a host time of day is set and no edge has come since
  ppsLost : Bool := true           -- no edge for 2 s
  step    : Option (Int × Option Nat) := none   -- a step for the next round boundary, with TIME_STEP's slot
  mgmtCount : W32 := 0             -- PTP management messages, counted (R161)
  ptpCount : W32 := 0              -- PTP messages that SRC = 2 leaves unused, counted (R165)
  ppsHigh : Bool := false          -- PPS_OUT
  ppsFall : Time := 0
  deriving DecidableEq, Repr

/-- The position tracker (R166 to R177). -/
structure Trk where
  udpPort : BitVec 16 := 47806     -- TB_TRK_CFG
  ageMax  : BitVec 16 := 500
  corridor : BitVec 16 := 0        -- TB_TRK_ID
  unit    : BitVec 9 := 0
  staleMs : BitVec 16 := 2000      -- TB_TRK_STALE
  trains  : Sparse Train := []
  drops   : Sparse W32 := []       -- drops by reason code (R169)
  last    : Option (Time × Nat) := none   -- stamp and port (2 the mailbox) of the telegram last processed (R170)
  deriving DecidableEq, Repr

/-! ### Sluice -/

/-- SLC_DOM[d], the domain's calendar banks and its start or resume instant (R187 to R195). `start` is the instant of the last start
or resumption, with its cycle in `startCycle`. -/
structure SlcDom where
  abank   : Bool := false
  state   : CalState := .none
  waiting : Bool := false          -- the shadow bank is committed and waits for its start instant (R192)
  start   : Time := 0              -- that start instant, or the last one
  startCycle : Nat := 0            -- n of R193 for it
  lateBase : Bool := false
  gapFail : Bool := false
  cycWrap : Bool := false
  entry   : BitVec 12 := 0
  cycle   : Nat := 0               -- cycle in force, whole; CYCLE_NO is it modulo 2^32
  skipped : BitVec 16 := 0
  refused : BitVec 16 := 0
  late    : BitVec 16 := 0
  advanced : BitVec 16 := 0
  bank0   : CalBank := {}
  bank1   : CalBank := {}
  armedTo : Option Time := none    -- the window start last handed to the sequencers, or refused
  unfired : Bool := false          -- the calendar began while the Sluice was stopped: its first window has not fired (R194)
  firstCycle : Nat := 0            -- the first cycle that the calendar in force runs (R221)
  startConn : ConnMap := []        -- the connections applied at its start instant (R221)
  resume  : Option Time := none    -- the window start at which a suspended calendar resumes (R194)
  follows : Bool := false          -- runs on the Active unit, as last mirrored (R242)
  checkAt : Option Nat := none     -- slot of a CAL_COMMIT whose checks run (R297)
  stopAfter : Option Nat := none   -- slot of a CAL_STOP that waits for an armed entry (R297)
  deriving DecidableEq, Repr

/-- A prepared entry (R199): tracked or calendar, domain, entry number, cycle, and the record read for it (R182). -/
structure Prep where
  tracked : Bool
  domain  : Nat
  entry   : Nat
  cycle   : Nat
  record  : CfgRec
  wanted  : Time := 0              -- the window start that a calendar entry is prepared for
  deriving DecidableEq, Repr

/-- The Sluice (R181 to R207). -/
structure Slc where
  dom      : Sparse SlcDom := []
  overflow : Bool := false
  entries  : Sparse TEntry := []   -- committed tracked entries
  staged   : Sparse (List Byte) := []
  prep     : List Prep := []
  prepWait : List (Bool × Nat × Nat) := []   -- entries that reached their preparation instants with no room (R199)
  recheckAt : Option Time := none  -- when the last re-check of compatibility began, until it completes (R199)
  recheck  : List (Bool × Nat × Nat × Time) := []   -- armings that wait for it, in order (R200): tracked, domain, entry, since when
  commitSlot : Option Nat := none  -- slot of a deferred ENTRY_COMMIT
  ran      : Bool := false         -- the conditions of R181 held after the last command
  deriving DecidableEq, Repr

/-! ### Weir -/

/-- A Weir or Cladal lane at its receiver (R210). -/
structure Lane where
  up       : Bool := false
  downSeen : Bool := false
  bad      : BitVec 8 := 0
  flushed  : BitVec 8 := 0
  deriving DecidableEq, Repr

/-- A queued request: LENGTH, TAG, colour (0 green, 1 yellow). -/
structure WReq where
  len    : Nat
  tag    : BitVec 16
  colour : Nat
  deriving DecidableEq, Repr

/-- A grant decided whose sending is not due (R226): the instant from which it is, its launch, its message, and the queue that it came from
with its S and the request, which it has again where the grant is never sent (R229, R215; log entry 133). -/
structure Unsent where
  due    : Time
  launch : Time
  msg    : List Byte
  queue  : Nat
  s      : Nat
  req    : WReq
  deriving DecidableEq, Repr

/-- WEIR_PORT_CFG[n], WEIR_PORT_CNT[n] and a port's scheduling state (R223, R225). The shaper's level is in units of
2^-16 ns x Mbit/s / 8,000, that is 1 / 524,288,000 byte. -/
structure WPort where
  lineRate : BitVec 18 := 0
  overhead : BitVec 6 := 0
  glead    : BitVec 16 := 5000
  guard    : BitVec 10 := 40
  shapeRate : BitVec 18 := 0
  shapeBurst : BitVec 24 := 0
  grants   : W32 := 0
  oversize : BitVec 16 := 0
  dropped  : BitVec 16 := 0
  nextFree : Time := 0
  level    : Int := 0
  levelAt  : Time := 0
  v        : Nat := 0
  maxFit   : Nat := 0
  sent     : List (Time × Time) := []    -- launches granted, for GRANTS_IN_GAP (R226)
  unsent   : List Unsent := []     -- grants decided whose sending is not due, in the order of their decisions
  deriving DecidableEq, Repr

/-- WEIR_Q[k] with its meter and its requests (R219, R220, R223). Bucket levels are in the units of the shaper's. -/
structure WQueue where
  cir    : BitVec 18 := 200000
  aware  : Bool := false
  weight : BitVec 8 := 1
  pir    : BitVec 18 := 200000
  yelMax : BitVec 6 := 16
  cbs    : BitVec 24 := 1048638
  pbs    : BitVec 24 := 1048638
  tc     : Option Nat := none      -- bucket levels at `at`; none is full
  tp     : Option Nat := none
  filled : Time := 0
  reqs   : List WReq := []
  s      : Nat := 0
  deriving DecidableEq, Repr

/-- A blackout handed to the Weir (R128): [from, to) and the ingress ports. -/
structure Blackout where
  lo    : Time
  hi    : Time
  ports : PortMap
  deriving DecidableEq, Repr

/-- The Weir (R208 to R231). -/
structure Weir where
  laneEn   : BitVec 8 := 0
  ignored  : W32 := 0
  lanes    : Sparse Lane := []
  port     : Sparse WPort := []
  queue    : Sparse WQueue := []
  blackouts : List Blackout := []
  refusals : List (Nat × Time × Time × PortMap) := []   -- windows of refused entries (R221): domain, [s, e), ports
  deriving DecidableEq, Repr

/-! ### Pair -/

/-- A follow that waits for a target (R246, R247): its mirror sequence, message and instant of receipt; whether its route is sought,
its reconfiguration armed, or no target is held. -/
structure PFollow where
  seq     : W32
  f       : Follow
  receipt : Time
  armed   : Option W32 := none     -- SEQ of the unit's own reconfiguration
  routing : Bool := false
  noTarget : Bool := false
  deriving DecidableEq, Repr

/-- An exchange in progress (R303). -/
structure Exch where
  tX   : Time
  slot : Nat
  deriving DecidableEq, Repr

/-- A promotion in progress (R249): t_rec, t_prom, the slot of PROMOTE, and whether it ends with a takeover report. -/
structure Promo where
  tRec  : Time
  tProm : Time
  slot  : Option Nat := none
  report : Bool := true
  deriving DecidableEq, Repr

/-- A follow that the unit has armed and that no APPLIED item covers yet: the Active unit's SEQ, the domains, and the unit's own T_close
and SEQ once it has closed (R250, R251). -/
structure Newer where
  reconf  : W32
  domains : BitVec 16
  close   : Option (Time × W32) := none
  deriving DecidableEq, Repr

/-- The Cladal link and the role lines (R232 to R260). -/
structure Cld where
  bbm      : BitVec 12 := 1000
  laneEn   : BitVec 2 := 3
  linkUp   : Bool := false
  lane0    : Lane := {}
  lane1    : Lane := {}
  present  : Bool := false
  roleInA  : Bool := false
  roleInB  : Bool := false
  asserted : Bool := false         -- the partner's role, asserted and not yet released (R236)
  armedBy  : Bool := false         -- ROLE_IN has been asserted while the unit was eligible (R237)
  presentFault : Bool := false
  mirrorStale : Bool := false
  staleTakeover : Bool := false
  roleSplit : Bool := false
  dualActive : Bool := false
  settingMis : Bool := false
  pairMis  : Bool := false
  followFail : Bool := false
  hbLost   : Bool := false
  hbCount  : W32 := 0              -- heartbeats sent (R239)
  seqTx    : W32 := 0
  seqAck   : W32 := 0
  badMsg   : W32 := 0
  partner  : Heartbeat := {}
  partnerSeen : Bool := false
  resyncWait : Bool := false       -- Resync is due at the next entry into Operate or Degraded (R237)
  deriving DecidableEq, Repr

/-- What the pair mechanism holds beside CLD_STATUS. -/
structure PairSt where
  held     : PortMap := 0          -- held list (R246)
  follows  : List PFollow := []
  lastApplied : Option (ConnMap × W32) := none   -- the last APPLIED item
  promo    : Option Promo := none
  exch     : Option Exch := none
  takeover : Option (Option Nat × List Byte) := none   -- a takeover report still to be posted, and PROMOTE's slot (R252, R302)
  newer    : List Newer := []      -- follows armed since the last APPLIED item
  own      : BitVec 16 := 0        -- domains that the unit itself has reconfigured since it promoted
  outbox   : List Item := []       -- mirror items still to be sent (R242)
  resyncOut : List ItemKey := []   -- resync items still to be sent (R255)
  selfFired : List (Nat × Time × W32) := []   -- entries made FIRED at the T_close of a follow and not mirrored so yet (R251): entry, T_close, SEQ
  store    : List CldMsg := []     -- mirror and follow messages kept for retransmission, newest first (R241)
  partnerResync : Bool := false    -- the partner has been put into Resync by an old request (R241)
  resyncSeen : Bool := false       -- resync items have been received since entry into Resync
  resyncDone : Bool := false       -- the last of them has been applied (R256)
  deriving DecidableEq, Repr

/-! ### Wear and temperature -/

/-- *Table — Cell wear record* with the sums the Jets keep between folds (R329 to R332) and the counts 24 h ago (R341). -/
structure Wear where
  flips   : BitVec 40 := 0
  pending : Bool := false
  aLimit  : Bool := false
  bLimit  : Bool := false
  flipLimit : Bool := false
  eol     : BitVec 16 := 0xFFFF
  wearA   : W32 := 0
  wearB   : W32 := 0
  addFlips : Nat := 0
  hf      : Int := 0
  swing   : Nat := 0
  dose    : Nat := 0
  savedFlips : Nat := 0            -- increments over the last complete save interval (R332)
  savedA  : Nat := 0
  savedB  : Nat := 0
  baseFlips : Nat := 0             -- counts at the start of the save interval in progress
  baseA   : Nat := 0
  baseB   : Nat := 0
  dayFlips : Nat := 0
  dayA    : Nat := 0
  dayB    : Nat := 0
  eolDays : Nat := 30              -- days since EOL_DUE was last posted, or 30 when it never was
  deriving DecidableEq, Repr

/-- Settings and conditions of a sensor group (R345 to R348). Thresholds are sQ8.8. -/
structure TGroup where
  rateMode : Bool := false
  interval : Nat := 0
  warn     : Int
  thr      : Int
  hyst     : Int := 768
  period   : Nat := 100
  warnOn   : Bool := false
  thrOn    : Bool := false
  shutOn   : Bool := false
  fresh    : Bool := false         -- a change of MODE drops the conditions at the next completion
  since    : Time := 0             -- entry to RATE mode
  deriving DecidableEq, Repr

/-- Temperature measurement (R343 to R349). -/
structure Temp where
  groups   : Sparse TGroup := []
  busy     : Bool := false
  waiting  : List Nat := []        -- slots of TEMP_READ that wait for the measurement
  last     : List (BitVec 16) := []
  history  : List (Time × List Int) := []   -- completed measurements: instant and the seven values, newest first
  measured : Bool := false         -- a measurement has completed since Boot (R344)
  deriving DecidableEq, Repr

/-! ### Platform: event router, performance monitor, capture -/

/-- One performance counter (R367, R368): SELECT bytes (none when not configured), value, WRAP, snapshot. -/
structure Pmon where
  select : List Byte := []
  value  : BitVec 48 := 0
  wrap   : Bool := false
  snap   : BitVec 48 := 0
  snapWrap : Bool := false
  deriving DecidableEq, Repr

/-- A tagged request in flight (R371): the origin's slot or entry, its stage, the instant of that stage. -/
structure TagSt where
  slot   : Option Nat
  entry  : Option (Bool × Nat × Nat)
  seq    : Option W32 := none
  stage  : Nat
  stamp  : Time
  deriving DecidableEq, Repr

/-- A capture (R306, R374): its request, whether it runs or waits for the next T_close, the rounds and records so far, and the records
in order of their place in the buffer. -/
structure Capture where
  first   : Nat := 0
  count   : Nat := 0
  decim   : Nat := 1
  trig    : Bool := false
  wrapMode : Bool := false
  sizeMib : Nat := 0
  running : Bool := false
  waiting : Bool := false
  records : Nat := 0
  rounds  : Nat := 0
  wrapped : Bool := false
  skip    : Nat := 0               -- rounds until the next captured one
  mem     : Mem := []
  deriving DecidableEq, Repr

/-- A bus transaction as *Table — SELECT*'s filters see it. -/
structure Txn where
  master : Nat
  priv   : Nat
  addr   : Nat
  write  : Bool
  err    : Bool
  deriving DecidableEq, Repr

/-- The event router, performance monitor and boot control (R357, R361 to R371). -/
structure Plat where
  lock    : Bool := false
  chan    : Sparse (List W32) := []
  coinc   : BitVec 448 := 0
  echo    : BitVec 320 := 0
  lastEv  : Sparse Time := []      -- each source's last accepted event (R366), plus one unit
  pmon    : Sparse Pmon := []
  frozen  : Bool := false
  cycleAt : Time := 0              -- the instant to which CYCLES has been counted (R367)
  txns    : List (Nat × Nat × Txn) := []   -- bus events of the last cycle that had one: cycle, event, transaction (R369)
  tag     : Option TagSt := none
  tagDraws : Nat := 0
  tagRate : BitVec 4 := 0           -- PMON_CTRL.TAG_RATE
  capture : Capture := {}
  remap   : Bool := false
  events  : List (Nat × Time) := [] -- event sources raised by the command in progress and when, oldest first
  acts    : List (Nat × Nat) := []  -- task activations of this cycle and later, each with its cycle (R365)
  irq     : BitVec 64 := 0         -- processor interrupt lines activated (R363) and not yet taken by firmware
  dmaRun  : BitVec 16 := 0         -- DMA channels started (R363), and ended with an error (R356)
  dmaErr  : BitVec 16 := 0
  busExc  : Bool := false          -- a bus-error exception of the processor that firmware has not taken (R356)
  busFail : BitVec 6 := 0          -- masters that have an abandoned operation in their status (R356), by SELECT's bits
  sram    : Mem := []              -- SRAM beside the mailbox region (R355), by offset
  basin   : Mem := []              -- Basin bytes written beside those that other fields hold (R372), by offset
  deriving DecidableEq, Repr

/-! ### Polder: OTP, flash, measurement, attestation -/

/-- *Table — Store record header* (R385), but for its HMAC; the reserved bytes are 0. -/
structure StoreHdr where
  magic  : W32 := 0x53544B58
  kind   : Byte
  band   : Byte := 0
  serial : BitVec 64
  gen    : W32
  length : W32
  deriving DecidableEq, Repr

/-- One copy of a CAL record (R385): its header, its HMAC and what its body holds. -/
structure CalRec where
  hdr  : StoreHdr
  hmac : BitVec 256
  data : CalData
  deriving DecidableEq, Repr

/-- One copy of a WEAR record (R385). -/
structure WearRec where
  hdr   : StoreHdr
  hmac  : BitVec 256
  table : Sparse Wear
  deriving DecidableEq, Repr

/-- The Polder, its OTP and the board's QSPI flash (R377 to R389). -/
structure Pld where
  lcBits   : BitVec 15 := 0
  serial   : BitVec 64 := 0
  macBase  : BitVec 48 := 0
  rootHash0 : BitVec 256 := 0
  rootHash1 : BitVec 256 := 0
  rootRevoke : BitVec 2 := 0
  svnFloor : Nat := 0
  facHash  : BitVec 256 := 0
  retHash  : BitVec 256 := 0
  calKey   : BitVec 256 := 0       -- CAL_KEY, ATT_SEED and ATT_ID: 0 until they are written, all ones once destroyed (R378)
  attSeed  : BitVec 256 := 0
  attId    : BitVec 128 := 0
  scratch  : Mem := []             -- the boot ROM's scratch RAM (R377)
  attNext  : Nat := 0              -- next attestation index (ATT_COUNT's highest set bit plus one)
  image0   : List Byte := []       -- the image slots (R379), and the two copies of the slot control record (R380)
  image1   : List Byte := []
  ctl0     : List Byte := []
  ctl1     : List Byte := []
  cal0     : Option CalRec := none
  cal1     : Option CalRec := none
  wear0    : Option WearRec := none
  wear1    : Option WearRec := none
  wearSafe : Bool := true          -- no wear has been counted since the last save (R332)
  keyUsed  : Bool := false         -- PLD_BOOT_CTRL
  slotUsed : Bool := false
  frozen   : Bool := false
  log      : List (BitVec 256) := []
  fwDigest : BitVec 256 := 0
  imgSvn   : Nat := 0              -- SVN and REVOKE_OTHER of the image booted (R381)
  imgRevoke : Bool := false
  deriving DecidableEq, Repr

/-- What the Polder's commands keep: the staging image, the last signature, a verification in progress. -/
structure Sec where
  staging : Mem := []
  fwLen   : Nat := 0
  fwSlot  : Option Nat := none     -- slot of an FW_ACTIVATE in progress
  sig     : List Byte := []
  deriving DecidableEq, Repr

/-! ### The whole machine -/

/-- Reasons a command stops the machine. No rule of the spec stops it: no meaning answers this. -/
inductive Fault where
  /-- Raised by no command. Safe: it adds no behaviour. -/
  | none
  deriving DecidableEq, Repr

/-- Reasons a command has no meaning. -/
inductive Refusal where
  /-- Raised by an arm of `exec` whose meaning is not written. Safe: the model answers nothing. -/
  | notModelled (mnemonic : String)
  deriving DecidableEq, Repr

/-- The Kolox and the queue of the commands that wait, first in first out. -/
structure State where
  part  : Part := .kx256
  pwr   : Pwr := {}
  sys   : Sys := {}
  mbx   : Mbx := {}
  pcie  : Pcie := {}
  tap   : Tap := {}
  dike  : Dike := {}
  jets  : Jets := {}
  wells : Sparse Well := []
  dac   : Dac := {}
  cal   : CalData := {}            -- calibration in force (Basin, R372)
  fab   : Fab := {}
  tb    : Tb := {}
  servo : Servo := {}
  trk   : Trk := {}
  slc   : Slc := {}
  weir  : Weir := {}
  cld   : Cld := {}
  pair  : PairSt := {}
  wear  : Sparse Wear := []
  temp  : Temp := {}
  plat  : Plat := {}
  pld   : Pld := {}
  sec   : Sec := {}
  out   : List Out := []           -- what left the device during the last command
  draws : Nat := 0                 -- the model's own: free values drawn so far
  pending : List Instr := []
  deriving DecidableEq, Repr

/-- The machine right after reset: power has come up, every rail is good, Reset is asserted (mode Reset), and every register is at its
reset value; where the spec gives none the value named in log entry 4 stands. -/
def State.reset : State := {}

end Sys2Proof.Machine
end

