-- ==== Sys2Proof/Machine/Ops.lean ====
section
/-! DEFINITION. Shared operations on plain data: sparse arrays, bytes and fields, byte memory, instants of device time, saturating
and free values. -/

namespace Sys2Proof.Machine

/-! ### Sparse arrays -/

/-- The value at place `i`; `d` is the value of an absent place. -/
def sget {α : Type} (d : α) : Sparse α → Nat → α
  | [], _ => d
  | (j, v) :: t, i => if i = j then v else sget d t i

/-- A value put at place `i` before the first greater place. -/
def sput {α : Type} (i : Nat) (v : α) : Sparse α → Sparse α
  | [] => [(i, v)]
  | (j, w) :: t => if i < j then (i, v) :: (j, w) :: t else (j, w) :: sput i v t

/-- Place `i` set to `v`: rising places are kept, and a place that holds `d` is not listed. -/
def sset {α : Type} [DecidableEq α] (d : α) (a : Sparse α) (i : Nat) (v : α) : Sparse α :=
  let rest := a.filter fun e => !decide (e.1 = i)
  if v = d then rest else sput i v rest

/-- Place `i` changed by `f`. -/
def smod {α : Type} [DecidableEq α] (d : α) (a : Sparse α) (i : Nat) (f : α → α) : Sparse α :=
  sset d a i (f (sget d a i))

/-- Places 0 to `n` - 1 given by `f`, the rest absent. -/
def stab {α : Type} [DecidableEq α] (d : α) (n : Nat) (f : Nat → α) : Sparse α :=
  (List.range n).filterMap fun i => if f i = d then none else some (i, f i)

/-- Every place of 0 to `n` - 1 changed by `f`; the rest are dropped. -/
def smap {α : Type} [DecidableEq α] (d : α) (n : Nat) (a : Sparse α) (f : Nat → α → α) : Sparse α :=
  stab d n fun i => f i (sget d a i)

/-- Canonical form: rising places from `lo`, none of them holding `d`. -/
def swfFrom {α : Type} [DecidableEq α] (d : α) : Nat → Sparse α → Bool
  | _, [] => true
  | lo, (j, v) :: t => decide (lo ≤ j) && !decide (v = d) && swfFrom d (j + 1) t

/-- Canonical form of a sparse array. -/
abbrev swf {α : Type} [DecidableEq α] (d : α) (a : Sparse α) : Bool := swfFrom d 0 a

/-- The places that hold a value, in order. -/
abbrev skeys {α : Type} (a : Sparse α) : List Nat := a.map (·.1)

/-! ### Bytes and fields (R6) -/

/-- `n` bytes of `v`, little-endian. -/
def le : Nat → Nat → List Byte
  | 0, _ => []
  | n + 1, v => BitVec.ofNat 8 v :: le n (v / 256)

/-- The number that little-endian bytes spell. -/
def leNat : List Byte → Nat
  | [] => 0
  | b :: t => b.toNat + 256 * leNat t

/-- The field of `n` bytes at `off`; bytes beyond the end read 0. -/
def fld (p : List Byte) (off n : Nat) : Nat := leNat ((p.drop off).take n)

/-- `n` bytes at `off`. -/
def sub (p : List Byte) (off n : Nat) : List Byte := (p.drop off).take n

/-- `n` zero bytes. -/
abbrev zeros (n : Nat) : List Byte := List.replicate n 0

/-- The first `n` bytes of `p`, filled with zeros. -/
def pad (n : Nat) (p : List Byte) : List Byte := (p ++ zeros n).take n

/-- Bit `i` of `v`. -/
abbrev bit (v i : Nat) : Bool := v.testBit i

/-- Bits `hi` to `lo` of `v`. -/
def bits (v hi lo : Nat) : Nat := v / 2 ^ lo % 2 ^ (hi + 1 - lo)

/-- A flag as a number. -/
abbrev flag (b : Bool) : Nat := if b then 1 else 0

/-- `n` bytes whose bit `i` is `f i`. -/
def bitMap (n : Nat) (f : Nat → Bool) : List Byte :=
  (List.range n).map fun k => BitVec.ofNat 8 (((List.range 8).map fun b => flag (f (8 * k + b)) * 2 ^ b).sum)

/-- A signed field of `n` bits. -/
def sgn (n v : Nat) : Int := if bit v (n - 1) then ((v % 2 ^ n : Nat) : Int) - 2 ^ n else ((v % 2 ^ n : Nat) : Int)

/-- A signed number as the bits of an `n`-bit field. -/
def unsgn (n : Nat) (v : Int) : Nat := (v % 2 ^ n).toNat

/-- Bits of a map that are set, from 0 to `n` - 1, in order. -/
def ones {w : Nat} (n : Nat) (v : BitVec w) : List Nat := (List.range n).filter fun i => v.getLsbD i

/-- The map with bit `i` set. -/
abbrev bitAt (w i : Nat) : BitVec w := BitVec.ofNat w (2 ^ i)

/-- The map whose set bits are listed. -/
def mapOf (w : Nat) (l : List Nat) : BitVec w := l.foldl (fun m i => m ||| bitAt w i) 0

/-- A map with bit `i` given. -/
def setBit {w : Nat} (v : BitVec w) (i : Nat) (b : Bool) : BitVec w := if b then v ||| bitAt w i else v &&& ~~~(bitAt w i)

/-! ### Byte memory -/

/-- `n` bytes from address `a`; a byte that was never written reads 0. -/
def mread (m : Mem) (a n : Nat) : List Byte := (List.range n).map fun k => sget 0 m (a + k)

/-- Bytes stored from address `a`. -/
def mwrite : Mem → Nat → List Byte → Mem
  | m, _, [] => m
  | m, a, b :: t => mwrite (sset 0 m a b) (a + 1) t

/-! ### Instants of device time (R151 to R154) -/

/-- Units of device time in a second. -/
abbrev sec : Nat := 1000000000 * 65536

/-- An instant in the 12-byte format of *Table — Device time format*. -/
def timeBytes (t : Time) : List Byte := le 2 (t % 65536) ++ le 4 (t / 65536 % 1000000000) ++ le 6 (t / sec)

/-- The instant that a field in this format gives, at `off`. -/
def timeOf (p : List Byte) (off : Nat) : Time :=
  (fld p (off + 6) 6 * 1000000000 + fld p (off + 2) 4) * 65536 + fld p off 2

/-- A field in this format is well formed (R152). -/
def timeOk (p : List Byte) (off : Nat) : Bool := decide (fld p (off + 2) 4 ≤ 999999999)

/-- The difference of two instants by their counts (R153). -/
def tdiff (a b : Time) : Int := sgn 64 (unsgn 64 ((a : Int) - (b : Int)))

/-- `a` is later than `b` (R153). -/
def later (a b : Time) : Bool := decide (0 < tdiff a b)

/-- The horizon of R154: 36 h. -/
abbrev horizon : Nat := 36 * 3600 * sec

/-- An instant lies within the horizon of device time `now` (R154). -/
def inHorizon (now t : Time) : Bool := decide ((t : Int) - now ≤ horizon ∧ (now : Int) - t ≤ horizon)

/-! ### Counters and other numbers -/

/-- A counter field that saturates (R9). -/
def satInc {w : Nat} (v : BitVec w) : BitVec w := if v = BitVec.allOnes w then v else v + 1

/-- A counter field after `k` counts (R9). -/
def satAdd {w : Nat} (v : BitVec w) (k : Nat) : BitVec w := BitVec.ofNat w (min (2 ^ w - 1) (v.toNat + k))

/-- A number limited to `lo` to `hi`. -/
def clampI (lo hi v : Int) : Int := max lo (min hi v)

/-- floor(a / b) for b above 0. -/
def fdiv (a b : Int) : Int := a.fdiv b

/-- A quotient whose rounding the spec does not state: the floor, or one above it as log entry 9's free value says. -/
def quot (a b : Int) : Int :=
  if a.fmod b = 0 then a.fdiv b else if Config.roundUp a b then a.fdiv b + 1 else a.fdiv b

/-- The nearest integer to a / b for b above 0; which of two equally near ones is log entry 9's free value. -/
def nearest (a b : Int) : Int :=
  if 2 * a.fmod b = b then (if Config.roundUp a b then a.fdiv b + 1 else a.fdiv b)
  else if 2 * a.fmod b > b then a.fdiv b + 1 else a.fdiv b

/-- The next free value (log entry 20). -/
def draw (s : State) : Nat × State := (Config.free s.draws, { s with draws := s.draws + 1 })

/-- An element of a list by place, with a default. -/
abbrev nth {α : Type} (d : α) (l : List α) (i : Nat) : α := l.getD i d

/-- Every element of a list applied to a state in turn. -/
abbrev forEach {α : Type} (l : List α) (s : State) (f : State → α → State) : State := l.foldl f s

/-- Device time after `dt` more; it stands still without the reference clock (R376). -/
def elapse (dt : Nat) (s : State) : State :=
  if s.pwr.refclk && s.pwr.powered then { s with tb := { s.tb with now := s.tb.now + dt } } else s

/-- Device time moved on to a scheduled instant, never back (log entry 2). -/
def reach (t : Time) (s : State) : State := { s with tb := { s.tb with now := max s.tb.now t } }

end Sys2Proof.Machine
end

