-- ==== Sys2Proof/Machine/Digest.lean ====
section
/-! DEFINITION. CRC-32C (R269) and SHA-256 (FIPS 180-4, named by R377 and R382). -/

namespace Sys2Proof.Machine

/-- `n` steps of the reflected shift register. -/
def crcBits : Nat → BitVec 32 → BitVec 32
  | 0, c => c
  | n + 1, c => crcBits n (if c.getLsbD 0 then (c >>> 1) ^^^ 0x82F63B78#32 else c >>> 1)

/-- The register after the bytes. -/
def crcBytes : List Byte → BitVec 32 → BitVec 32
  | [], c => c
  | b :: t, c => crcBytes t (crcBits 8 (c ^^^ b.zeroExtend 32))

/-- CRC-32C of R269. -/
def crc32c (p : List Byte) : BitVec 32 := crcBytes p 0xFFFFFFFF#32 ^^^ 0xFFFFFFFF#32

/-! ### SHA-256 -/

/-- Round constants. -/
def shaK : List (BitVec 32) :=
  [0x428A2F98, 0x71374491, 0xB5C0FBCF, 0xE9B5DBA5, 0x3956C25B, 0x59F111F1, 0x923F82A4, 0xAB1C5ED5,
   0xD807AA98, 0x12835B01, 0x243185BE, 0x550C7DC3, 0x72BE5D74, 0x80DEB1FE, 0x9BDC06A7, 0xC19BF174,
   0xE49B69C1, 0xEFBE4786, 0x0FC19DC6, 0x240CA1CC, 0x2DE92C6F, 0x4A7484AA, 0x5CB0A9DC, 0x76F988DA,
   0x983E5152, 0xA831C66D, 0xB00327C8, 0xBF597FC7, 0xC6E00BF3, 0xD5A79147, 0x06CA6351, 0x14292967] ++
  [0x27B70A85, 0x2E1B2138, 0x4D2C6DFC, 0x53380D13, 0x650A7354, 0x766A0ABB, 0x81C2C92E, 0x92722C85,
   0xA2BFE8A1, 0xA81A664B, 0xC24B8B70, 0xC76C51A3, 0xD192E819, 0xD6990624, 0xF40E3585, 0x106AA070,
   0x19A4C116, 0x1E376C08, 0x2748774C, 0x34B0BCB5, 0x391C0CB3, 0x4ED8AA4A, 0x5B9CCA4F, 0x682E6FF3,
   0x748F82EE, 0x78A5636F, 0x84C87814, 0x8CC70208, 0x90BEFFFA, 0xA4506CEB, 0xBEF9A3F7, 0xC67178F2]

/-- Initial hash value. -/
def shaInit : List (BitVec 32) :=
  [0x6A09E667, 0xBB67AE85, 0x3C6EF372, 0xA54FF53A, 0x510E527F, 0x9B05688C, 0x1F83D9AB, 0x5BE0CD19]

/-- The padded message. -/
def shaPad (p : List Byte) : List Byte :=
  p ++ [0x80#8] ++ zeros ((119 - p.length % 64) % 64) ++ (le 8 (8 * p.length)).reverse

/-- A big-endian word. -/
def beWord (p : List Byte) : BitVec 32 := BitVec.ofNat 32 (leNat p.reverse)

/-- The message schedule, newest word first: `n` more words after those of `w`. -/
def shaSched : Nat → List (BitVec 32) → List (BitVec 32)
  | 0, w => w
  | n + 1, w =>
    let s0 := (nth 0 w 14).rotateRight 7 ^^^ (nth 0 w 14).rotateRight 18 ^^^ (nth 0 w 14 >>> 3)
    let s1 := (nth 0 w 1).rotateRight 17 ^^^ (nth 0 w 1).rotateRight 19 ^^^ (nth 0 w 1 >>> 10)
    shaSched n ((nth 0 w 15 + s0 + nth 0 w 6 + s1) :: w)

/-- One round: the working variables a to h, the round constant and the schedule word. -/
def shaRound (v : List (BitVec 32)) (kw : BitVec 32 × BitVec 32) : List (BitVec 32) :=
  match v with
  | [a, b, c, d, e, f, g, h] =>
    let s1 := e.rotateRight 6 ^^^ e.rotateRight 11 ^^^ e.rotateRight 25
    let t1 := h + s1 + ((e &&& f) ^^^ (~~~e &&& g)) + kw.1 + kw.2
    let s0 := a.rotateRight 2 ^^^ a.rotateRight 13 ^^^ a.rotateRight 22
    let t2 := s0 + ((a &&& b) ^^^ (a &&& c) ^^^ (b &&& c))
    [t1 + t2, a, b, c, d + t1, e, f, g]
  | v => v

/-- One block of 64 bytes. -/
def shaBlock (h : List (BitVec 32)) (p : List Byte) : List (BitVec 32) :=
  let w := ((List.range 16).map fun i => beWord (sub p (4 * i) 4)).reverse
  List.zipWith (· + ·) h ((shaK.zip (shaSched 48 w).reverse).foldl shaRound h)

/-- The digest, first byte first. -/
def sha256 (p : List Byte) : List Byte :=
  let m := shaPad p
  let h := (List.range (m.length / 64)).foldl (fun h i => shaBlock h (sub m (64 * i) 64)) shaInit
  h.flatMap fun w => (le 4 w.toNat).reverse

/-- A digest held as a number whose most significant byte is the first. -/
def digestBytes (d : BitVec 256) : List Byte := (le 32 d.toNat).reverse

/-- The number that holds a digest. -/
def digestOf (p : List Byte) : BitVec 256 := BitVec.ofNat 256 (leNat p.reverse)

end Sys2Proof.Machine
end

