-- ==== Sys2Proof/Machine/Lms.lean ====
section
/-! DEFINITION. The hash-based engines of the Polder (R377): HMAC-SHA-256, and verification and signing by LMS, LM-OTS and HSS with
SHA-256, w = 4 (R308, R379, R383). The algorithms are FIPS 180-4's and RFC 8554's, which the spec names and does not set out (log entry
15). -/

namespace Sys2Proof.Machine

/-- A number in `n` bytes, the most significant first. -/
def be (n v : Nat) : List Byte := (le n v).reverse

/-- A field of a big-endian record. -/
def beFld (p : List Byte) (off n : Nat) : Nat := leNat (sub p off n).reverse

/-! ### HMAC-SHA-256 -/

/-- HMAC-SHA-256 under a 32-byte key. -/
def hmacSha256 (key msg : List Byte) : List Byte :=
  let k := pad 64 key
  sha256 (k.map (· ^^^ 0x5C) ++ sha256 (k.map (· ^^^ 0x36) ++ msg))

/-! ### LM-OTS (LMOTS_SHA256_N32_W4: n = 32, w = 4, p = 67, ls = 4) -/

/-- The digits of a hash and of its checksum, each from 0 to 15. -/
def otsDigits (q : List Byte) : List Nat :=
  let nibbles : List Byte → List Nat := fun p => p.flatMap fun b : Byte => [b.toNat / 16, b.toNat % 16]
  let d := nibbles q
  d ++ (nibbles (be 2 (d.foldl (fun a x => a + (15 - x)) 0 * 16))).take 3

/-- `n` steps of chain `i` from step `j` on. -/
def otsChain (id : List Byte) (leaf i : Nat) : Nat → Nat → List Byte → List Byte
  | 0, _, y => y
  | n + 1, j, y => otsChain id leaf i n (j + 1) (sha256 (id ++ be 4 leaf ++ be 2 i ++ be 1 j ++ y))

/-- The hash of a message that LM-OTS signs, with its randomiser. -/
def otsHash (id : List Byte) (leaf : Nat) (c msg : List Byte) : List Byte := sha256 (id ++ be 4 leaf ++ be 2 0x8181 ++ c ++ msg)

/-- A one-time public key from the ends of its chains. -/
def otsKey (id : List Byte) (leaf : Nat) (ends : List (List Byte)) : List Byte := sha256 (id ++ be 4 leaf ++ be 2 0x8080 ++ ends.flatten)

/-! ### LMS -/

/-- The code of LMS_SHA256_M32_H`h`. -/
def lmsType (h : Nat) : Nat := h / 5 + 4

/-- Bytes of an LMS signature. -/
def lmsLen (h : Nat) : Nat := 2188 + 32 * h

/-- A leaf's node, and an inner one. -/
def leafNode (id : List Byte) (r : Nat) (key : List Byte) : List Byte := sha256 (id ++ be 4 r ++ be 2 0x8282 ++ key)

/-- An inner node of the tree, from its two children. -/
def innerNode (id : List Byte) (r : Nat) (a b : List Byte) : List Byte := sha256 (id ++ be 4 r ++ be 2 0x8383 ++ a ++ b)

/-- The root that a path of sibling nodes leads to from node `r`. -/
def climb (id : List Byte) : Nat → List Byte → List (List Byte) → List Byte
  | _, t, [] => t
  | r, t, x :: path => climb id (r / 2) (if r % 2 = 1 then innerNode id (r / 2) x t else innerNode id (r / 2) t x) path

/-- A signature verifies over a message under a public key of height `h` (RFC 8554, algorithms 6 and 6a). -/
def lmsVerify (h : Nat) (pub sig msg : List Byte) : Bool :=
  let id := sub pub 8 16
  let leaf := beFld sig 0 4
  let digits := otsDigits (otsHash id leaf (sub sig 8 32) msg)
  let ends := (List.range 67).map fun i =>
    let a := nth 0 digits i
    otsChain id leaf i (15 - a) a (sub sig (40 + 32 * i) 32)
  let path := (List.range h).map fun i => sub sig (2188 + 32 * i) 32
  decide (pub.length = 56 ∧ sig.length = lmsLen h ∧ beFld pub 0 4 = lmsType h ∧ beFld pub 4 4 = 3 ∧ leaf < 2 ^ h ∧
    beFld sig 4 4 = 3 ∧ beFld sig 2184 4 = lmsType h) &&
    decide (climb id (2 ^ h + leaf) (leafNode id (2 ^ h + leaf) (otsKey id leaf ends)) path = sub pub 24 32)

/-- Element `i` of a leaf's private key, derived from the tree's seed (RFC 8554, appendix A). -/
def otsSecret (id seed : List Byte) (leaf i : Nat) : List Byte := sha256 (id ++ be 4 leaf ++ be 2 i ++ be 1 0xFF ++ seed)

/-- A leaf's one-time public key. -/
def leafKey (id seed : List Byte) (leaf : Nat) : List Byte :=
  otsKey id leaf ((List.range 67).map fun i => otsChain id leaf i 15 0 (otsSecret id seed leaf i))

/-- The node `r` of a tree of height `h` that stands `k` levels above its leaves. -/
def treeNode (id seed : List Byte) (h : Nat) : Nat → Nat → List Byte
  | 0, r => leafNode id r (leafKey id seed (r - 2 ^ h))
  | k + 1, r => innerNode id r (treeNode id seed h k (2 * r)) (treeNode id seed h k (2 * r + 1))

/-- A tree's public key. -/
def lmsPublic (id seed : List Byte) (h : Nat) : List Byte := be 4 (lmsType h) ++ be 4 3 ++ id ++ treeNode id seed h h 1

/-- The signature of a leaf over a message, with its randomiser `c`. -/
def lmsSign (id seed : List Byte) (h leaf : Nat) (c msg : List Byte) : List Byte :=
  let digits := otsDigits (otsHash id leaf c msg)
  let y := (List.range 67).flatMap fun i => otsChain id leaf i (nth 0 digits i) 0 (otsSecret id seed leaf i)
  let path := (List.range h).flatMap fun k => treeNode id seed h k ((2 ^ h + leaf) / 2 ^ k ^^^ 1)
  be 4 leaf ++ be 4 3 ++ c ++ y ++ be 4 (lmsType h) ++ path

/-! ### HSS of two levels of height 10 (R308) -/

/-- The seed and identifier of the lower tree under a leaf of the upper one, from ATT_SEED and ATT_ID. -/
def childSeed (seed : BitVec 256) (id : BitVec 128) (leaf : Nat) : List Byte := digestBytes (Config.childSeed seed id leaf)

/-- The identifier of that tree. -/
def childId (seed : BitVec 256) (id : BitVec 128) (leaf : Nat) : List Byte := be 16 (Config.childId seed id leaf).toNat

/-- The HSS signature of an index over a message: the level count less one, the upper tree's signature over the lower one's public key,
that key, and the lower tree's signature. The upper signature is one for each lower tree, whatever its leaf (RFC 8554, 6.2). -/
def hssSign (seed : BitVec 256) (id : BitVec 128) (index : Nat) (msg : List Byte) : List Byte :=
  let up := index / 1024
  let c := fun index level : Nat => digestBytes (Config.randomiser seed index level)
  let pub := lmsPublic (childId seed id up) (childSeed seed id up) 10
  be 4 1 ++ lmsSign (be 16 id.toNat) (digestBytes seed) 10 up (c up 0) pub ++ pub ++
    lmsSign (childId seed id up) (childSeed seed id up) 10 (index % 1024) (c index 1) msg

end Sys2Proof.Machine
end

