-- ==== Sys2Proof/Machine/Stores.lean ====
section
/-! DEFINITION. The calibration store in flash: which copy of each record is loaded, the copy that a write replaces (R385), and a cell's
condition byte changed in both of its places (R43). -/

namespace Sys2Proof.Machine

/-- Log entry 34. The bytes of a CAL record's body and of a WEAR record's: what they hold is given, their layout is not. -/
opaque Config.calBody : CalData → List Byte
opaque Config.wearBody : Sparse Wear → List Byte

/-- A secret OTP field that the engines use: written, and not destroyed (R378). -/
def usable {w : Nat} (k : BitVec w) : Bool := decide (k ≠ 0 ∧ k ≠ BitVec.allOnes w)

/-- Bytes 0 to 31 of a store record. -/
def hdrBytes (h : StoreHdr) : List Byte :=
  le 4 h.magic.toNat ++ [h.kind, h.band] ++ zeros 2 ++ le 8 h.serial.toNat ++ le 4 h.gen.toNat ++ le 4 h.length.toNat ++ zeros 8

/-- A record's HMAC-SHA-256 under CAL_KEY. -/
def storeMac (p : Pld) (h : StoreHdr) (body : List Byte) : BitVec 256 :=
  digestOf (hmacSha256 (digestBytes p.calKey) (hdrBytes h ++ body))

/-- A record's HMAC verifies, under a key that the engine uses, and its SERIAL matches (R385). -/
def storeAuth (p : Pld) (h : StoreHdr) (hmac : BitVec 256) (body : List Byte) : Bool :=
  usable p.calKey && decide (hmac = storeMac p h body) && decide (h.serial = p.serial)

/-- A CAL copy authenticates on this module. -/
def calAuth (p : Pld) (r : CalRec) : Bool := storeAuth p r.hdr r.hmac (Config.calBody r.data)

/-- A WEAR copy authenticates on this module. -/
def wearAuth (p : Pld) (r : WearRec) : Bool := storeAuth p r.hdr r.hmac (Config.wearBody r.table)

/-- The whole of a CAL copy, header, HMAC and body. -/
def calBytes (r : CalRec) : List Byte := hdrBytes r.hdr ++ digestBytes r.hmac ++ Config.calBody r.data

/-- The CAL copy that is loaded: authentic, and of the higher GEN. -/
def calRecord (p : Pld) : Option CalRec :=
  match p.cal0.filter (calAuth p), p.cal1.filter (calAuth p) with
  | some a, some b => some (if a.hdr.gen.toNat < b.hdr.gen.toNat then b else a)
  | some a, none => some a
  | none, b => b

/-- The WEAR copy that is loaded. -/
def wearRecord (p : Pld) : Option WearRec :=
  match p.wear0.filter (wearAuth p), p.wear1.filter (wearAuth p) with
  | some a, some b => some (if a.hdr.gen.toNat < b.hdr.gen.toNat then b else a)
  | some a, none => some a
  | none, b => b

/-- Copy 0 is the one to write: it fails authentication, or has the lower GEN. -/
def writeFirst (g0 g1 : Option W32) : Bool :=
  match g0, g1 with
  | none, _ => true
  | some _, none => false
  | some a, some b => decide (a.toNat ≤ b.toNat)

/-- GEN of the copy written: one above the other's, up to its maximum (R9). -/
def nextGen (first : Bool) (g0 g1 : Option W32) : W32 := satInc ((if first then g1 else g0).getD 0)

/-- A record sealed with its HMAC; the engine gives 0 under a key that it refuses (log entry 17). -/
def sealed (p : Pld) (h : StoreHdr) (body : List Byte) : BitVec 256 := if usable p.calKey then storeMac p h body else 0

/-- A CAL copy as firmware writes it. -/
def sealCal (p : Pld) (h : StoreHdr) (d : CalData) : CalRec := ⟨h, sealed p h (Config.calBody d), d⟩

/-- A WEAR copy as firmware writes it. -/
def sealWear (p : Pld) (h : StoreHdr) (t : Sparse Wear) : WearRec := ⟨h, sealed p h (Config.wearBody t), t⟩

/-- The CAL record written. -/
def storeCal (bandC : Bool) (d : CalData) (p : Pld) : Pld :=
  let g0 := (p.cal0.filter (calAuth p)).map (·.hdr.gen)
  let g1 := (p.cal1.filter (calAuth p)).map (·.hdr.gen)
  let first := writeFirst g0 g1
  let r := sealCal p { kind := 1, band := if bandC then 1 else 0, serial := p.serial, gen := nextGen first g0 g1,
                       length := BitVec.ofNat 32 (Config.calBody d).length } d
  if first then { p with cal0 := some r } else { p with cal1 := some r }

/-- The WEAR record written. -/
def storeWear (t : Sparse Wear) (p : Pld) : Pld :=
  let g0 := (p.wear0.filter (wearAuth p)).map (·.hdr.gen)
  let g1 := (p.wear1.filter (wearAuth p)).map (·.hdr.gen)
  let first := writeFirst g0 g1
  let r := sealWear p { kind := 2, serial := p.serial, gen := nextGen first g0 g1,
                        length := BitVec.ofNat 32 (Config.wearBody t).length } t
  if first then { p with wear0 := some r } else { p with wear1 := some r }

/-- A cell's condition byte changed in the stored CAL record, where one is there to be loaded. -/
def storeCond (c : Nat) (f : BitVec 3 → BitVec 3) (p : Pld) : Pld :=
  match calRecord p with
  | some r => storeCal (decide (r.hdr.band = 1)) { r.data with cond := smod 0 r.data.cond c f } p
  | none => p

/-- A cell's condition byte changed in service: in the Basin's table, in the calibration in force and in the calibration store (R43). -/
def changeCond (c : Nat) (f : BitVec 3 → BitVec 3) (s : State) : State :=
  { s with
    fab := { s.fab with cond := smod 0 s.fab.cond c f }
    cal := { s.cal with cond := smod 0 s.cal.cond c f }
    pld := storeCond c f s.pld }

end Sys2Proof.Machine
end

