-- ==== Sys2Proof/Machine/Flags.lean ====
section
/-! DEFINITION. Every status word and flag of the registers, computed from the state: codes of the named alternatives, the fault
sources' fixed properties, MBX_STATUS, MBX_FAULT_SUMMARY, the Dike's, the Jets', the wells', the ladders', the Sluice's and the
Cladal's words. -/

namespace Sys2Proof.Machine

/-! ### Codes -/

/-- *Table — Mode encoding*. -/
def modeCode : Mode → Nat
  | .reset => 0 | .boot => 1 | .calibrate => 2 | .dark => 3 | .operate => 4 | .degraded => 5 | .maintenance => 6 | .safe => 7

/-- The mode of a code. -/
def modeOf : Nat → Mode
  | 0 => .reset | 1 => .boot | 2 => .calibrate | 3 => .dark | 4 => .operate | 5 => .degraded | 6 => .maintenance | _ => .safe

/-- *Table — Role encoding*. -/
def roleCode : Role → Nat
  | .solo => 0 | .active => 1 | .standby => 2 | .resync => 3

/-- *Table — Time states*. -/
def timeCode : TimeState → Nat
  | .free => 0 | .acquiring => 1 | .locked => 2 | .holdover => 3

/-- Discipline codes. -/
def discCode : Disc → Nat
  | .static => 0 | .calendar => 1 | .tracked => 2

/-- *Table — Cell conditions*. -/
def condCode : Cond → Nat
  | .good => 0 | .stuckBar => 1 | .stuckCross => 2 | .opaqueCell => 3

/-- The condition of a code. -/
def condOf : Nat → Cond
  | 0 => .good | 1 => .stuckBar | 2 => .stuckCross | _ => .opaqueCell

/-- *Table — Fault classes*. -/
def classCode : FClass → Nat
  | .note => 0 | .minor => 1 | .major => 2 | .fatal => 3

/-- LC_STATE of *Table — IDENTIFY response*. -/
def lcCode : Lc → Nat
  | .blank => 0 | .factory => 1 | .provisioned => 2 | .deployed => 3 | .returned => 4 | .decommissioned => 5

/-- TAG codes (R64). -/
def tagCode : Tag → Nat
  | .valid => 0 | .settling => 1 | .clipped => 2 | .wake => 3

/-- KIND codes (R123). -/
def kindCode : Kind → Nat
  | .empty => 0 | .cell => 1 | .equaliser => 2 | .valve => 3

/-- CAL_STATE codes. -/
def calCode : CalState → Nat
  | .none => 0 | .waiting => 1 | .running => 2 | .suspended => 3 | .stopped => 4

/-- STATE codes of a tracked entry (R196). -/
def entryCode : EState → Nat
  | .pending => 0 | .scheduled => 1 | .armed => 2 | .fired => 3 | .skipped => 4 | .refused => 5

/-! ### Mode sets -/

/-- Modes in which the unit is in service: Operate, Degraded, Maintenance. -/
def inService : Mode → Bool
  | .operate | .degraded | .maintenance => true
  | _ => false

/-- Modes in which a Standby is eligible (R19). -/
def mayPromote : Mode → Bool
  | .operate | .degraded => true
  | _ => false

/-- The set *run* of R282. -/
def inRun : Mode → Bool
  | .calibrate | .dark | .operate | .degraded | .maintenance => true
  | _ => false

/-- The set *svc* of R282. -/
def inSvc : Mode → Bool
  | .dark | .operate | .degraded | .maintenance => true
  | _ => false

/-- Standby and eligible under R19. -/
def eligible (y : Sys) : Bool := decide (y.role = .standby) && mayPromote y.mode

/-- Roles that let light out (R19, R237). -/
def roleLit : Role → Bool
  | .solo | .active => true
  | _ => false

/-- The valves follow the connection set: the mode opens them (R13) and the role lets light out (R148). -/
def valvesLive (y : Sys) : Bool := inService y.mode && roleLit y.role

/-! ### Fault sources -/

/-- Class of a source (*Table — Fault sources*). -/
def srcClass (n : Nat) : FClass :=
  if n ≤ 3 ∨ n = 7 ∨ n = 13 then .fatal
  else if n = 4 ∨ n = 5 ∨ n = 9 ∨ n = 14 ∨ n = 15 ∨ n = 16 then .major
  else if n = 6 ∨ n = 11 ∨ n = 12 ∨ n = 18 ∨ n = 166 ∨ n = 168 ∨ n = 169 ∨ n = 170 ∨ n = 184 ∨ n = 186 ∨ n = 188 ∨ n = 189
    ∨ n = 191 then .note
  else .minor

/-- Lasting class of a source. -/
def srcLasting (n : Nat) : FClass :=
  if n = 6 ∨ n = 11 ∨ n = 12 ∨ n = 168 ∨ n = 169 then .minor
  else if n = 8 ∨ n = 10 ∨ n = 19 ∨ (156 ≤ n ∧ n ≤ 159) ∨ n = 164 then .major
  else srcClass n

/-- Reset value of THRESHOLD; 1 where the table gives a dash (log entry 4). -/
def srcThresh (n : Nat) : BitVec 8 :=
  if n = 6 ∨ n = 168 ∨ n = 169 then 16
  else if n = 11 then 255
  else if n = 8 ∨ n = 10 ∨ n = 12 ∨ n = 164 ∨ (171 ≤ n ∧ n ≤ 178) ∨ n = 181 ∨ n = 187 ∨ n = 188 ∨ n = 189 then 4
  else if n = 19 ∨ (160 ≤ n ∧ n ≤ 163) then 8
  else if 156 ≤ n ∧ n ≤ 159 then 3
  else 1

/-- Sources whose checker can be fed an injection. -/
def srcCheck (n : Nat) : Bool :=
  decide (n ≤ 7 ∨ n = 10 ∨ n = 11 ∨ (20 ≤ n ∧ n ≤ 155) ∨ n = 164)

/-- The sparing group of a Jet or well: of a spare, the group it covers (*Table — Well sparing groups*). -/
def spareGroup (p : Part) (n : Nat) : Nat := if n < p.jets then n / 16 else n - p.jets

/-- A source of a Jet, a well or a sparing group that the part lacks (R312). -/
def srcAbsent (p : Part) (n : Nat) : Bool :=
  let units := p.jets + p.spares
  decide ((20 ≤ n ∧ n ≤ 87 ∧ units ≤ n - 20) ∨ (88 ≤ n ∧ n ≤ 155 ∧ units ≤ n - 88) ∨
    (156 ≤ n ∧ n ≤ 163 ∧ p.spares ≤ (n - 156) % 4))

/-- A source at reset. -/
def srcReset (n : Nat) : Src := { applied := srcClass n, thresh := srcThresh n }

/-- A source of the Dike. -/
def src (d : Dike) (n : Nat) : Src := sget (srcReset n) d.src n

/-- The Dike with one source changed. -/
def setSrc (d : Dike) (n : Nat) (v : Src) : Dike := { d with src := sset (srcReset n) d.src n v }

/-- Sources whose sticky bit is set. -/
def stickies (d : Dike) : List Nat := (d.src.filter fun e => e.2.sticky).map (·.1)

/-- Some sticky source has this class applied. -/
def classAny (d : Dike) (c : FClass) : Bool := d.src.any fun e => e.2.sticky && decide (e.2.applied = c)

/-- MBX_FAULT_SUMMARY (R324). -/
def summaryWord (d : Dike) : W32 :=
  BitVec.ofNat 32 (flag (classAny d .fatal) * 2 ^ 31 + flag (classAny d .major) * 2 ^ 30 + flag (classAny d .minor) * 2 ^ 29 +
    flag (classAny d .note) * 2 ^ 28 + (stickies d).length % 256)

/-- DIKE_STATE. -/
def dikeStateWord (d : Dike) : W32 :=
  BitVec.ofNat 32 (flag d.safeLine * 2 ^ 31 + flag d.fatal * 2 ^ 30 + flag d.ftm * 2 ^ 29 + (stickies d).length % 256 * 2 ^ 8 +
    flag (classAny d .fatal) * 8 + flag (classAny d .major) * 4 + flag (classAny d .minor) * 2 + flag (classAny d .note))

/-- DIKE_SRC_CFG[n] word 0. -/
def srcCfgWord0 (d : Dike) (n : Nat) : W32 :=
  let v := src d n
  BitVec.ofNat 32 (v.winMs.toNat * 65536 + v.thresh.toNat * 256 + flag v.mask * 128 + flag (srcCheck n) * 32 +
    classCode (srcLasting n) * 4 + classCode (srcClass n))

/-- DIKE_SRC_CFG[n] word 1. -/
def srcCfgWord1 (d : Dike) (n : Nat) : W32 :=
  BitVec.ofNat 32 (classCode (src d n).applied * 256 + (src d n).count.toNat)

/-! ### Rounds (R92) -/

/-- The round length of a loop rate, in frames of 1 microsecond (R92). -/
def framesPerRound (rate : BitVec 2) : Nat := 2 ^ min 2 rate.toNat

/-- The round length. -/
def roundTime (rate : BitVec 2) : Time := ns 1000 * framesPerRound rate

/-- Two instants not before the round in progress lie in one Jet round (R16). -/
def sameRound (s : State) (a b : Time) : Bool :=
  decide (s.jets.roundAt ≤ a ∧ s.jets.roundAt ≤ b ∧
    (a - s.jets.roundAt) / roundTime s.jets.rate = (b - s.jets.roundAt) / roundTime s.jets.rate)

/-- A latched FATAL fault makes the device ignore a Reset trigger (R15); one of the Jet round in which it latched ranks above it (R16). -/
def resetIgnored (s : State) : Bool :=
  s.dike.fatal && !(match s.dike.fatalAt with
    | some t => sameRound s t s.tb.now
    | none => false)

/-! ### Conditions of the unit -/

/-- A masked source whose sticky bit is set (R316). -/
def maskedSticky (d : Dike) : Bool := d.src.any fun e => e.2.sticky && e.2.mask

/-- A heater B insertion is pending (R334). -/
def insertPending (w : Sparse Wear) : Bool := w.any fun e => e.2.pending

/-- A degraded condition is present (R14). -/
def degradedCond (s : State) : Bool := maskedSticky s.dike || insertPending s.wear

/-- The ROLE_OUT lines (R235). -/
def roleOut (s : State) : Bool := decide (s.sys.role = .active)

/-- PRESENT_OUT (R235). -/
def presentOut (s : State) : Bool := !decide (s.sys.mode = .reset)

/-- Firmware runs and serves the slots (R318, R376). -/
def fwLive (s : State) : Bool := s.sys.fwRun && !s.pwr.halted && s.pwr.refclk

/-- The conditions of R181. -/
def sluiceRuns (s : State) : Bool :=
  inService s.sys.mode && roleLit s.sys.role && s.pwr.refclk &&
    decide (s.tb.ts = .locked ∨ s.tb.ts = .holdover)

/-- The clocks of the Sluice, the position tracker and the route engine run: they stop at the end of the round in which Safe is entered, and
with the reference clock (R375, R376). -/
def slcClock (s : State) : Bool :=
  s.pwr.refclk && (!decide (s.sys.mode = .safe) || s.dike.safeAt.any fun t => sameRound s t s.tb.now)

/-- MBX_STATUS bits 31:20. -/
def statusTop (s : State) : Nat :=
  modeCode s.sys.mode * 512 + roleCode s.sys.role * 128 + flag (eligible s.sys) * 64 + timeCode s.tb.ts * 8 +
    flag s.sys.throttle * 4 + flag s.sys.fwRun * 2 + flag s.dike.fatal

/-- MBX_STATUS. -/
def statusWord (s : State) : W32 :=
  BitVec.ofNat 32 (statusTop s * 2 ^ 20 + flag s.mbx.hostErr * 8 + flag s.mbx.ringOvf * 4 + flag s.mbx.faultChg * 2 +
    flag s.mbx.statChg)

/-- MBX_ID. -/
def idWord (p : Part) : W32 := BitVec.ofNat 32 (0x1F6A * 65536 + p.code * 256 + Config.stepping.toNat)

/-- MBX_VERSION. -/
def versionWord (m : Mbx) : W32 := BitVec.ofNat 32 (3 * 2 ^ 24 + m.ifMinor.toNat * 65536 + m.fwBuild.toNat)

/-- The firmware counts entries unread (R275). -/
def unread (m : Mbx) : Nat := (m.prod - m.cons).toNat

/-- An unmasked condition of *Table — Interrupt conditions* is present. -/
def irqPresent (m : Mbx) : Bool :=
  decide ((m.done &&& ~~~(m.irqMask.extractLsb' 0 8)) ≠ 0) || (!m.irqMask.getLsbD 8 && decide (m.prod ≠ m.cons)) ||
    (!m.irqMask.getLsbD 9 && m.faultChg) || (!m.irqMask.getLsbD 10 && m.statChg)

/-- MSI-X messages are in use (R278). -/
def msixInUse (s : State) : Bool := !s.sys.spi && s.mbx.msixOn

/-- ROLE_IN is asserted: either wire is high (R236). -/
def roleIn (s : State) : Bool := s.cld.roleInA || s.cld.roleInB

/-- The level of INT_N is asserted, that is low (R279). -/
def intAsserted (s : State) : Bool := !msixInUse s && !decide (s.sys.mode = .reset) && irqPresent s.mbx

/-! ### Cladal -/

/-- Follows pending (R247). -/
def pendingFollows (p : PairSt) : Nat := p.follows.length

/-- Bits of CLD_STATUS that clear by writing 1. -/
abbrev cldW1c : W32 := 0x00017300

/-- CLD_STATUS. -/
def cldStatusWord (s : State) : W32 :=
  let c := s.cld
  BitVec.ofNat 32 (flag c.linkUp * 2 ^ 31 + flag c.lane1.up * 2 ^ 30 + flag c.lane0.up * 2 ^ 29 + flag s.sys.sideB * 2 ^ 28 +
    flag c.present * 2 ^ 27 + flag c.roleInB * 2 ^ 26 + flag c.roleInA * 2 ^ 25 + flag (eligible s.sys) * 2 ^ 24 +
    roleCode s.sys.role * 2 ^ 22 + flag c.presentFault * 2 ^ 16 + flag c.mirrorStale * 2 ^ 15 + flag c.staleTakeover * 2 ^ 14 +
    flag c.roleSplit * 2 ^ 13 + flag c.dualActive * 2 ^ 12 + flag c.settingMis * 2 ^ 11 + flag c.pairMis * 2 ^ 10 +
    flag c.followFail * 2 ^ 9 + flag c.hbLost * 2 ^ 8 + min 255 (pendingFollows s.pair))

/-- CLD_CTRL. -/
def cldCtrlWord (c : Cld) : W32 := BitVec.ofNat 32 (c.bbm.toNat * 65536 + c.laneEn.toNat)

/-! ### Jets, wells and ladders -/

/-- A loop of the machine. -/
def loopOf (s : State) (n : Nat) : Loop := sget {} s.jets.loops n

/-- A Jet's registers. -/
def jetOf (s : State) (j : Nat) : Jet := sget {} s.jets.regs j

/-- A well. -/
def wellOf (s : State) (w : Nat) : Well := sget {} s.wells w

/-- JET_LOOP_STAT. -/
def loopStatWord (l : Loop) : W32 :=
  BitVec.ofNat 32 (l.hops.toNat * 2 ^ 24 + l.skips.toNat * 65536 + l.clamps.toNat * 256 + flag l.limit * 128 +
    flag l.ramping * 64 + flag l.holding * 32 + flag l.clamp * 16 + flag l.balanced * 8 + flag l.dark * 4 + flag l.lock * 2 +
    flag l.enabled)

/-- A descriptor's neighbour k: 0xFFFF where its list is shorter, and 0 in one that nothing has written since the wipe (R123, R390). -/
def nbAt (d : Desc) (k : Nat) : BitVec 16 := nth (if d.kind = .empty then 0 else 0xFFFF) d.nb k

/-- A loop descriptor's 64 bytes (*Table — Loop descriptor*); an empty slot's LOOP is 0. -/
def descBytes (n : Nat) (d : Desc) : List Byte :=
  le 2 n ++ le 1 (kindCode d.kind) ++ le 1 (flag d.en + flag d.htrB * 2 + flag d.st * 4 + flag d.abank * 8) ++
    le 4 d.integ.toNat ++ le 5 d.base.toNat ++ zeros 1 ++ le 2 d.lastCode.toNat ++ le 4 d.iAcc.toNat ++ le 4 d.qAcc.toNat ++
    le 4 d.con.toNat ++ le 4 d.drift.toNat ++ le 4 d.ff.toNat ++ le 4 d.lightMin.toNat ++ le 4 d.setpt.toNat ++
    le 2 d.rampStep.toNat ++ le 2 d.lockBand.toNat ++ (List.range 8).flatMap fun k => le 2 (nbAt d k).toNat

/-- A coefficient bank's 32 bytes (*Table — Coefficient bank*). -/
def bankBytes (b : Bank) : List Byte :=
  le 2 b.kp.toNat ++ le 2 b.ki.toNat ++ le 1 b.shP.toNat ++ le 1 b.shI.toNat ++ le 1 b.demSh.toNat ++ le 1 b.conSh.toNat ++
    le 1 b.tauSh.toNat ++ zeros 7 ++ (List.range 8).flatMap fun k => le 2 (nth 0 b.a k).toNat

/-- A bank from its 32 bytes. -/
def bankOf (p : List Byte) : Bank :=
  { kp := BitVec.ofNat 16 (fld p 0 2), ki := BitVec.ofNat 16 (fld p 2 2), shP := BitVec.ofNat 8 (fld p 4 1),
    shI := BitVec.ofNat 8 (fld p 5 1), demSh := BitVec.ofNat 8 (fld p 6 1), conSh := BitVec.ofNat 8 (fld p 7 1),
    tauSh := BitVec.ofNat 8 (fld p 8 1),
    a := (List.range 8).map fun k => BitVec.ofNat 16 (fld p (16 + 2 * k) 2) }

/-- A bank's bytes that R124 accepts. -/
def bankOk (p : List Byte) : Bool :=
  decide (fld p 4 1 ≤ 31 ∧ fld p 5 1 ≤ 31 ∧ fld p 6 1 ≤ 15 ∧ fld p 7 1 ≤ 15 ∧ fld p 8 1 ≤ 15) && (sub p 9 7).all (· == 0)

/-- The active bank (R108). -/
def Loop.active (l : Loop) : Bank := if l.desc.abank then l.bank1 else l.bank0

/-- The shadow bank. -/
def Loop.shadow (l : Loop) : Bank := if l.desc.abank then l.bank0 else l.bank1

/-- DAC_HTR[n]. -/
def htrWord (h : Htr) : W32 :=
  BitVec.ofNat 32 (flag h.own * 2 ^ 31 + flag h.range * 2 ^ 30 + flag h.rcBusy * 2 ^ 29 + h.code.toNat)

/-- DAC_PORT[n]. -/
def portWord (d : PortDac) : W32 :=
  BitVec.ofNat 32 (flag d.own * 2 ^ 31 + flag d.safe * 2 ^ 30 + d.safeCode.toNat * 65536 + d.code.toNat)

/-- DAC_FLIP[c]. -/
def flipWord (f : Flip) : W32 :=
  BitVec.ofNat 32 (flag f.own * 2 ^ 31 + f.preemph.toNat * 4096 + flag f.level * 256 + f.iset.toNat)

/-- A well result word (*Table — Well result word*). -/
def resultWord (r : Result) : W32 :=
  BitVec.ofNat 32 (tagCode r.tag * 2 ^ 30 + r.gain.toNat * 2 ^ 28 + r.chan.toNat * 2 ^ 21 + r.value.toNat)

/-- A sequencer is BUSY: a reconfiguration is armed or in progress (*Table — JET_SEQ_CFG*). -/
def seqBusy (f : Fab) : Bool := f.recon.any fun r => decide (r.phase = .armed ∨ r.phase = .closed ∨ r.phase = .dark ∨ r.phase = .opened)

/-! ### Sluice -/

/-- SLC_DOM[d] of a state. -/
def slcDom (s : State) (d : Nat) : SlcDom := sget {} s.slc.dom d

/-- The discipline of a domain. -/
def discOf (m : Domains) (d : Nat) : Disc := sget .static m.disc d

/-- SLC_CTRL. -/
def slcCtrlWord (s : State) : W32 :=
  BitVec.ofNat 32 (min 255 s.slc.prep.length * 2 ^ 24 + flag s.slc.overflow * 2 + flag (sluiceRuns s))

end Sys2Proof.Machine
end

