-- ==== Sys2Proof/Machine/Line.lean ====
section
/-! DEFINITION. What stands on a lane: the blocks of a slot and the scrambler (R209), and the bytes of a Cladal message (R239, R240,
R245). -/

namespace Sys2Proof.Machine

/-! ### Slots and blocks (R209) -/

/-- A slot of two blocks. -/
inductive Slot where
  | message (m : List Byte)
  | idle
  | align (lane : Nat)
  deriving DecidableEq, Repr

/-- A block: its sync header and its 64 bits, the first byte in the lowest ones. -/
structure Block where
  sync : BitVec 2
  bits : BitVec 64
  deriving DecidableEq, Repr

/-- A block of type 0x4B with O code 0xF, and its three data bytes, of which the rule names the first. Where the fields stand in the
block is IEEE 802.3 clause 49's (PRESUMED, log entry 126). -/
def orderedSet (d : Nat) : Block := ⟨2, BitVec.ofNat 64 (0x4B + d * 2 ^ 8 + 0xF * 2 ^ 32)⟩

/-- The two blocks of a slot. -/
def slotBlocks : Slot → List Block
  | .message m => [⟨1, BitVec.ofNat 64 (fld m 0 8)⟩, ⟨1, BitVec.ofNat 64 (fld m 8 8)⟩]
  | .idle => [⟨2, 0x1E⟩, ⟨2, 0x1E⟩]
  | .align lane => [orderedSet lane, orderedSet 0]

/-- The slot that a transmitter sends as its n-th: an alignment slot in every 16,384 blocks, else a message that waits, else an idle
slot. -/
def txSlot (lane n : Nat) (waiting : Option (List Byte)) : Slot :=
  if n % 8192 = 0 then .align lane else match waiting with
    | some m => .message m
    | none => .idle

/-- The scrambler on a block's bits, first bit first, from the 58 bits sent before, the latest lowest: 1 + x^39 + x^58 of IEEE 802.3 clause
49 (PRESUMED, log entry 126). -/
def scramble : List Bool → BitVec 58 → List Bool
  | [], _ => []
  | b :: t, h =>
    let x := b != (h.getLsbD 38 != h.getLsbD 57)
    x :: scramble t ((h <<< 1) ||| BitVec.ofNat 58 (flag x))

/-- The descrambler, from the 58 bits received before. -/
def descramble : List Bool → BitVec 58 → List Bool
  | [], _ => []
  | x :: t, h => (x != (h.getLsbD 38 != h.getLsbD 57)) :: descramble t ((h <<< 1) ||| BitVec.ofNat 58 (flag x))

/-! ### Connection maps in the CONN_MAP coding (R182) -/

/-- Entry n of a map of 512 bytes. -/
def mapEntry (map : List Byte) (n : Nat) : Nat := fld map (2 * n) 2

/-- The connections that a map gives. -/
def mapConns (map : List Byte) : ConnMap :=
  (List.range 256).filterMap fun n => let v := mapEntry map n; if v < 0x100 then some (n, v) else none

/-- The egress port that a map gives In. -/
def egOf (m : ConnMap) (n : Nat) : Option Nat := (m.find? fun e => e.1 == n).map (·.2)

/-- The bytes of a map of connections: 0xFFFE for a port that it leaves out. -/
def connBytes (inside : Nat → Bool) (m : ConnMap) : List Byte :=
  (List.range 256).flatMap fun n => if inside n then le 2 ((egOf m n).getD 0xFFFF) else le 2 0xFFFE

/-! ### Cladal payloads (R240, R245) -/

/-- Part code of HEALTH. -/
def partCode : Part → Nat
  | .kx064 => 0
  | .kx128 => 1
  | .kx256 => 2

/-- *Table — Heartbeat payload*. -/
def heartbeatBytes (h : Heartbeat) : List Byte :=
  le 1 (modeCode h.mode + roleCode h.role * 8 + flag h.eligible * 32 + flag h.stale * 64 + flag h.sideB * 128) ++
    le 1 (flag h.timeOk + flag h.follow * 2 + flag h.split * 4 + partCode h.part * 8) ++ le 2 h.gap ++ le 1 h.rate ++ zeros 3 ++
    le 4 h.seqTx.toNat ++ le 4 h.seqAck.toNat

/-- The heartbeat that a payload gives; none where a reserved bit is set or the part code has no meaning. -/
def heartbeatIn (p : List Byte) : Option Heartbeat :=
  let st := fld p 0 1
  let he := fld p 1 1
  let part : Option Part := nth none [some .kx064, some .kx128, some .kx256] (he / 8 % 4)
  if p.length ≠ 16 ∨ 32 ≤ he ∨ 4 ≤ fld p 4 1 ∨ fld p 5 3 ≠ 0 then none
  else part.map fun part =>
    { mode := nth .reset [.reset, .boot, .calibrate, .dark, .operate, .degraded, .maintenance, .safe] (st % 8),
      role := nth .solo [.solo, .active, .standby, .resync] (st / 8 % 4), eligible := decide (st / 32 % 2 = 1),
      stale := decide (st / 64 % 2 = 1), sideB := decide (st / 128 % 2 = 1), timeOk := decide (he % 2 = 1),
      follow := decide (he / 2 % 2 = 1), split := decide (he / 4 % 2 = 1), part := part, gap := fld p 2 2, rate := fld p 4 1,
      seqTx := BitVec.ofNat 32 (fld p 8 4), seqAck := BitVec.ofNat 32 (fld p 12 4) }

/-- *Table — Follow payload*. -/
def followBytes (p : Part) (f : Follow) : List Byte :=
  le 4 f.reconf.toNat ++ le 1 f.source ++ zeros 1 ++ le 2 f.domains.toNat ++ le 4 f.config.toNat ++ timeBytes f.tClose ++ zeros 8 ++
    (if f.config = 0xFFFFFFFF then connBytes (fun n => decide (n < p.ports)) f.map else [])

/-- The follow that a payload gives; none where its length is not that of its CONFIG or a reserved bit is set. -/
def followIn (p : List Byte) : Option Follow :=
  let config := BitVec.ofNat 32 (fld p 8 4)
  let map := config = 0xFFFFFFFF
  if p.length ≠ (if map then 544 else 32) ∨ fld p 5 1 ≠ 0 ∨ fld p 24 8 ≠ 0 then none
  else some { reconf := BitVec.ofNat 32 (fld p 0 4), source := fld p 4 1, domains := BitVec.ofNat 16 (fld p 6 2), config := config,
              tClose := timeOf p 12, map := if map then mapConns (p.drop 32) else [] }

/-- Item codes of *Table — Mirrored items*. -/
def itemCode : Item → Nat
  | .domains _ => 1
  | .applied _ _ => 2
  | .config _ _ _ _ _ => 3
  | .calendar _ _ _ _ _ _ => 4
  | .calPos _ => 5
  | .entry _ _ => 6
  | .train _ _ => 7

/-- Bytes of an item's payload, in whole slots (R242 gives the content and no layout: DESIGN CHOICE, log entry 127). -/
def itemLen : Item → Nat
  | .domains _ => 544
  | .applied _ _ => 528
  | .config _ _ _ _ _ => 528
  | .calendar _ _ c _ _ _ => 64 + 16 * c.ents.length
  | .calPos _ => 192
  | .entry _ _ => 48
  | .train _ _ => 80

/-- Messages that an item takes: 255 slots in each (R239). -/
def itemMsgs (i : Item) : Nat := (itemLen i + 4079) / 4080

/-- The payload of an item's j-th message. -/
def itemBytes (i : Item) (j : Nat) : List Byte :=
  (List.range (min 4080 (itemLen i - 4080 * j))).map fun k => Config.itemByte i (4080 * j + k)

/-! ### Cladal messages (R239) -/

/-- A Cladal message: its header slot, with both CRCs, and its payload slots. -/
def cldSlots (type item seq : Nat) (payload : List Byte) : List Byte :=
  let h := le 1 type ++ le 1 (payload.length / 16) ++ le 2 item ++ le 4 seq ++
    le 4 (if payload.isEmpty then 0 else (crc32c payload).toNat)
  h ++ le 4 (crc32c h).toNat ++ payload

/-- The bytes of a message. -/
def cldBytes (p : Part) : CldMsg → List Byte
  | .heartbeat count h => cldSlots 1 0 count.toNat (heartbeatBytes h)
  | .mirror seq part i => cldSlots 2 (itemCode i) seq.toNat (itemBytes i part)
  | .follow seq f => cldSlots 3 0 seq.toNat (followBytes p f)
  | .retransmit first => cldSlots 4 0 first.toNat []
  | .resync seq part i => cldSlots 5 (itemCode i) seq.toNat (itemBytes i part)

/-- A message that the receiver drops (R239): a CRC fails, the slots are not those that the header counts, or TYPE or ITEM is not as
defined. -/
def cldBad (m : List Byte) : Bool :=
  let t := fld m 0 1
  let i := fld m 2 2
  let p := m.drop 16
  decide (m.length ≠ 16 + 16 * fld m 1 1) || decide (fld m 12 4 ≠ (crc32c (m.take 12)).toNat) ||
    decide (fld m 8 4 ≠ if p.isEmpty then 0 else (crc32c p).toNat) || decide (t = 0 ∨ 5 < t) ||
    (if t = 2 ∨ t = 5 then decide (i = 0 ∨ 7 < i) else decide (i ≠ 0))

end Sys2Proof.Machine
end

