-- ==== Sys2Proof/Machine/Notify.lean ====
section
/-! DEFINITION. What the host sees of the machine's work: interrupt messages, the notification ring, responses and completions of
commands. -/

namespace Sys2Proof.Machine

/-! ### Interrupts (R277, R278) -/

/-- Something leaves the device. -/
def emit (o : Out) (s : State) : State := { s with out := s.out ++ [o] }

/-- A rise of a vector's condition makes a message: messages are in use, and MBX_IRQ_MASK leaves the condition unmasked. -/
def tells (s : State) (v : Nat) : Bool := msixInUse s && !s.mbx.irqMask.getLsbD v

/-- A vector's message is held back: it or the function is masked, or the function is in D3hot (R262, R278; log entry 98). -/
def Pcie.holds (p : Pcie) (v : Nat) : Bool := p.tableMask.getLsbD v || p.funMask || p.d3hot

/-- The MSI-X message of a vector; one held back keeps its pending bit instead. -/
def signal (v : Nat) (s : State) : State :=
  if !tells s v then s
  else if s.pcie.holds v then { s with pcie := { s.pcie with pend := setBit s.pcie.pend v true } }
  else emit (.msix v) s

/-- An event source of the router is raised at an instant (*Table — Event sources*); the command's end routes it. -/
def evAt (t : Time) (n : Nat) (s : State) : State := { s with plat := { s.plat with events := s.plat.events ++ [(n, t)] } }

/-- An event source raised now. -/
def ev (n : Nat) (s : State) : State := evAt s.tb.now n s

/-- A change of the window's registers alone. -/
def withMbx (f : Mbx → Mbx) (s : State) : State := { s with mbx := f s.mbx }

/-! ### The notification ring (R275) -/

/-- The command that a notification names: opcode, SEQ, status and slot. -/
structure About where
  opcode : Nat := 0
  seq    : Nat := 0
  status : Nat := 0
  slot   : Nat := 0xFF
  deriving DecidableEq, Repr

/-- An entry's 128 bytes (*Table — Ring entry header*). -/
def entryBytes (typ nseq : Nat) (t : Time) (a : About) (body : List Byte) : List Byte :=
  le 2 typ ++ le 2 (min 96 body.length) ++ le 4 nseq ++ timeBytes t ++ le 2 a.opcode ++ le 2 a.seq ++ le 2 a.status ++
    le 1 a.slot ++ zeros 5 ++ pad 96 body

/-- An entry written and PROD incremented. -/
def ringPut (typ : Nat) (t : Time) (a : About) (body : List Byte) (m : Mbx) : Mbx :=
  { m with mem := mwrite m.mem (0x9000 + 128 * (m.prod.toNat % 96)) (entryBytes typ m.nseq.toNat t a body)
           prod := m.prod + 1
           nseq := m.nseq + 1 }

/-- Entries free. -/
def ringFree (m : Mbx) : Nat := 96 - unread m

/-- A notification dropped: LOST and RING_OVF, and its NSEQ is taken. -/
def ringDrop (m : Mbx) : Mbx :=
  { m with lost := satInc m.lost
           ringOvf := true
           lostFirst := some (m.lostFirst.getD m.nseq)
           lostCount := satInc m.lostCount
           nseq := m.nseq + 1 }

/-- An entry posted, with the ring's interrupt message (R278). -/
def ringPost (typ : Nat) (t : Time) (a : About) (body : List Byte) (s : State) : State :=
  let tell := decide (s.mbx.prod = s.mbx.cons) || s.mbx.ringArmed
  let s := withMbx (ringPut typ t a body) s
  if tell && tells s 8 then withMbx (fun m => { m with ringArmed := false }) (signal 8 s) else s

/-- The LOST notification that is due once more than 8 entries are free again (R275). -/
def flushLost (s : State) : State :=
  match s.mbx.lostFirst with
  | some n =>
    if fwLive s && decide (8 < ringFree s.mbx) then
      withMbx (fun m => { m with lostFirst := none, lostCount := 0 })
        (ringPost 0x10 s.tb.now {} (le 4 s.mbx.lostCount.toNat ++ le 4 n.toNat) s)
    else s
  | none => s

/-- A notification arises: posted, or dropped with 8 or fewer entries free unless it completes a deferred command, and dropped with
none free in any case, since an unread entry is never overwritten (R275; log entry 97). The boot ROM and halted cores post nothing
(R272, R318). -/
def notifyAt (t : Time) (typ : Nat) (a : About) (deferred : Bool) (body : List Byte) (s : State) : State :=
  if fwLive s then
    let s := flushLost s
    if decide (8 < ringFree s.mbx) || (deferred && decide (0 < ringFree s.mbx)) then ringPost typ t a body s else withMbx ringDrop s
  else s

/-- A notification that names no command. -/
def notify (typ : Nat) (body : List Byte) (s : State) : State := notifyAt s.tb.now typ {} false body s

/-! ### Slots, responses and completions (R268, R273) -/

/-- Window offset of slot n. -/
def slotBase (n : Nat) : Nat := 0x1000 + 0x1000 * n

/-- The header of the frame in slot n. -/
def slotHeader (s : State) (n : Nat) : List Byte := mread s.mbx.mem (slotBase n) 16

/-- The payload of the request in slot n. -/
def slotPayload (s : State) (n : Nat) : List Byte := mread s.mbx.mem (slotBase n + 16) (fld (slotHeader s n) 4 4)

/-- A response frame: header with status and CRC, then payload. -/
def frameBytes (opcode seq status : Nat) (payload : List Byte) : List Byte :=
  let head := le 2 opcode ++ le 2 seq ++ le 4 payload.length ++ le 4 status
  head ++ le 4 (crc32c (head ++ payload)).toNat ++ payload

/-- The response written into slot n: BUSY clears, DONE is set (R273). -/
def respond (n opcode seq status : Nat) (payload : List Byte) (s : State) : State :=
  let rise := !s.mbx.done.getLsbD n
  let s := withMbx (fun m =>
    { m with mem := mwrite m.mem (slotBase n) (frameBytes opcode seq status payload)
             busy := setBit m.busy n false
             done := setBit m.done n true }) s
  if rise then signal n s else s

/-- The group of an opcode. -/
abbrev group (opcode : Nat) : Nat := opcode / 256

/-- Two records of one command: slot, opcode, SEQ and whether it is deferred agree (a slot may be reused beside a deferred command
from it, R273; a SEQ may not, R274). -/
def SlotCmd.is (c x : SlotCmd) : Bool :=
  decide (x.slot = c.slot ∧ x.opcode = c.opcode ∧ x.seq = c.seq) && (x.deferred == c.deferred)

/-- A command leaves the list of those not yet final. -/
def dropCmd (c : SlotCmd) (s : State) : State :=
  withMbx (fun m => { m with cmds := m.cmds.filter fun x => !c.is x }) s

/-- Firmware or the boot ROM can answer: no cores that CPU_LOCKSTEP halted, and the reference clock runs (R318, R376). -/
def answers (s : State) : Bool := !s.pwr.halted && s.pwr.refclk

/-- A command reaches its final status: the response, or the COMPLETION notification of a deferred one; NOTIFY posts one for any
command (R273). Halted or unclocked cores write none: the slot stays BUSY (R318, R376). -/
def finish (c : SlotCmd) (status : Nat) (payload : List Byte) (s : State) : State :=
  let a : About := { opcode := c.opcode, seq := c.seq.toNat, status := status, slot := c.slot }
  if !answers s then dropCmd c s
  else if c.deferred then notifyAt s.tb.now 1 a true payload (dropCmd c s)
  else
    let s := dropCmd c (respond c.slot c.opcode c.seq.toNat status payload s)
    if c.notify then notifyAt s.tb.now 1 a false (payload.take 96) s else s

/-- A command fails with a status of its group. -/
def failCmd (c : SlotCmd) (code : Nat) (s : State) : State := finish c (group c.opcode * 256 + code) [] s

/-- A command is answered DEFERRED (R273). -/
def deferCmd (c : SlotCmd) (s : State) : State :=
  let s := respond c.slot c.opcode c.seq.toNat 1 [] s
  withMbx (fun m => { m with cmds := m.cmds.map fun x =>
    if x.slot = c.slot ∧ x.deferred = false then { x with deferred := true, started := true } else x }) s

/-- The undeferred command of a slot. -/
def cmdAt (s : State) (slot : Nat) : Option SlotCmd := s.mbx.cmds.find? fun c => decide (c.slot = slot) && !c.deferred

/-- The command at work in a slot, as a ring entry names it with its final status (*Table — Ring entry header*). -/
def aboutSlot (s : State) (slot : Option Nat) (status : Nat) : About :=
  match slot.bind (cmdAt s) with
  | some c => { opcode := c.opcode, seq := c.seq.toNat, status := status, slot := c.slot }
  | none => {}

/-- The deferred command of an opcode. -/
def deferredCmd (s : State) (opcode : Nat) : Option SlotCmd :=
  s.mbx.cmds.find? fun c => decide (c.opcode = opcode) && c.deferred

/-- The undeferred command of a slot, ended with a status and payload; nothing where the slot holds none. -/
def finishSlot (slot status : Nat) (payload : List Byte) (s : State) : State :=
  match cmdAt s slot with
  | some c => finish c status payload s
  | none => s

/-- The same with a status code of the command's group. -/
def failSlot (slot code : Nat) (s : State) : State :=
  match cmdAt s slot with
  | some c => failCmd c code s
  | none => s

end Sys2Proof.Machine
end

