-- ==== Sys2Proof/Machine/Units.lean ====
section
/-! DEFINITION. What several families of commands share: writes to valves and equalisers, the stops that an entry into Safe or a
release of the role brings, a mode change, an occurrence at a fault source with its reactions (R309 to R323), and role release. -/

namespace Sys2Proof.Machine

/-! ### Loops by element (R4, R90) -/

/-- The loop of the equaliser of ingress port In. -/
def eqLoop (p : Part) (n : Nat) : Nat := p.cells + n

/-- The loop of the valve of egress port En. -/
def valveLoop (p : Part) (n : Nat) : Nat := p.cells + p.ports + n

/-- The Jet in service that holds a loop (R90). -/
def jetOfLoop (p : Part) (l : Nat) : Nat := if l < p.cells then l / p.cellsPerJet else (l - p.cells) / 8

/-- The slot of a loop in its Jet (R90). -/
def slotOfLoop (p : Part) (l : Nat) : Nat := if l < p.cells then l % p.cellsPerJet else 32 + (l - p.cells) % 8

/-- The loop in slot k of Jet j; none where the slot is empty (R90). -/
def loopAt (p : Part) (j k : Nat) : Option Nat :=
  if k < p.cellsPerJet then some (p.cellsPerJet * j + k)
  else if 32 ≤ k ∧ k < 40 then some (p.cells + 8 * j + (k - 32)) else none

/-- The loops that Jet j in service holds. -/
def loopsOfJet (p : Part) (j : Nat) : List Nat := (List.range 40).filterMap (loopAt p j)

/-- The kind of a loop. -/
def kindOf (p : Part) (l : Nat) : Kind :=
  if l < p.cells then .cell else if l < p.cells + p.ports then .equaliser else if l < p.loops then .valve else .empty

/-- A loop changed. -/
def modLoop (l : Nat) (f : Loop → Loop) (s : State) : State := { s with jets := { s.jets with loops := smod {} s.jets.loops l f } }

/-- A Jet's registers changed. -/
def modJet (j : Nat) (f : Jet → Jet) (s : State) : State := { s with jets := { s.jets with regs := smod {} s.jets.regs j f } }

/-- A well changed. -/
def modWell (w : Nat) (f : Well → Well) (s : State) : State := { s with wells := smod {} s.wells w f }

/-! ### Valves (R37, R81, R130) -/

/-- OPEN_CODE of a valve, from its descriptor's SETPT (R123). -/
def openCode (s : State) (n : Nat) : BitVec 14 := (loopOf s (valveLoop s.part n)).desc.setpt.extractLsb' 0 14

/-- BLOCK_CODE of a valve. -/
def blockCode (s : State) (n : Nat) : BitVec 14 := (loopOf s (valveLoop s.part n)).desc.setpt.extractLsb' 16 14

/-- A valve's ladder written with OPEN_CODE or BLOCK_CODE; the descriptor's STATE and LAST_CODE follow (R123, R125). -/
def writeValve (n : Nat) (op : Bool) (s : State) : State :=
  let code := if op then openCode s n else blockCode s n
  let s := { s with dac := { s.dac with port := smod {} s.dac.port (256 + n) fun d => { d with code := code } } }
  let s := { s with fab := { s.fab with openPorts := setBit s.fab.openPorts n op } }
  modLoop (valveLoop s.part n) (fun l => { l with desc := { l.desc with st := op, lastCode := code.setWidth 16 } }) s

/-- Every open valve written with BLOCK_CODE (R248). -/
def blockValves (s : State) : State := forEach (ones s.part.ports s.fab.openPorts) s fun s n => writeValve n false s

/-- Every valve ladder at SAFE_CODE: SAFE set, until Reset (R81). -/
def safeValves (s : State) : State :=
  { s with dac := { s.dac with port := smap {} 512 s.dac.port fun n d =>
      if 256 ≤ n ∧ n < 256 + s.part.ports then { d with safe := true } else d } }

/-- The code a valve ladder puts out (R81). -/
def valveOutput (d : PortDac) : BitVec 14 := if d.safe then d.safeCode else d.code

/-! ### Injections (R87 to R89) -/

/-- A well's injection current disconnected: its channel is tainted as by a gain change (R88). -/
def wellInjOff (w : Well) : Well :=
  if w.injOn then { w with injOn := false, win := smod {} w.win w.injChan fun x => { x with taint := 4 } } else w

/-- Every injection stopped. -/
def stopInjections (s : State) : State :=
  { s with
    jets := { s.jets with regs := s.jets.regs.map fun e => (e.1, { e.2 with test := { e.2.test with on := false } }) }
    wells := s.wells.map fun e => (e.1, wellInjOff e.2) }

/-- A capture ended (R306). -/
def stopCapture (s : State) : State :=
  let s := if s.plat.capture.running then ev 301 s else s
  { s with plat := { s.plat with capture := { s.plat.capture with running := false, waiting := false } } }

/-- An injection into a checker ends, and with it on the Kolox 256 the command that ran for its duration (R326, R327). -/
def endInjection (status : Nat) (s : State) : State :=
  let k := s.dike.injSlot
  let s := { s with dike := { s.dike with injLeft := 0, ftm := false, injSlot := none } }
  let s := match deferredCmd s 0x0903 with
    | some c => if status = 0 then finish c 0 [] s else failCmd c status s
    | none => s
  match k with
  | some k => if status = 0 then finishSlot k 0 [] s else failSlot k status s
  | none => s

/-- The checker of a source has made a check: one of the injection's is counted, and the last one ends it (R326). -/
def checkMade (n : Nat) (s : State) : State :=
  if s.dike.injLeft ≠ 0 ∧ s.dike.injSrc.toNat = n then
    (if s.dike.injLeft = 1 then endInjection 0 s else { s with dike := { s.dike with injLeft := s.dike.injLeft - 1 } })
  else s

/-- A checker that checks now is fed inverted check bits: an injection into its source is in progress, and the part has the inverters
(R326, R327). -/
def inverted (s : State) (n : Nat) : Bool := decide (s.part ≠ .kx256) && decide (s.dike.injLeft ≠ 0 ∧ s.dike.injSrc.toNat = n)

/-- What leaving Maintenance ends: captures, test signals and an injection into a checker (R306, R89, R326). -/
def leaveMaintenance (s : State) : State := endInjection 0 (stopInjections (stopCapture s))

/-! ### What entry into Safe stops -/

/-- A reconfiguration at the entry into Safe (R148): after T_open its loops stand as they were judged. -/
def abandonOne (r : Reconf) : Reconf :=
  match r.phase with
  | .armed | .closed | .dark => { r with phase := .abandoned }
  | .opened => { r with phase := .judged, late := r.todo.filter r.seen.contains, todo := [],
                        unjudged := r.unjudged + (r.todo.filter fun l => !r.seen.contains l).length }
  | _ => r

/-- The armed entries of a reconfiguration abandoned before its T_close become FIRED (R197). -/
def fireAbandoned (s : State) : State :=
  forEach (s.fab.recon.filter fun r => r.phase = .armed) s fun s r =>
    forEach (r.entries.filter (·.tracked)) s fun s e =>
      { s with slc := { s.slc with entries := smod {} s.slc.entries e.entry fun t =>
          if t.state = .armed then { t with state := .fired } else t } }

/-- The slot of the host command behind a route request or reconfiguration. -/
def Origin.slot? : Origin → Option Nat
  | .connect k _ _ | .define k _ _ | .apply k _ _ => some k
  | .reroute _ k => k
  | _ => none

/-- The slots of the commands behind the engine's requests and the routes not yet armed. -/
def routeSlots (f : Fab) : List Nat :=
  (f.queue.map (·.origin) ++ (f.active.toList ++ f.ready).map (·.req.origin)).filterMap Origin.slot?

/-- The requests of the engine, the routes not yet armed and the commits whose checks need the engine, dropped (log entry 22); a tagged
one is followed no further (R371). -/
def dropRoutes (s : State) : State :=
  let slots := routeSlots s.fab
  { s with
    fab := { s.fab with queue := [], active := none, ready := [] }
    slc := { s.slc with commitSlot := none, dom := s.slc.dom.map fun e => (e.1, { e.2 with checkAt := none }) }
    plat := { s.plat with tag := s.plat.tag.filter fun t => t.seq.isSome || !(t.slot.any slots.contains) } }

/-- Reconfigurations at the entry into Safe: every write not yet made is abandoned (R148). -/
def abandonReconfs (s : State) : State :=
  let s := fireAbandoned s
  { s with fab := { s.fab with recon := s.fab.recon.map abandonOne } }

/-- Grants already sent whose launch overlaps a blackout (R226). -/
def grantsIn (w : Weir) (ports : PortMap) (lo hi : Time) : Nat :=
  ((w.port.filter fun e => ports.getLsbD e.1).map fun e =>
    (e.2.sent.filter fun x => decide (x.1 < hi ∧ lo < x.2)).length).sum

/-- The WEAR notification body (R342). -/
def wearBody (event flags item value : Nat) : List Byte :=
  le 1 event ++ le 1 flags ++ le 2 item ++ zeros 4 ++ le 8 value

/-- The WEAR notification of an insertion made, which names the HEATER_B that waits for it (R276). -/
def notifyInsert (slot : Option Nat) (flags item value : Nat) (s : State) : State :=
  notifyAt s.tb.now 0xF (aboutSlot s slot 0) false (wearBody 1 flags item value) s

/-- Launches granted to connections routed through the cell while it was dark, each counted once (R338). -/
def framesLost (s : State) (i : Insert) : Nat :=
  (s.weir.port.map fun e => (e.2.sent.filter fun x => i.late.any fun y =>
    y.port == e.1 && decide (x.1 < y.hi.getD (i.tIns + ns 200240) ∧ y.lo < x.2)).length).sum

/-- FLAGS of an insertion made. -/
def insertFlags (i : Insert) : Nat := flag i.carried + flag i.settled * 2 + flag (!i.slots.isEmpty) * 4

/-- Insertions at the entry into Safe: pending before the remap round, complete after it (R338). -/
def stopInserts (s : State) : State :=
  let s := forEach s.fab.inserts s fun s i =>
    let s := { s with wear := smod {} s.wear i.cell fun w => { w with pending := !i.remapped } }
    if i.remapped then notifyInsert i.slots.head? (insertFlags i) i.cell (framesLost s i) s else s
  { s with fab := { s.fab with inserts := [] } }

/-- The loops whose rows a calibration in progress measures: all, or the named cells' (R136, R289). -/
def calNamed (s : State) (l : Nat) : Bool := s.sys.calFull || (decide (l < s.part.cells) && s.sys.calCells.contains l)

/-- The rest-to-flip writes of a calibration's own sequence on the cells that it measures, the restoring ones among them, whether or not it
fails or is abandoned (R330; log entry 114). -/
def countToggles (s : State) : State :=
  { s with
    wear := smap {} s.part.cells s.wear fun c w =>
      if calNamed s c then { w with addFlips := w.addFlips + Config.calToggles s.draws c } else w
    draws := s.draws + 1 }

/-- A calibration abandoned: what it has toggled counts (R330). -/
def abandonCalibration (s : State) : State := if s.sys.mode = .calibrate then countToggles s else s

/-- The Active role released: both ROLE_OUT lines fall (R20, R248). An exchange not yet due ends PREEMPTED (R303). -/
def releaseRole (s : State) : State :=
  if s.sys.role = .active then
    let s := { s with sys := { s.sys with role := .standby } }
    let s := { s with pair := { s.pair with exch := none } }
    match deferredCmd s 0x0803 with
    | some c => failCmd c 6 s
    | none => s
  else s

/-- A promotion in progress abandoned: PROMOTE fails with PARTNER_ACTIVE (R249, R302). -/
def abandonPromotion (s : State) : State :=
  match s.pair.promo with
  | some p =>
    let s := { s with pair := { s.pair with promo := none } }
    match p.slot with
    | some k => failSlot k 0x21 s
    | none => s
  | none => s

/-- The final status of a command that an entry into Safe ends; none where it goes on. PREEMPTED: of a mode transition (R17), CALIBRATE
(R289), EXCHANGE (R303), FAULT_INJECT (R327), a route request or a commit that needs the engine (log entry 22), LOOP_SET, RECENTRE and
SET_RATE, which wait for a round start that Safe never brings (R115, log entry 109), and HEATER_B before its remap round, after which
it is complete (R338). PROMOTE fails with PARTNER_ACTIVE (R249, R302). -/
def safeStatus (s : State) (c : SlotCmd) : Option Nat :=
  let code := fun (k : Nat) => some (group c.opcode * 256 + k)
  if c.deferred then (if [0x0104, 0x0401, 0x0503, 0x0803, 0x0903].contains c.opcode then code 6 else none)
  else
    match s.fab.inserts.find? fun i => i.slots.contains c.slot with
    | some i => if i.remapped then some 0 else code 6
    | none =>
      if s.pair.promo.any fun p => p.slot == some c.slot then code 0x21
      else if (routeSlots s.fab).contains c.slot || (s.sys.trans.any fun t => t.slot == c.slot) || s.dike.injSlot == some c.slot ||
          (c.started && [0x0301, 0x0303, 0x0305].contains c.opcode) then code 6
      else none

/-- The commands that an entry into Safe ends, in acceptance order, which their COMPLETION notifications follow (R274). -/
def endedBySafe (s : State) : List (SlotCmd × Nat) := s.mbx.cmds.filterMap fun c => (safeStatus s c).map fun k => (c, k)

/-- Every Jet stopped: RUN cleared, codes frozen, a takeover in progress abandoned (R115, R317, R318). -/
def stopJets (s : State) : State :=
  { s with jets := { s.jets with regs := s.jets.regs.map fun e => (e.1, { e.2 with run := false, remap := false, rewrite := false }) } }

/-! ### Notifications of the Dike (R323) -/

/-- FAULT notification of a source. -/
def notifyFault (n : Nat) (s : State) : State :=
  let v := src s.dike n
  notify 8 (le 2 n ++ le 1 (classCode v.applied) ++ zeros 1 ++ le 2 v.count.toNat ++ zeros 2) s

/-! ### Entry into Safe (R318) -/

/-- Entry into Safe: safe line, valves, the commands that it ends, role, sequencers, Jets, captures, injections and insertions, then the
mode and the FAULT notifications. CPU_LOCKSTEP (source 4) halts both cores. -/
def enterSafe (n : Nat) (s : State) : State :=
  let s := ev 295 { s with dike := { s.dike with safeLine := true, safeAt := some s.tb.now } }
  let s := safeValves (blockValves s)
  let s := if n = 4 then { s with pwr := { s.pwr with halted := true } } else s
  let ends := endedBySafe s
  let s := forEach ends (stopInserts s) fun s x => finish x.1 x.2 [] s
  let s := abandonPromotion (releaseRole s)
  let s := stopInjections (stopCapture (stopJets (dropRoutes (abandonReconfs s))))
  let s := endInjection 6 (abandonCalibration { s with sys := { s.sys with trans := none } })
  let s := { s with sys := { s.sys with mode := .safe } }
  forEach ((stickies s.dike).filter fun k => classCode (src s.dike k).applied ≥ 2) s fun s k => notifyFault k s

/-! ### Occurrences (R309 to R317) -/

/-- The class that an occurrence of a source is treated as: R315 makes that of a Jet or well MAJOR where no spare remains. -/
def occurClass (s : State) (n : Nat) : FClass :=
  if 20 ≤ n ∧ n ≤ 87 then
    let j := n - 20
    let g := spareGroup s.part j
    if j < s.part.jets then (if s.dike.jetSpare.contains g then .major else .minor)
    else if (jetOf s j).takeEn then .major else .minor
  else if 88 ≤ n ∧ n ≤ 155 then
    let w := n - 88
    let g := spareGroup s.part w
    if w < s.part.jets then (if s.dike.wellSpare.contains g then .major else .minor)
    else if (wellOf s w).takeEn then .major else .minor
  else srcClass n

/-- The source's own record after an occurrence: sticky bit, window and count, LASTING (R309, R313, R314); sources 0 to 3 are never
counted (R320). -/
def srcOccur (n : Nat) (holds : Bool) (v : Src) : Src :=
  let v := { v with sticky := true, input := holds }
  if n ≤ 3 || v.lasting then v
  else
    let v := if v.winOpen then { v with count := satInc v.count } else { v with winOpen := true, count := 1 }
    if v.thresh.toNat ≤ v.count.toNat then { v with lasting := true } else v

/-- The greater of two classes. -/
def maxClass (a b : FClass) : FClass := if classCode a < classCode b then b else a

/-- What a failed Jet or well leaves: FAILED set; a Jet in service stops, an idle spare becomes unavailable (R340). -/
def markFailed (n : Nat) (s : State) : State :=
  if 20 ≤ n ∧ n ≤ 87 then
    let j := n - 20
    let s := modJet j (fun x => { x with failed := true, run := false }) s
    if j < s.part.jets then s
    else { s with dike := { s.dike with jetSpare := (spareGroup s.part j :: s.dike.jetSpare).eraseDups } }
  else if 88 ≤ n ∧ n ≤ 155 then
    let w := n - 88
    let s := modWell w (fun x => { x with failed := true }) s
    if w < s.part.jets then s
    else { s with dike := { s.dike with wellSpare := (spareGroup s.part w :: s.dike.wellSpare).eraseDups } }
  else s

/-- The instant is that of the entry into Safe: what happens now coincides with its cause (R322). -/
def safeNow (s : State) : Bool := decide (s.sys.mode = .safe) && s.pwr.refclk && decide (s.dike.safeAt = some s.tb.now)

/-- FATAL latched, with the instant at which it first was. -/
def latchFatal (d : Dike) (t : Time) : Dike := { d with fatal := true, fatalAt := if d.fatal then d.fatalAt else some t }

/-- The reaction to a class applied (R317). In Boot under the boot ROM a MAJOR or FATAL class stops the boot. A source that coincides
with the cause of an entry into Safe shares its reaction: CPU_LOCKSTEP halts the cores then too (R322). -/
def react (n : Nat) (c : FClass) (s : State) : State :=
  if classCode c < 2 then s
  else
    let s := if c = .fatal then { s with dike := latchFatal s.dike s.tb.now } else s
    match s.sys.mode with
    | .reset => s
    | .safe => if n = 4 && safeNow s then { s with pwr := { s.pwr with halted := true } } else s
    | .boot => if s.sys.fwRun then enterSafe n s else { s with pwr := { s.pwr with stopped := true } }
    | _ => enterSafe n s

/-- An occurrence at a source: recorded, counted, its class or lasting class applied, notified (R309, R313 to R317, R323). A mask keeps
the class applied MINOR but for R315. Nothing is evaluated in Reset, and no source that the part lacks is raised (R312). -/
def occur (n : Nat) (holds : Bool) (s : State) : State :=
  if s.sys.mode = .reset || srcAbsent s.part n || decide (192 ≤ n) then s
  else
    let v := src s.dike n
    let rise := !v.sticky
    let c0 := occurClass s n
    let v1 := srcOccur n holds v
    let nowLasting := v1.lasting && !v.lasting
    let c := if nowLasting && !v.mask then maxClass c0 (srcLasting n) else c0
    let v2 := { v1 with applied := maxClass v.applied c }
    let s := ev 294 (markFailed n { s with dike := setSrc s.dike n v2 })
    let tell := (rise && decide (classCode c ≥ 1)) || (nowLasting && !v.mask && decide (classCode (srcLasting n) ≥ 1))
    let s := if tell && decide (classCode c < 2) && s.sys.mode ≠ .safe then notifyFault n s else s
    let also := safeNow s && decide (classCode c ≥ 2) && !(v.sticky && decide (classCode v.applied ≥ 2))
    let s := react n c s
    if also then notifyFault n s else s

/-- A source whose input is a level: it rises, stays or falls. -/
def setLevel (n : Nat) (level : Bool) (s : State) : State :=
  let v := src s.dike n
  if level then (if v.input then s else occur n true s)
  else { s with dike := setSrc s.dike n { v with input := false } }

/-- An occurrence whose input does not stay asserted. -/
abbrev raise (n : Nat) (s : State) : State := occur n false s

/-- A check of a source's checker that finds nothing wrong: it fails once where an injection inverts its check bits (R326). -/
def checkNow (n : Nat) (s : State) : State := if inverted s n then raise n (checkMade n s) else s

/-- A source's window ends (R313, R314): with the input asserted since the occurrence that opened it the source becomes lasting, and
what it posts carries the count that the window had (R323). -/
def closeWindow (n : Nat) (s : State) : State :=
  let v := src s.dike n
  if v.winOpen then
    let held := v.input && decide (v.count = 1) && !v.lasting
    let v1 := { v with winOpen := false, lasting := v.lasting || held }
    let c := if held && !v.mask then maxClass v.applied (srcLasting n) else v.applied
    let s1 := { s with dike := setSrc s.dike n { v1 with applied := c } }
    let s2 := if held && !v.mask && decide (classCode (srcLasting n) = 1) && s.sys.mode ≠ .safe then notifyFault n s1 else s1
    let s3 := if held && !v.mask then react n (srcLasting n) s2 else s2
    { s3 with dike := setSrc s3.dike n { src s3.dike n with count := 0 } }
  else s

/-! ### Reset (R390, R394) -/

/-- The Dike as a Reset leaves it: the FATAL latch and the sticky bits of its own sources stay (R15, R320). -/
def dikeAfterReset (d : Dike) : Dike := { fatal := d.fatal, src := d.src.filter fun e => e.1 ≤ 3 }

/-- A management port as a Reset leaves it: the link is the line's. -/
def mgmtAfterReset (m : Mgmt) : Mgmt := { linkUp := m.linkUp }

/-- The device in Reset: drive outputs high-impedance, role and presence lines low, every block at its reset value; what lies outside
the controller (flash, OTP, straps, pins, supplies) stays, the endpoint drops the messages that are pending for conditions of before (R278),
and the register window is cleared by the wipe. Memories are cleared here:
nothing reads them before the wipe is complete (log entry 36). -/
def intoReset (s : State) : State :=
  { part := s.part
    pwr := { powered := s.pwr.powered, tripped := s.pwr.tripped, warned := s.pwr.warned, resetLow := s.pwr.resetLow,
             refclk := s.pwr.refclk }
    sys := { sideB := s.sys.sideB, spi := s.sys.spi }
    mbx := { s.mbx with cmds := [], rung := 0 }
    pcie := { s.pcie with pend := 0 }
    tap := s.tap
    dike := dikeAfterReset s.dike
    tb := { p0 := mgmtAfterReset s.tb.p0, p1 := mgmtAfterReset s.tb.p1 }
    cld := { present := s.cld.present, roleInA := s.cld.roleInA, roleInB := s.cld.roleInB }
    pld := { s.pld with scratch := [], keyUsed := false, slotUsed := false, frozen := false, log := [], fwDigest := 0, imgSvn := 0, imgRevoke := false }
    out := s.out
    draws := s.draws
    pending := s.pending }

/-- A Reset that a command ordered begins once its instant has come (R288), unless a FATAL fault has latched meanwhile (R15). -/
def orderedReset (s : State) : State :=
  match s.sys.resetAt with
  | some t =>
    if t ≤ s.tb.now then (if resetIgnored s then { s with sys := { s.sys with resetAt := none } } else intoReset s) else s
  | none => s

/-- A Reset ordered: at 10 us after the response. -/
def orderReset (s : State) : State := { s with sys := { s.sys with resetAt := some (s.tb.now + ns 10000) } }

/-! ### Mode changes -/

/-- The break-before-make gap as a length of time. -/
def bbm (s : State) : Time := ns s.cld.bbm.toNat

/-- The unit becomes eligible (R434): side A promotes after the gap where ROLE_IN is deasserted (R237, R238). -/
def becomeEligible (s : State) : State :=
  if roleIn s then { s with cld := { s.cld with armedBy := true } }
  else if !s.sys.sideB && s.cld.present then
    { s with pair := { s.pair with promo := some { tRec := s.tb.now, tProm := s.tb.now + bbm s, report := false } } }
  else s

/-- Requests of follows and catch-ups, dropped when the unit leaves what they were for. -/
def dropFollowRoutes (f : Fab) : Fab :=
  let mine := fun o : Origin => match o with
    | .follow _ _ | .catchUp => true
    | _ => false
  { f with queue := f.queue.filter fun q => !mine q.origin
           active := f.active.filter fun r => !mine r.req.origin
           ready := f.ready.filter fun r => !mine r.req.origin }

/-- The unit enters Resync (R237, R254, R255): it knows nothing of the Active unit's state yet. -/
def enterResync (s : State) : State :=
  let s := abandonPromotion s
  { s with
    sys := { s.sys with role := .resync }
    cld := { s.cld with resyncWait := false }
    fab := dropFollowRoutes s.fab
    pair := { s.pair with follows := [], newer := [], own := 0, selfFired := [], lastApplied := none, held := 0, resyncSeen := false,
                          resyncDone := false, outbox := [], resyncOut := [], partnerResync := false } }

/-- The rows for a partner that is gone (R237, R431): an eligible Standby takes over, any other unit becomes Solo at once. An exchange
not yet due is pre-empted. -/
def soloRule (s : State) : State :=
  if s.sys.role = .solo || s.cld.present || s.cld.asserted || s.pair.promo.isSome then s
  else if eligible s.sys then { s with pair := { s.pair with promo := some { tRec := s.tb.now, tProm := s.tb.now + bbm s } } }
  else
    let s := releaseRole s
    { s with sys := { s.sys with role := .solo }, cld := { s.cld with resyncWait := false } }

/-- The mode becomes `m` on a command or on a degraded condition: R20's release, R237's rows for an entry into Operate or Degraded, where a
Standby that finds its partner's role asserted enters Resync (R403). -/
def enterMode (m : Mode) (s : State) : State :=
  let old := s.sys.mode
  let s := { s with sys := { s.sys with mode := m } }
  let s := if inService old && !inService m then releaseRole s else s
  let s := if mayPromote old && !mayPromote m then abandonPromotion s else s
  if mayPromote m && !mayPromote old && s.sys.role = .standby then
    if s.cld.resyncWait || (roleIn s && s.cld.present) then enterResync s else becomeEligible s
  else s

/-- A host's mode command whose change is not made yet: it goes before a degraded condition of its round, which waits for that change (R16;
DEDUCED, log entry 124). -/
def modeOrdered (s : State) : Bool := s.sys.trans.any fun t => !t.made

/-- A degraded condition that arose or cleared in Operate or Degraded, behind a mode command that is not executed yet (R14, R16). -/
def settleDegraded (s : State) : State :=
  if modeOrdered s then s
  else if s.sys.mode = .operate && degradedCond s then enterMode .degraded s
  else if s.sys.mode = .degraded && !degradedCond s then enterMode .operate s
  else s

end Sys2Proof.Machine
end

