-- ==== Sys2Proof/Machine/Wells.lean ====
section
/-! DEFINITION. The sensing wells: schedule and channel writes, frames, tags and taints, range selection, power-down and takeover
(R55 to R74). -/

namespace Sys2Proof.Machine

/-! ### Settings -/

/-- Entry e of a well's schedule at reset: a tap entry names its own channel; entries 72 to 79 convert channel 72 (R56). -/
def schedReset (e : Nat) : Sched := if e < 72 then { chan := BitVec.ofNat 7 e } else { en := true, chan := 72 }

/-- Entry e of a well's schedule (R56). -/
def schedOf (w : Well) (e : Nat) : Sched := sget (schedReset e) w.sched e

/-- A channel's settings. -/
def chanOf (w : Well) (ch : Nat) : Chan := sget {} w.chan ch

/-- The Jet in service that a well's results serve: its own number, or of a spare the Jet of the well it has taken over. -/
def jetOfWell (p : Part) (w : Nat) (v : Well) : Nat :=
  if w < p.jets then w else 16 * spareGroup p w + v.takeIdx.toNat

/-- The slot that a tap channel serves (R55). -/
def slotOfChan (ch : Nat) : Nat := if ch < 64 then ch / 2 else ch - 32

/-- The loop that a tap channel of a well serves: none where the taps are switched to a spare, and none of a spare that has taken none
over (R69, R74). -/
def loopOfChan (p : Part) (w : Nat) (v : Well) (ch : Nat) : Option Nat :=
  if v.away || (decide (p.jets ≤ w) && !v.takeEn) then none else loopAt p (jetOfWell p w v) (slotOfChan ch)

/-- A schedule entry from its word. -/
def schedFrom (v : W32) : Sched := { en := v.getLsbD 31, chan := v.extractLsb' 0 7 }

/-- A channel's settings from its word. -/
def chanFrom (v : W32) : Chan :=
  { filtDm1 := v.extractLsb' 24 8, filtK := v.extractLsb' 16 3, avgK := v.extractLsb' 8 4, gain := v.extractLsb' 0 2 }

/-- A channel's settings once the writes that wait have taken effect. -/
def comingChan (w : Well) (ch : Nat) : Chan :=
  w.pend.foldl (fun c p => match p with
    | .chan _ k v => if k = ch then v else c
    | .gain _ k g => if k = ch then { c with gain := g } else c
    | .avg _ k a => if k = ch then { c with avgK := a } else c
    | .sched _ _ _ => c) (chanOf w ch)

/-- A schedule entry once the writes that wait have taken effect. -/
def comingSched (w : Well) (e : Nat) : Sched :=
  w.pend.foldl (fun c p => match p with
    | .sched _ k v => if k = e then v else c
    | _ => c) (schedOf w e)

/-- A write that completes now comes less than 50 ns before the next frame start (R57). -/
def lateNow (w : Well) (t : Time) : Bool := decide (w.frameAt + ns 950 < t)

/-- A schedule write is accepted: entries 72 to 79 cannot be written, channels 72 and up are reserved, and no channel is converted
in two entries (R56, log entry 24). -/
def schedOk (w : Well) (e : Nat) (v : Sched) : Bool :=
  decide (e < 72 ∧ v.chan.toNat < 72) &&
    !(v.en && (List.range 72).any fun k => k != e && (comingSched w k).en && decide ((comingSched w k).chan = v.chan))

/-- A channel write is accepted (R70). -/
def chanOk (v : Chan) : Bool :=
  decide (v.filtK.toNat ≤ 4 ∧ v.avgK.toNat ≤ 8) && !(decide (v.filtK ≠ 0) && decide (v.filtDm1 = 0))

/-- A window begun afresh. -/
def freshWindow (x : Window) : Window :=
  { x with sum := 0, n := 0, wakeTag := false, settTag := false, clipTag := false, part := false }

/-- A schedule entry takes effect at a frame start: a change of channel taints the entry's first two samples from then on, and an enable
wakes the well (R66, R71). -/
def applySched (e : Nat) (v : Sched) (w : Well) : Well :=
  let old := schedOf w e
  let w := { w with sched := sset (schedReset e) w.sched e v }
  let w := if old.chan ≠ v.chan then { w with entTaint := sset 0 w.entTaint e 2 } else w
  if v.en && w.pdState then { w with pdState := false, wakeAt := some w.frameAt, wakeConv := 0xFF } else w

/-- The tag of a result: the highest-ranking of its window's marks (R65). -/
def tagOf (wake settling clipped : Bool) : Tag :=
  if wake then .wake else if settling then .settling else if clipped then .clipped else .valid

/-- The result of a native window that a change of AVG_K cuts short, tagged settling (R66; log entry 113). -/
def cutWindow (ch : Nat) (w : Well) : Well :=
  let c := chanOf w ch
  let x : Window := sget {} w.win ch
  if x.n = 0 ∨ c.filtK ≠ 0 then w
  else
    let r : Result := { tag := tagOf x.wakeTag true x.clipTag, gain := c.gain, value := BitVec.ofNat 18 (x.sum / 2 ^ c.avgK.toNat),
                        chan := BitVec.ofNat 7 ch, fresh := w.frame - 1, start := x.start }
    { w with result := sset {} w.result ch r }

/-- A channel's settings take effect at a frame start, with the taints of R66 for the fields that change. A native window that begins
part-way, as AVG_K changes or as the channel leaves forerunner mode, is delivered at its aligned end, its sum divided by the full N, tagged
settling: R62 and R66 speak of whole windows only (DESIGN CHOICE, log entry 113). -/
def applyChan (ch : Nat) (v : Chan) (w : Well) : Well :=
  let old := chanOf w ch
  let w := if old.avgK ≠ v.avgK then cutWindow ch w else w
  let w := { w with chan := sset {} w.chan ch v }
  let part := decide (w.frame % 2 ^ v.avgK.toNat ≠ 0)
  let w := if old.gain ≠ v.gain then { w with win := smod {} w.win ch fun x => { x with taint := 4 } } else w
  let w := if old.avgK ≠ v.avgK then { w with win := smod {} w.win ch fun x => { freshWindow x with part := part } } else w
  if v.filtK ≠ 0 ∧ (old.filtK ≠ v.filtK ∨ old.filtDm1 ≠ v.filtDm1) then
    { w with win := smod {} w.win ch fun x => { x with hist := [], filtN := 0, filtTaint := v.filtK.toNat } }
  else if v.filtK = 0 ∧ old.filtK ≠ 0 then { w with win := smod {} w.win ch fun x => { freshWindow x with part := part } }
  else w

/-- The settings due at this frame start take effect, in the order of their writes; the others wait one frame less (R57). -/
def applyPend (w : Well) : Well :=
  let due := w.pend
  due.foldl (fun w p =>
    match p with
    | .sched 0 e v => applySched e v w
    | .chan 0 ch v => applyChan ch v w
    | .gain 0 ch g => applyChan ch { chanOf w ch with gain := g } w
    | .avg 0 ch a => applyChan ch { chanOf w ch with avgK := a } w
    | .gain (k + 1) ch g => { w with pend := w.pend ++ [.gain k ch g] }
    | .avg (k + 1) ch a => { w with pend := w.pend ++ [.avg k ch a] }
    | .sched (k + 1) e v => { w with pend := w.pend ++ [.sched k e v] }
    | .chan (k + 1) ch v => { w with pend := w.pend ++ [.chan k ch v] }) { w with pend := [] }

/-! ### Samples and results -/

/-- The instant of entry e: 12.5 ns apart (R57). -/
def entryAt (w : Well) (e : Nat) : Time := w.frameAt + e * 819200

/-- A corrected sample: (raw - OFFSET) x GAIN as unsigned Q14.4 (R58). -/
def corrected (c : SliceCorr) (raw : Nat) : Nat :=
  let v := quot (((raw * 16 : Nat) : Int) - c.offset.toInt) 1 * c.gain.toNat
  let v := quot v 32768
  if 0 ≤ v ∧ v < 262144 then v.toNat else Config.outside 18 v % 262144

/-- What an entry delivers: its value, whether a conversion was made, and whether it is marked wake or clipped. -/
structure Sample where
  value   : Nat
  made    : Bool
  wake    : Bool
  clipped : Bool
  deriving DecidableEq, Repr

/-- An entry's conversion: none during the start-up delay, and a wake mark on each slice's first one after it (R71). -/
def convert (w : Well) (e raw : Nat) : Sample × Well :=
  let i := e % 8
  let inDelay := match w.wakeAt with
    | some t => decide (entryAt w e < t + ns 1200)
    | none => false
  if inDelay then (⟨0, false, true, false⟩, w)
  else
    let first := w.wakeConv.getLsbD i
    (⟨corrected (sget {} w.slice i) raw, true, first, decide (raw = 0 ∨ raw = 16383)⟩,
      { w with wakeConv := setBit w.wakeConv i false })

/-- The counts of range selection after a result (R61): clipped in succession, below one-sixth of full scale in succession. -/
def rangeCounts (r : Result) (x : Window) : Window :=
  { x with clips := if r.tag = .clipped then x.clips + 1 else 0
           lows := if r.value.toNat * 6 < 262144 then x.lows + 1 else 0 }

/-- Running sums of `d` elements. -/
def boxSums (d : Nat) (l : List Nat) : List Nat := (List.range (l.length + 1 - d)).map fun i => ((l.drop i).take d).sum

/-- The sinc filter's sum over the latest samples: `k` running sums of `d` (R68). -/
def sincSum (d : Nat) : Nat → List Nat → Nat
  | 0, l => l.headD 0
  | k + 1, l => sincSum d k (boxSums d l)

/-- The least c with 2^c at or above n. -/
def ceilLog2 (n : Nat) : Nat := if n ≤ 1 then 0 else Nat.log2 (n - 1) + 1

/-- One sample of a channel in native mode: the window that ends with this frame gives its result (R62, R65). -/
def nativeSample (w : Well) (ch : Nat) (c : Chan) (tainted : Bool) (a : Sample) (x : Window) : Well × Window :=
  let n : Nat := 2 ^ c.avgK.toNat
  let x : Window := if w.frame % n = 0 then { freshWindow x with start := w.frameAt } else if x.n = 0 then { x with start := w.frameAt } else x
  let x : Window :=
    { x with sum := x.sum + a.value, n := x.n + 1, wakeTag := x.wakeTag || a.wake, settTag := x.settTag || tainted
             clipTag := x.clipTag || a.clipped }
  if (w.frame + 1) % n = 0 ∧ (x.n = n ∨ x.part) then
    let r : Result := { tag := tagOf x.wakeTag (x.settTag || x.part) x.clipTag, gain := c.gain,
                        value := BitVec.ofNat 18 (x.sum / n), chan := BitVec.ofNat 7 ch, fresh := w.frame, start := x.start }
    ({ w with result := sset {} w.result ch r }, rangeCounts r (freshWindow x))
  else (w, x)

/-- One sample of a channel in forerunner mode: a result every D frames (R68). -/
def filterSample (w : Well) (ch : Nat) (c : Chan) (tainted : Bool) (a : Sample) (x : Window) : Well × Window :=
  let k := c.filtK.toNat
  let d := c.filtDm1.toNat + 1
  let len := k * (d - 1) + 1
  let x : Window := { x with hist := ((a.value, a.wake, tainted, a.clipped) :: x.hist).take len, filtN := x.filtN + 1 }
  if x.filtN < d then (w, x)
  else
    let l := (x.hist.map (·.1)) ++ List.replicate (len - x.hist.length) 0
    let v := quot (sincSum d k l : Nat) ((2 ^ ceilLog2 (d ^ k) : Nat) : Int)
    let r : Result := { tag := tagOf (x.hist.any (·.2.1)) (x.hist.any (·.2.2.1) || decide (0 < x.filtTaint)) (x.hist.any (·.2.2.2)),
                        gain := c.gain, value := BitVec.ofNat 18 v.toNat, chan := BitVec.ofNat 7 ch, fresh := w.frame, start := w.frameAt }
    ({ w with result := sset {} w.result ch r }, rangeCounts r { x with filtN := 0, filtTaint := x.filtTaint - 1 })

/-- A tap entry of a frame (R65 to R68). One that falls due in the start-up delay, and makes no conversion, counts its taints down all the
same: R66 does not say whether it does (DESIGN CHOICE, log entry 136). -/
def tapEntry (w : Well) (e raw : Nat) : Well :=
  let v := schedOf w e
  if v.en then
    let ch := v.chan.toNat
    let c := chanOf w ch
    let x := sget {} w.win ch
    let tainted := decide (0 < x.taint ∨ 0 < sget 0 w.entTaint e)
    let (a, w) := convert w e raw
    let w := { w with entTaint := smod 0 w.entTaint e (· - 1) }
    let x := { x with taint := x.taint - 1 }
    let (w, x) := if c.filtK = 0 then nativeSample w ch c tainted a x else filterSample w ch c tainted a x
    { w with win := sset {} w.win ch x }
  else w

/-- A background entry, 72 to 79: the reference in odd frames, the zero in even ones, and the estimator's step where it has made a
conversion (R56, R58). R56 does not say from when frames count: odd and even are those of the frame count since the last change of loop
rate, by which R62 aligns windows (DESIGN CHOICE, log entry 24). -/
def backEntry (w : Well) (e raw : Nat) : Well :=
  let ch := if w.frame % 2 = 1 then 72 else 73
  let (a, w) := convert w e raw
  let r : Result := { tag := tagOf a.wake false a.clipped, value := BitVec.ofNat 18 a.value, chan := BitVec.ofNat 7 ch,
                      fresh := w.frame, start := w.frameAt }
  let w := { w with result := sset {} w.result ch r }
  if a.made then
    { w with slice := smod {} w.slice (e % 8) fun c =>
        { c with offset := Config.estOffset c.offset c.gain (ch == 72) raw, gain := Config.estGain c.offset c.gain (ch == 72) raw } }
  else w

/-- A wake that is due begins with this frame: the start-up delay counts from its start (R71). -/
def wakeNow (w : Well) : Well :=
  if w.wakeDue then { w with wakeDue := false, pdState := false, wakeAt := some w.frameAt, wakeConv := 0xFF } else w

/-- Entry e of a frame. -/
def entryStep (raw : List Nat) (w : Well) (e : Nat) : Well := if e < 72 then tapEntry w e (nth 0 raw e) else backEntry w e (nth 0 raw e)

/-- Entry e took the well from `old` to `new` with a result tagged clipped (R65): a background entry delivers one each time. -/
def clippedBy (old new : Well) (e : Nat) : Bool :=
  let ch := if e < 72 then (schedOf old e).chan.toNat else if old.frame % 2 = 1 then 72 else 73
  let r : Result := sget {} new.result ch
  decide (r.tag = .clipped) && (decide (72 ≤ e) || ((schedOf old e).en && decide (r ≠ sget {} old.result ch)))

/-- The entries of a frame in turn, where the well is powered: what each converts, and those whose results are tagged clipped. -/
def frameEntries (raw : List Nat) (w : Well) : Well × List Nat :=
  if w.pdState then (w, [])
  else (List.range 80).foldl (fun a e =>
    let w := entryStep raw a.1 e
    (w, if clippedBy a.1 w e then a.2 ++ [e] else a.2)) (w, [])

/-- The native windows of the channels that this frame does not convert are dropped: a window is one of N successive frames (R62). -/
def dropPartial (w : Well) : Well :=
  let on := fun ch : Nat => !w.pdState && (List.range 72).any fun e => (schedOf w e).en && decide ((schedOf w e).chan.toNat = ch)
  { w with win := w.win.foldl (fun m e => if e.2.n = 0 || on e.1 then m else smod {} m e.1 freshWindow) w.win }

/-- A frame that starts at device time `t` begins: settings take effect, and a wake is due. -/
def frameBegun (t : Time) (w : Well) : Well := wakeNow (applyPend { w with frameAt := t })

/-- A frame of a well that starts at device time `t` (R55, R71). -/
def frameOf (t : Time) (raw : List Nat) (w : Well) : Well :=
  let w := dropPartial (frameEntries raw (frameBegun t w)).1
  let idle := !((List.range 72).any fun e => (schedOf w e).en)
  { w with pdState := w.pdState || (w.pdAuto && idle), frame := w.frame + 1 }

/-- The instants of a frame's results that are tagged clipped, each at its entry's (R57, R362). -/
def frameClips (t : Time) (raw : List Nat) (w : Well) : List Time :=
  let b := frameBegun t w
  (frameEntries raw b).2.map (entryAt b)

/-- A channel's gain written by range selection at device time `t` (R57, R61): the field alone. -/
def stepGain (t : Time) (ch : Nat) (g : BitVec 2) (w : Well) : Well :=
  { w with pend := w.pend ++ [.gain (flag (lateNow w t)) ch g],
           win := smod {} w.win ch fun x => { x with clips := 0, lows := 0 } }

/-- The well delivers usable results to its Jet: converting, sound, its taps its own. -/
def wellServes (w : Well) : Bool := !w.pdState && !w.failed && !w.away

/-- WELL_CTRL of a well. -/
def wellCtrlWord (w : Well) : W32 :=
  BitVec.ofNat 32 (w.takeIdx.toNat * 4096 + flag w.takeEn * 256 + flag w.failed * 4 + flag w.pdState * 2 + flag w.pdAuto)

/-- PD_AUTO set or cleared; a well powered down that may no longer be wakes as under R71, at the next frame start (R72, log entry 24). -/
def setPdAuto (b : Bool) (w : Well) : Well := { w with pdAuto := b, wakeDue := w.wakeDue || (!b && w.pdState) }

/-- Every tap entry's analogue source changed (R66, R74). -/
def newSources (w : Well) : Well := { w with win := [], entTaint := stab 0 72 fun _ => 2 }

/-- A spare well's state as it takes over well `v` at place `idx` of its group: the settings copied, every entry's source changed, and
one that is powered down wakes (R71, R74). Settings that the failed well has been written and that are not in effect there are not copied,
and those that wait in the spare stay: R74 speaks of neither (DESIGN CHOICE, log entry 138). -/
def takeTaps (idx : Nat) (v spare : Well) : Well :=
  newSources { spare with sched := v.sched, chan := v.chan, takeIdx := BitVec.ofNat 4 idx, takeEn := true, wakeDue := spare.pdState }

/-- AVG_K of a channel written by firmware at device time `t`, where it differs (R63). -/
def setAvg (t : Time) (ch : Nat) (k : BitVec 4) (w : Well) : Well :=
  if (comingChan w ch).avgK = k then w else { w with pend := w.pend ++ [.avg (flag (lateNow w t)) ch k] }

/-- The well that delivers the results of a Jet in service. -/
def wellOfJet (s : State) (j : Nat) : Nat := (jetOf s ((jetOf s j).takenBy.getD j)).wellSel.getD j

/-- The channels of a loop's well that carry its taps (R55). -/
def chansOf (p : Part) (l : Nat) : List Nat :=
  let k := slotOfLoop p l
  if k < 32 then [2 * k, 2 * k + 1] else [k + 32]

/-- A channel of the loop is in forerunner mode, or is to be (R69). -/
def forerunnerOn (s : State) (l : Nat) : Bool :=
  let w := wellOf s (wellOfJet s (jetOfLoop s.part l))
  (chansOf s.part l).any fun ch => decide ((chanOf w ch).filtK ≠ 0 ∨ (comingChan w ch).filtK ≠ 0)

/-- The channels of a loop that is enabled average over the frames of a round (R63). -/
def roundAvg (l : Nat) (s : State) : State :=
  let k := BitVec.ofNat 4 (min 2 s.jets.rate.toNat)
  forEach (chansOf s.part l) s fun s ch => modWell (wellOfJet s (jetOfLoop s.part l)) (setAvg s.tb.now ch k) s

/-- The spare well of a group. -/
def spareWell (p : Part) (w : Nat) : Nat := p.jets + spareGroup p w

/-! ### Commands -/

/-- WELL_SCHED_WRITE (R56, R57): `late` when the write completes less than 50 ns before the next frame start. Without the reference clock
no write is made (R376). -/
def wellSchedWrite (w e : Nat) (v : W32) (late : Bool) (s : State) : State :=
  if !s.pwr.refclk then s
  else if w < s.part.jets + s.part.spares && schedOk (wellOf s w) e (schedFrom v) then
    modWell w (fun x => { x with pend := x.pend ++ [.sched (flag late) e (schedFrom v)] }) s
  else emit .busError s

/-- WELL_CHAN_WRITE (R57, R69, R70, R376). -/
def wellChanWrite (w ch : Nat) (v : W32) (late : Bool) (s : State) : State :=
  let x := wellOf s w
  if !s.pwr.refclk then s
  else if w < s.part.jets + s.part.spares && decide (ch < 72) && chanOk (chanFrom v) then
    let held := match loopOfChan s.part w x ch with
      | some l => (loopOf s l).enabled
      | none => false
    if (chanFrom v).filtK ≠ 0 && held then s
    else modWell w (fun x => { x with pend := x.pend ++ [.chan (flag late) ch (chanFrom v)] }) s
  else emit .busError s

/-- WELL_TAKEOVER (R74, R122, R340): where the well has failed and its group's spare is idle and sound. It is firmware's: under the boot ROM a
failure is recorded and no more (R317). -/
def wellTakeover (w : Nat) (s : State) : State :=
  let v := wellOf s w
  let sp := spareWell s.part w
  if w < s.part.jets && v.failed && !v.away && !s.dike.wellSpare.contains (spareGroup s.part w) && !(wellOf s sp).failed
      && fwLive s && s.sys.mode ≠ .safe then
    let s := modWell sp (takeTaps (w % 16) v) s
    let s := modWell w (fun x => { x with away := true }) s
    let s := modJet w (fun j => { j with wellSel := some sp }) s
    let s := match (jetOf s w).takenBy with
      | some k => modJet k (fun j => { j with wellSel := some sp }) s
      | none => s
    let s := { s with dike := { s.dike with wellSpare := spareGroup s.part w :: s.dike.wellSpare } }
    ev 293 (notify 0xF (wearBody 6 0 w sp) s)
  else s

/-- WELL_FRAME (R55): one WELL_CLIP event for each result tagged clipped (R362). The well's checker checks once per frame, whether or not the
well has failed (R326). -/
def wellFrame (w : Nat) (raw : List Nat) (s : State) : State :=
  if w < s.part.jets + s.part.spares && s.pwr.refclk && s.sys.mode ≠ .reset then
    let old := wellOf s w
    let s := forEach (frameClips s.tb.now raw old) (modWell w (fun _ => frameOf s.tb.now raw old) s) fun s t => evAt t (136 + w) s
    checkNow (88 + w) s
  else s

/-- WELL_WAKE_END (R71): the marks on each slice's first conversion outlive the delay. -/
def wellWakeEnd (w : Nat) (s : State) : State :=
  match (wellOf s w).wakeAt with
  | some t => if t + ns 1200 ≤ s.tb.now then modWell w (fun x => { x with wakeAt := none }) s else s
  | none => s

/-- RANGE_STEP_DOWN (R61). -/
def rangeStepDown (w ch : Nat) (s : State) : State :=
  let x := wellOf s w
  let g := (chanOf x ch).gain
  if ch < 72 ∧ 4 ≤ (sget {} x.win ch).clips ∧ g ≠ 0 then modWell w (stepGain s.tb.now ch (g - 1)) s else s

/-- RANGE_STEP_UP (R61). -/
def rangeStepUp (w ch : Nat) (s : State) : State :=
  let x := wellOf s w
  let g := (chanOf x ch).gain
  if ch < 72 ∧ 1024 ≤ (sget {} x.win ch).lows ∧ g ≠ 3 then modWell w (stepGain s.tb.now ch (g + 1)) s else s

/-- WELL_SLICE_FAIL (R59). -/
def wellSliceFail (w : Nat) (s : State) : State :=
  if w < s.part.jets + s.part.spares then raise (88 + w) s else s

end Sys2Proof.Machine
end

