-- ==== Sys2Proof/Machine/LoopMath.lean ====
section
/-! DEFINITION. The arithmetic of one loop in one round: the Fountain's table and dither, tap power words, demodulation, the control
law, linearisation with its cached segments, soft-start and shutdown, lock and dark detection (R83 to R120). -/

namespace Sys2Proof.Machine

/-! ### The Fountain (R83 to R87) -/

/-- Entries 0 to 256 of the sine table: round(32,767 sin(2 pi i / 1,024)). -/
def quarterWave : List Nat :=
  [0, 201, 402, 603, 804, 1005, 1206, 1407, 1608, 1809, 2009, 2210, 2410, 2611, 2811, 3012] ++
  [3212, 3412, 3612, 3811, 4011, 4210, 4410, 4609, 4808, 5007, 5205, 5404, 5602, 5800, 5998, 6195] ++
  [6393, 6590, 6786, 6983, 7179, 7375, 7571, 7767, 7962, 8157, 8351, 8545, 8739, 8933, 9126, 9319] ++
  [9512, 9704, 9896, 10087, 10278, 10469, 10659, 10849, 11039, 11228, 11417, 11605, 11793, 11980, 12167, 12353] ++
  [12539, 12725, 12910, 13094, 13279, 13462, 13645, 13828, 14010, 14191, 14372, 14553, 14732, 14912, 15090, 15269] ++
  [15446, 15623, 15800, 15976, 16151, 16325, 16499, 16673, 16846, 17018, 17189, 17360, 17530, 17700, 17869, 18037] ++
  [18204, 18371, 18537, 18703, 18868, 19032, 19195, 19357, 19519, 19680, 19841, 20000, 20159, 20317, 20475, 20631] ++
  [20787, 20942, 21096, 21250, 21403, 21554, 21705, 21856, 22005, 22154, 22301, 22448, 22594, 22739, 22884, 23027] ++
  [23170, 23311, 23452, 23592, 23731, 23870, 24007, 24143, 24279, 24413, 24547, 24680, 24811, 24942, 25072, 25201] ++
  [25329, 25456, 25582, 25708, 25832, 25955, 26077, 26198, 26319, 26438, 26556, 26674, 26790, 26905, 27019, 27133] ++
  [27245, 27356, 27466, 27575, 27683, 27790, 27896, 28001, 28105, 28208, 28310, 28411, 28510, 28609, 28706, 28803] ++
  [28898, 28992, 29085, 29177, 29268, 29358, 29447, 29534, 29621, 29706, 29791, 29874, 29956, 30037, 30117, 30195] ++
  [30273, 30349, 30424, 30498, 30571, 30643, 30714, 30783, 30852, 30919, 30985, 31050, 31113, 31176, 31237, 31297] ++
  [31356, 31414, 31470, 31526, 31580, 31633, 31685, 31736, 31785, 31833, 31880, 31926, 31971, 32014, 32057, 32098] ++
  [32137, 32176, 32213, 32250, 32285, 32318, 32351, 32382, 32412, 32441, 32469, 32495, 32521, 32545, 32567, 32589] ++
  [32609, 32628, 32646, 32663, 32678, 32692, 32705, 32717, 32728, 32737, 32745, 32752, 32757, 32761, 32765, 32766] ++
  [32767]

/-- Entry i of the 1,024-entry table, in sQ1.15. -/
def sine (i : Nat) : Int :=
  let i := i % 1024
  let q := fun (k : Nat) => ((nth 0 quarterWave k : Nat) : Int)
  if i ≤ 256 then q i else if i ≤ 512 then q (512 - i) else if i ≤ 768 then -q (i - 512) else -q (1024 - i)

/-- The table index of an accumulator: its top 10 bits. -/
def fntIndex (acc : BitVec 24) : Nat := acc.toNat / 2 ^ 14

/-- AMP_eff: the lesser of AMP and the Jet's CAP. -/
def ampEff (f : Fnt) (cap : BitVec 8) : Nat := min f.amp.toNat cap.toNat

/-- The dither term in code LSB. -/
def dither (f : Fnt) (cap : BitVec 8) : Int :=
  if f.en then nearest (ampEff f cap * sine (fntIndex f.acc)) 32768 else 0

/-- INC of a slot at a loop rate (R84): f x 2^24 / f_round, rounded. -/
def slotInc (slot : Nat) (rate : BitVec 2) : BitVec 24 :=
  BitVec.ofInt 24 (nearest ((5000 + slot * 500) * 16777216 * framesPerRound rate : Nat) 1000000)

/-- The frequency slot of an element (R85): 8 x (column mod 8) + row mod 8. -/
def slotOf (p : Part) (l : Nat) : Nat :=
  if l < p.cells then 8 * (l / p.rows % 8) + l % p.rows % 8
  else if l < p.cells + p.ports then 8 * 7 + (l - p.cells) % 8
  else 8 * (2 * p.m % 8) + (l - p.cells - p.ports) % 8

/-- The accumulator at a round start: cleared by PH_RST, else advanced (R83). -/
def fntAdvance (f : Fnt) : Fnt := if f.phRst then { f with acc := 0, phRst := false } else { f with acc := f.acc + f.inc }

/-- The test generator's signal in code LSB (R87): sine, square, step or ramp. -/
def testSignal (t : TestGen) : Int :=
  if t.on then
    match t.wave with
    | 0 => nearest (t.amp.toNat * sine (fntIndex t.acc)) 32768
    | 1 => if t.acc.toNat < 2 ^ 23 then t.amp.toNat else -(t.amp.toNat : Int)
    | 2 => t.amp.toNat
    | _ => min t.amp.toNat t.rounds
  else 0

/-! ### Linearisation (R101, R102) -/

/-- The calibration of the heater in use of a cell. -/
def htrCalOf (cal : CalData) (c : Nat) (htrB : Bool) : HtrCal := sget {} cal.htr (2 * c + flag htrB)

/-- A heater's table and the phase at full-scale code, in a range. -/
def linTable (h : HtrCal) (ext : Bool) : List (BitVec 16) × Nat := if ext then (h.linE, h.spanE) else (h.linN, h.spanN)

/-- The table entry at or below a phase. -/
def linIndex (span : Nat) (phi : Int) : Nat := if span = 0 then 0 else (phi * 255).toNat / span

/-- LIN: linear between entries, 65,536 above the last; below phase 0 the spec states no code (log entry 18). -/
def lin (t : List (BitVec 16) × Nat) (phi : Int) : Int :=
  if phi < 0 then Config.outside 17 phi
  else if t.2 = 0 ∨ (t.2 : Int) < phi then 65536
  else
    let i := linIndex t.2 phi
    let a : Int := (nth 0 t.1 i).toNat
    let b : Int := (nth 0 t.1 (min 255 (i + 1))).toNat
    a + quot ((b - a) * (phi * 255 - i * t.2)) t.2

/-- The cached segments after a round at entry i: the one in use is the most recent, and a segment within two entries is prefetched
unless its fetch is late (R101). -/
def touchSegs (segs : List (Bool × Nat)) (ext : Bool) (i : Nat) (late : Bool) : List (Bool × Nat) :=
  let seg := (ext, i / 16)
  let segs := seg :: segs.filter (· != seg)
  let near := ([i - 2, min 255 (i + 2)].map fun k => (ext, k / 16)).filter fun k => !segs.contains k
  if late then segs.take 2 else (segs.take 1 ++ near ++ segs.drop 1).take 2

/-- The segments after a miss at entry i: the fetched one has arrived for the next round unless it is late (R102). -/
def missSegs (segs : List (Bool × Nat)) (ext : Bool) (i : Nat) (late : Bool) : List (Bool × Nat) :=
  if late then segs else ((ext, i / 16) :: segs).take 2

/-! ### Taps and demodulation (R94) -/

/-- The tap power word. -/
def tapPower (r : Result) : Nat := r.value.toNat * 4 ^ (3 - r.gain.toNat)

/-- Tap difference D in sQ1.30; with S = 0 the spec states none (log entry 18). D = +1 does not fit the format: the 32-bit register
keeps 2^30 (DESIGN CHOICE, log entry 99). -/
def tapDiff (pB pX : Nat) : Int :=
  if pB + pX = 0 then sgn 31 (Config.outside 31 0) else quot (((pB : Int) - pX) * 2 ^ 30) (pB + pX : Nat)

/-- One step of a first-order filter: x + (y - x) >> k, where y has `f` fraction bits below x. -/
def lowPass (x y : Int) (f k : Nat) : Int := x + fdiv (y - x * 2 ^ f) (2 ^ (f + k))

/-- A signed number in a 32-bit register; outside it, log entry 18's free bits. -/
def to32 (v : Int) : BitVec 32 :=
  if -(2 ^ 31) ≤ v ∧ v < 2 ^ 31 then BitVec.ofInt 32 v else BitVec.ofNat 32 (Config.outside 32 v)

/-- The limit of e: 1 - 2^-30. -/
def satErr (v : Int) : Int := clampI (-(2 ^ 30 - 1)) (2 ^ 30 - 1) v

/-- The error of a cell from its demodulated quantities (R94). sign(CON) at CON = 0 is a free +1 or -1, never 0 (DESIGN CHOICE, log
entry 100). With AMP_eff = 0, by AMP or by CAP, the spec divides by 0 and states no error: e is a free value (DESIGN CHOICE, log entry
18). -/
def cellErr (iAcc con : Int) (amp : Nat) : Int :=
  if amp = 0 then satErr (sgn 31 (Config.outside 31 iAcc))
  else
    let sign : Int := if con = 0 then (if Config.outside 1 0 % 2 = 0 then 1 else -1) else con.sign
    satErr (quot (sign * iAcc * 32 * 2 ^ 30) (max con.natAbs (2 ^ 23) * amp : Nat))

/-- The error of a levelled equaliser (R96). -/
def eqErr (power setpt : Nat) : Int := satErr (quot (((power : Int) - setpt) * 2 ^ 30) setpt)

/-- The proportional term (R99). -/
def propTerm (b : Bank) (e : Int) : Int := clampI (-(2 ^ 31)) (2 ^ 31) (fdiv (b.kp.toInt * e) (2 ^ b.shP.toNat))

/-- The integrator's advance (R99). -/
def integStep (b : Bank) (e : Int) : Int := clampI (-(2 ^ 30)) (2 ^ 30) (fdiv (b.ki.toInt * e) (2 ^ b.shI.toNat))

/-- The heat word of a loop as its neighbours see it (R134). -/
def heatWord (v : Loop) : Nat := min 65535 (v.heat.toNat + v.flipHeat.toNat)

/-- The feedforward target: the sum of a_k x h_k over the neighbours (R99, R100, R134). -/
def ffTarget (loops : Sparse Loop) (own : Nat) (l : Loop) : Int :=
  ((List.range 8).map fun k =>
    let n := (nbAt l.desc k).toNat
    if n = 0xFFFF then 0
    else
      let v : Loop := sget {} loops n
      (nth 0 l.active.a k).toInt * (if n = own then v.flipHeat.toNat else heatWord v : Nat)).sum

/-- The feedforward term after a round, saturated at the ends of its signed 32-bit field: the upper one is 2^31 - 1, where R99's table
says 2^31 (DESIGN CHOICE, log entry 101). -/
def ffStep (b : Bank) (ff target : Int) : Int := clampI (-(2 ^ 31)) (2 ^ 31 - 1) (lowPass ff target 0 b.tauSh.toNat)

/-! ### Wraps (R104) -/

/-- A fringe hop: none, down by a carry, up by a borrow. -/
inductive Hop where
  | none | down | up
  deriving DecidableEq, Repr

/-- The integrator of a cell or valve advanced, and the hop its wrap makes. -/
def wrapInteg (integ : BitVec 32) (d : Int) : BitVec 32 × Hop :=
  let v := (integ.toNat : Int) + d
  (BitVec.ofInt 32 v, if v < 0 then .up else if 2 ^ 32 ≤ v then .down else .none)

/-- HOPS counted. -/
def countHop (h : Hop) (l : Loop) : Loop := if h = .none then l else { l with hops := satInc l.hops }

/-! ### Lock and dark (R116, R118) -/

/-- |e| within LOCK_BAND. -/
def inBand (l : Loop) (e : Int) : Bool := decide (e.natAbs ≤ l.desc.lockBand.toNat * 2 ^ 14)

/-- LOCK after a computing round of a loop outside soft-start and not DARK. -/
def lockStep (l : Loop) (e : Int) : Loop :=
  let ok := inBand l e
  let good := if ok then min 16 (l.good + 1) else 0
  let bad := if ok then 0 else min 4 (l.bad + 1)
  { l with good := good, bad := bad, lastErr := e, lock := if good = 16 then true else if bad = 4 then false else l.lock }

/-- LOCK cleared, with its counts. -/
def unlock (l : Loop) : Loop := { l with lock := false, good := 0, bad := 0 }

/-- The counts of R118 after a round with valid results. -/
def darkCounts (l : Loop) (s : Nat) (con : Int) : Loop :=
  let lm := l.desc.lightMin.toNat
  { l with unlit := if s < lm then min 16 (l.unlit + 1) else 0
           even := if lm ≤ s ∧ con.natAbs < 2 ^ 23 then min 16 (l.even + 1) else 0
           lit := if 2 * lm ≤ s ∧ 2 ^ 24 ≤ con.natAbs then min 16 (l.lit + 1) else 0 }

/-- Entry into DARK and exit from it (R118, R120). -/
def darkStep (l : Loop) : Loop :=
  if l.dark then
    if l.lit = 16 then
      { l with dark := false, balanced := false, unlit := 0, even := 0, lit := 0, desc := { l.desc with iAcc := 0, qAcc := 0 } }
    else l
  else if l.unlit = 16 ∨ l.even = 16 then
    { unlock l with dark := true, balanced := decide (l.unlit < 16), unlit := 0, even := 0, lit := 0 }
  else l

/-- Mean of a list, with the rounding free; none of an empty list. -/
def meanOf : List Int → Option Int
  | [] => none
  | l => some (quot l.sum l.length)

/-- A cell loop whose DRIFT may be borrowed (R119). -/
def lends (p : Part) (loops : Sparse Loop) (n : Nat) : Bool :=
  let v : Loop := sget {} loops n
  decide (n < p.cells) && v.enabled && v.lock && !v.dark

/-- The borrowed drift of a loop (R119): from its neighbours (of a valve, its relief cells), then from its Jet's cells, else zero. -/
def borrowed (p : Part) (loops : Sparse Loop) (own : Nat) (l : Loop) : Int :=
  let drift := fun n : Nat => ((sget {} loops n : Loop).desc.drift).toInt
  let near := ((l.desc.nb.map (·.toNat)).filter (lends p loops)).filter fun n =>
    decide (own < p.cells) || decide (p.cells - p.rows ≤ n)
  match meanOf (near.map drift) with
  | some v => v
  | none =>
    (meanOf ((((loopsOfJet p (jetOfLoop p own)).filter (· < p.cells)).filter (lends p loops)).map drift)).getD 0

/-- INTEG advanced by a drift in sQ8.24, the fraction carried over (log entry 25). -/
def driftStep (d : Int) (l : Loop) : Loop × Hop :=
  let t := (l.frac : Int) + d
  let (i, h) := wrapInteg l.desc.integ (fdiv t (2 ^ 24))
  ({ countHop h l with frac := (t.fmod (2 ^ 24)).toNat, desc := { l.desc with integ := i } }, h)

end Sys2Proof.Machine
end

