-- ==== Sys2Proof/Machine/Rounds.lean ====
section
/-! DEFINITION. One round of a loop (R99, R110 to R120): a cell's, an equaliser's and a valve's, from the taps, the heat words and
the ladder. -/

namespace Sys2Proof.Machine

/-- What a loop reads in a round: the part and calibration, the loops as the round start left them, the Jet's dither and test signal,
its taps (none unless valid), the ladder's code and range, and the round's holds. -/
structure RoundIn where
  part   : Part
  cal    : CalData
  loops  : Sparse Loop
  own    : Nat
  fnt    : Fnt
  cap    : BitVec 8
  test   : Int
  first  : Option Result            -- bar tap of a cell, tap of a port element
  second : Option Result            -- cross tap of a cell
  code   : Nat                      -- the code at the ladder
  ext    : Bool                     -- the heater's range
  hold   : Bool                     -- remap round, range change interval, or the first round at a new rate
  late   : Bool                     -- the segment fetch of this loop does not arrive
  swapped : Bool                    -- the coefficient bank swaps in this round
  inCal  : Bool                     -- mode Calibrate
  deriving DecidableEq, Repr

/-- What a round of a loop gives: the loop after it, the code it writes, its fringe hop, and whether it skipped its write. -/
structure RoundOut where
  loop : Loop
  code : Option Nat := none
  hop  : Hop := .none
  skip : Bool := false
  back : Bool := false              -- a shutdown has ended: OWN returns to the processor
  deriving DecidableEq, Repr

/-- The loop holds (R113). A held round, without valid results among them, neither counts towards R118's 16 successive rounds nor breaks them:
R118 says it of no such round (DESIGN CHOICE, log entry 104). -/
def holdRound (l : Loop) : RoundOut := { loop := { l with holding := true, valid := false } }

/-- A code limited to a ladder's range, and whether it was. -/
def clampCode (top : Nat) (c : Int) : Nat × Bool := ((clampI 0 top c).toNat, decide (c < 0 ∨ (top : Int) < c))

/-- A code moved from `last` towards `want` by at most RAMP_STEP (R110, R111). -/
def rampTo (last want step : Nat) : Nat := if last < want then min want (last + step) else max want (last - step)

/-- The flags and counts of a write, and LAST_CODE (R103). -/
def wrote (c : Nat) (clamped : Bool) (l : Loop) : Loop :=
  { l with clamp := clamped, clamps := if clamped then satInc l.clamps else l.clamps,
           desc := { l.desc with lastCode := BitVec.ofNat 16 c } }

/-- A round of shutdown (R111): RAMP_STEP below the last written code, with the dither on it, no further from it than RAMP_STEP and
never above it; 0 within a step of it, or by the dither, ends it (log entry 102). -/
def shutdownRound (top : Nat) (r : RoundIn) (l : Loop) : RoundOut :=
  let last := l.desc.lastCode.toNat
  let low := last - l.desc.rampStep.toNat
  let (c0, k) := clampCode top (low + dither r.fnt r.cap)
  let c := if low = 0 then 0 else min last (max low c0)
  let v := { wrote c (k && decide (low ≠ 0)) l with holding := true, valid := false }
  if c = 0 then { loop := { v with ramp := .none, ramping := false }, code := some 0, back := true } else { loop := v, code := some c }

/-- A round's write: the flags and counts of JET_LOOP_STAT and LAST_CODE. -/
def written (c : Nat) (clamped : Bool) (l : Loop) : Loop :=
  { wrote c clamped l with holding := false, valid := true }

/-- A loop of a cell initialised from the code at the ladder (R110); I_ACC and Q_ACC clear, ff starts at its target, and LOCK clears
with the entry into soft-start (R116). -/
def initCell (r : RoundIn) (l : Loop) : Loop :=
  let t := linTable (htrCalOf r.cal r.own l.desc.htrB) r.ext
  let phi : Int := Config.linInv t.1 t.2 r.code
  let l := unlock l
  { l with ramp := .soft, ramping := true, conFirst := true,
           desc := { l.desc with integ := BitVec.ofInt 32 (clampI 0 (2 ^ 32 - 1) (phi - l.desc.base.toNat)), iAcc := 0, qAcc := 0,
                                 ff := BitVec.ofInt 32 (clampI (-(2 ^ 31)) (2 ^ 31 - 1) (ffTarget r.loops r.own l)),
                                 lastCode := BitVec.ofNat 16 r.code } }

/-- The demodulated quantities of a cell after a round with valid taps (R94): the loop, S and D. -/
def demod (r : RoundIn) (pB pX : Nat) (l : Loop) : Loop × Nat × Int :=
  let b := l.active
  let d := tapDiff pB pX
  let i := fntIndex r.fnt.acc
  let con := if l.conFirst then d else lowPass l.desc.con.toInt d 0 b.conSh.toNat
  ({ l with conFirst := false, diff := d,
            desc := { l.desc with iAcc := to32 (lowPass l.desc.iAcc.toInt (d * sine i) 15 b.demSh.toNat),
                                  qAcc := to32 (lowPass l.desc.qAcc.toInt (d * sine (i + 256)) 15 b.demSh.toNat),
                                  con := to32 con } }, pB + pX, d)

/-- The phase sum and written code of a cell with a given p, before any ramp: index in the table, code and clamp. -/
def cellCode (r : RoundIn) (l : Loop) (p : Int) : Nat × Nat × Bool :=
  let t := linTable (htrCalOf r.cal r.own l.desc.htrB) r.ext
  let phi := (l.desc.base.toNat : Int) + l.desc.integ.toNat + p + l.desc.ff.toInt
  let (c, k) := clampCode 65535 (lin t phi + dither r.fnt r.cap + r.test)
  (min 255 (linIndex t.2 (max 0 phi)), c, k)

/-- The segment of the range's table that an entry lies in is cached (R102). A phase between the last entry of a cached segment and the
first of the next, whose interpolation reads both, counts as cached (DESIGN CHOICE, log entry 103). -/
def cached (r : RoundIn) (l : Loop) (i : Nat) : Bool := l.segs.contains (r.ext, i / 16)

/-- A skipped write (R102, R114). It neither counts towards R118's 16 successive rounds nor breaks them, whatever its results were
(DESIGN CHOICE, log entry 104). -/
def skipRound (r : RoundIn) (l : Loop) (i : Nat) : RoundOut :=
  { loop := { l with skips := satInc l.skips, holding := true, valid := false, segs := missSegs l.segs r.ext i r.late }, skip := true }

/-- A round of a DARK cell (R119): INTEG on borrowed drift, CON only while lit, but from the first valid round after it was enabled
(R110). -/
def darkRound (r : RoundIn) (pB pX : Nat) (l : Loop) : RoundOut :=
  let b := l.active
  let d := tapDiff pB pX
  let con := if l.conFirst then to32 d
    else if l.desc.lightMin.toNat ≤ pB + pX then to32 (lowPass l.desc.con.toInt d 0 b.conSh.toNat) else l.desc.con
  let ff := BitVec.ofInt 32 (ffStep b l.desc.ff.toInt (ffTarget r.loops r.own l))
  let (l1, h) := driftStep (borrowed r.part r.loops r.own l) { l with conFirst := false, diff := d, desc := { l.desc with con := con, ff := ff } }
  let (i, c, k) := cellCode r l1 0
  if cached r l i then
    let l2 := darkStep (darkCounts { l1 with segs := touchSegs l1.segs r.ext i r.late } (pB + pX) con.toInt)
    { loop := { written c k l2 with ramp := .none, ramping := false }, code := some c, hop := h }
  else skipRound r l i

/-- A round of a cell with valid taps, not DARK (R94, R99, R110, R116, R118). One that soft-start limits is a round in which the loop
computes: it counts towards LOCK, which stays 0 until soft-start is over. In a round that soft-start limits, CLAMP and CLAMPS follow
the computed code's clamp, not the ramped code written, and DRIFT stays, since INTEG does not advance (DESIGN CHOICE, log entry 105). -/
def litRound (r : RoundIn) (pB pX : Nat) (l : Loop) : RoundOut :=
  let b := l.active
  let (l1, s, _) := demod r pB pX l
  let e := cellErr l1.desc.iAcc.toInt l1.desc.con.toInt (ampEff r.fnt r.cap)
  let p := propTerm b e
  let dI := integStep b e
  let (integ, h) := wrapInteg l.desc.integ dI
  let ff := BitVec.ofInt 32 (ffStep b l.desc.ff.toInt (ffTarget r.loops r.own l))
  let l2 := { l1 with desc := { l1.desc with integ := integ, ff := ff } }
  let (i, c, k) := cellCode r l2 p
  if cached r l i then
    let l2 := { l2 with segs := touchSegs l2.segs r.ext i r.late }
    let w := if l.ramp = .soft then rampTo l.desc.lastCode.toNat c l.desc.rampStep.toNat else c
    if w = c then
      let dd := if h ≠ .none || r.swapped then 0 else dI
      let drift := to32 (lowPass l.desc.drift.toInt (dd * 2 ^ 24) 0 16)
      let l3 := countHop h { l2 with ramp := .none, ramping := false, desc := { l2.desc with drift := drift } }
      let l4 := darkStep (darkCounts (lockStep l3 e) s l3.desc.con.toInt)
      { loop := written c k l4, code := some c, hop := h }
    else
      let l3 := { lockStep l2 e with lock := false, desc := { l2.desc with integ := l.desc.integ } }
      { loop := written w k (darkStep (darkCounts l3 s l3.desc.con.toInt)), code := some w }
  else skipRound r l i

/-- One round of a cell loop, by the first matching row of *Table — Loop action by condition*. Where a result is not valid, the phase
that the cell holds, BASE + INTEG + ff, decides whether its segment fetch is still out (DEDUCED, log entry 106). -/
def cellRound (r : RoundIn) (l : Loop) : RoundOut :=
  if l.ramp = .shutdown then shutdownRound 65535 r l
  else if !l.enabled then holdRound l
  else if r.hold then holdRound l
  else
    let l := if l.ramp = .starting then initCell r l else l
    match r.first, r.second with
    | some a, some b =>
      if l.dark then darkRound r (tapPower a) (tapPower b) l else litRound r (tapPower a) (tapPower b) l
    | _, _ => let (i, _, _) := cellCode r l 0; if cached r l i then holdRound l else skipRound r l i

/-- A port element's written code under soft-start; soft-start ends where it meets the computed one (R110). -/
def portWrite (c : Nat) (k : Bool) (l : Loop) : RoundOut :=
  let w := if l.ramp = .soft then rampTo l.desc.lastCode.toNat c l.desc.rampStep.toNat else c
  let l := if w = c then { l with ramp := .none, ramping := false } else l
  { loop := written w k l, code := some w }

/-- A port element's loop takes the code at its ladder as its last one when it is enabled. R110 gives the initialisation for cells: an
equaliser's INTEG is set to that code x 2^18, and a valve keeps its INTEG and FF (DESIGN CHOICE, log entry 107). -/
def initPort (r : RoundIn) (l : Loop) : Loop :=
  { unlock l with ramp := .soft, ramping := true, desc := { l.desc with lastCode := BitVec.ofNat 16 r.code } }

/-- One round of an ingress equaliser (R96, R99); dither and a test signal are added to every write (R86, R87). -/
def eqRound (r : RoundIn) (l : Loop) : RoundOut :=
  if l.ramp = .shutdown then shutdownRound 16383 r l
  else if !l.enabled || r.hold then holdRound l
  else
    let l := if l.ramp = .starting then
        initPort r { l with desc := { l.desc with integ := BitVec.ofNat 32 (r.code * 2 ^ 18) } } else l
    let q := sget {} r.cal.eq (r.own - r.part.cells)
    if l.levelled && l.desc.setpt ≠ 0 && !r.inCal then
      match r.first with
      | some a =>
        let b := l.active
        let e := eqErr (tapPower a) l.desc.setpt.toNat
        let v := (l.desc.integ.toNat : Int) + integStep b e
        let integ := clampI 0 (2 ^ 32 - 1) v
        let limit := decide (v ≤ 0 ∨ 2 ^ 32 - 1 ≤ v)
        let (c, k) := clampCode 16383 (clampI q.codeMin.toNat q.codeMax.toNat (fdiv (integ * 2 ^ 14 + propTerm b e) (2 ^ 32)) + dither r.fnt r.cap + r.test)
        let w := portWrite c k l
        if w.loop.ramp = .none then
          { w with loop := { lockStep w.loop e with limit := limit, desc := { w.loop.desc with integ := BitVec.ofInt 32 integ } } }
        else { w with loop := { lockStep w.loop e with lock := false } }
      | none => holdRound l
    else
      let (c, k) := clampCode 16383 ((if l.levelled || r.inCal then q.codeMin.toNat else q.codeMax.toNat : Nat) + dither r.fnt r.cap + r.test)
      portWrite c k l

/-- One round of an egress valve (R97, R119): scheduled code, feedforward and borrowed drift, with dither and a test signal on it (R86, R87). In a round
that soft-start limits, INTEG does not advance (R110, R113). -/
def valveRound (r : RoundIn) (l : Loop) : RoundOut :=
  if l.ramp = .shutdown then shutdownRound 16383 r l
  else if !l.enabled || r.hold then holdRound l
  else
    let l := if l.ramp = .starting then initPort r l else l
    let ff := BitVec.ofInt 32 (ffStep l.active l.desc.ff.toInt (ffTarget r.loops r.own l))
    let (l1, h) := driftStep (borrowed r.part r.loops r.own l) { l with desc := { l.desc with ff := ff } }
    let base := if l.desc.st then l.desc.setpt.extractLsb' 0 14 else l.desc.setpt.extractLsb' 16 14
    let n := r.own - r.part.cells - r.part.ports
    let (c, k) := clampCode 16383 (base.toNat + Config.valveLin n (l1.desc.integ.toNat + ff.toInt) + dither r.fnt r.cap + r.test)
    let w := portWrite c k l1
    if w.loop.ramp = .none then { w with loop := { w.loop with lock := !k }, hop := h }
    else { w with loop := { w.loop with lock := false, frac := l.frac, hops := l.hops,
                                        desc := { w.loop.desc with integ := l.desc.integ } } }

/-- One round of a loop, by its kind. -/
def loopRound (r : RoundIn) (l : Loop) : RoundOut :=
  match kindOf r.part r.own with
  | .cell => cellRound r l
  | .equaliser => eqRound r l
  | .valve => valveRound r l
  | .empty => holdRound l

end Sys2Proof.Machine
end

