-- ==== Sys2Proof/Machine/Route.lean ====
section
/-! DEFINITION. The photonic fabric's wiring and the route engine: paths through a cell-state vector, and the route that R48 chooses,
by its three phases. A vector holds every cell, so the idle routes of R45 are those it gives the unconnected ports. -/

namespace Sys2Proof.Machine

/-! ### Wiring (R30 to R32) -/

/-- A line number with its low `w` bits rotated right by one place. -/
def rotR (w x : Nat) : Nat := x / 2 ^ w * 2 ^ w + (x % 2 ^ w / 2 + x % 2 * 2 ^ (w - 1))

/-- A line number with its low `w` bits rotated left by one place. -/
def rotL (w x : Nat) : Nat := x / 2 ^ w * 2 ^ w + (x % 2 ^ w * 2 % 2 ^ w + x % 2 ^ w / 2 ^ (w - 1))

/-- The input line of stage s + 1 that output line x of stage s feeds; of the relief stage, the egress port. -/
def wire (p : Part) (s x : Nat) : Nat :=
  if s + 1 < p.m then rotR (p.m - s) x
  else if s + 2 < 2 * p.m then rotL (s + 3 - p.m) x
  else if s + 2 = 2 * p.m then (x + p.ports - 1) % p.ports
  else (x + 1) % p.ports

/-- The output line of stage s that feeds input line x of stage s + 1: `wire` backwards. -/
def unwire (p : Part) (s x : Nat) : Nat :=
  if s + 1 < p.m then rotL (p.m - s) x
  else if s + 2 < 2 * p.m then rotR (s + 3 - p.m) x
  else if s + 2 = 2 * p.m then (x + 1) % p.ports
  else (x + p.ports - 1) % p.ports

/-- The cell at stage s that line x meets (R30). -/
def cellAt (p : Part) (s x : Nat) : Nat := s * p.rows + x / 2

/-- The output line by which light on input line x leaves stage s: crossed or not as the cell's state says (R33). -/
def through (p : Part) (v : CellMap) (s x : Nat) : Nat :=
  if v.getLsbD (cellAt p s x) then (if x % 2 = 0 then x + 1 else x - 1) else x

/-- The input lines, stage by stage, of a path that is on input line x of stage s with `k` stages to go, and its end. -/
def linesFrom (p : Part) (v : CellMap) : Nat → Nat → Nat → List Nat
  | 0, _, x => [x]
  | k + 1, s, x => x :: linesFrom p v k (s + 1) (wire p s (through p v s x))

/-- The input lines of the path that leaves ingress port In, and the egress port it reaches. -/
def pathLines (p : Part) (v : CellMap) (n : Nat) : List Nat := linesFrom p v p.stages 0 n

/-- The cells of the path that leaves ingress port In, by stage. -/
def pathCells (p : Part) (v : CellMap) (n : Nat) : List Nat :=
  ((pathLines p v n).take p.stages).mapIdx fun s x => cellAt p s x

/-- The egress port that the light of ingress port In reaches. -/
def pathEnd (p : Part) (v : CellMap) (n : Nat) : Nat := (pathLines p v n).getLastD n

/-- The ingress port whose light reaches egress port Ek, going back through `k` stages from output `x` of the last. -/
def backFrom (p : Part) (v : CellMap) : Nat → Nat → Nat
  | 0, x => x
  | s + 1, x => backFrom p v s (let y := unwire p s x; through p v s y)

/-- The ingress port whose path reaches egress port Ek. -/
def pathStart (p : Part) (v : CellMap) (k : Nat) : Nat := backFrom p v p.stages k

/-- Connections that pass a cell. -/
def connsThrough (p : Part) (v : CellMap) (m : ConnMap) (c : Nat) : ConnMap :=
  m.filter fun e => (pathCells p v e.1).contains c

/-- Cells on the connections of a map. -/
def cellsOf (p : Part) (v : CellMap) (m : ConnMap) : CellMap :=
  m.foldl (fun a e => a ||| mapOf 2048 (pathCells p v e.1)) 0

/-! ### Conditions (R42, R43) -/

/-- A cell's condition. -/
def condAt (f : Fab) (c : Nat) : Cond := condOf ((sget 0 f.cond c).toNat % 4)

/-- Cells whose state is fixed by their condition: stuck ones, and opaque ones at their last level (R42, R430). -/
def condFixed (f : Fab) : CellMap := mapOf 2048 ((f.cond.filter fun e => e.2.toNat % 4 ≠ 0).map (·.1))

/-- OPAQUE cells. -/
def opaqueCells (f : Fab) : CellMap := mapOf 2048 ((f.cond.filter fun e => e.2.toNat % 4 = 3).map (·.1))

/-! ### The search -/

/-- A partial route: the cells decided so far, the whole vector (undecided cells at the states the route starts from), the moves and
flips it makes, and whether the path being laid deviates from those states. -/
structure Draft where
  known : CellMap
  val   : CellMap
  moved : Nat := 0
  flips : Nat := 0
  dev   : Bool := false
  deriving DecidableEq, Repr

/-- A path that the route must give: from an input line of stage s to an output line of stage e, or to an egress port where
e is the relief stage; a path of an unchanged connection counts as moved where it deviates. -/
structure Demand where
  s : Nat
  x : Nat
  e : Nat
  y : Nat
  counts : Bool
  own : Bool := false              -- of a port in SCOPE of an entry routing (R184)
  idle : Bool := false             -- an idle route, which may cross an OPAQUE cell (R42)
  deriving DecidableEq, Repr

/-- The route's order of R48: fewer moves, then fewer flips, then the lower number. -/
def better (a b : Draft) : Bool :=
  decide (a.moved < b.moved) || (decide (a.moved = b.moved) &&
    (decide (a.flips < b.flips) || (decide (a.flips = b.flips) && decide (a.val.toNat < b.val.toNat))))

/-- Cells that paths may not use, and cells that are held at another state than the one they have: a connection that passes such a cell
takes it to that state, and an idle route leaves it as it is (R184). -/
structure Limits where
  bad  : CellMap
  pin  : CellMap
  idle : Bool
  deriving DecidableEq, Repr

/-- A path on input line x of stage s leaves by output bit o: the cell takes the state this asks, if it may. -/
def lay (p : Part) (m : Limits) (base : CellMap) (a : Draft) (s x o : Nat) : Option Draft :=
  let c := cellAt p s x
  let cross := decide (x % 2 ≠ o)
  if m.bad.getLsbD c || (m.pin.getLsbD c && !a.known.getLsbD c && (cross == base.getLsbD c) != m.idle) then none
  else
    let dev := a.dev || (cross != base.getLsbD c)
    if a.known.getLsbD c then (if a.val.getLsbD c = cross then some { a with dev := dev } else none)
    else some { a with known := setBit a.known c true, val := setBit a.val c cross, dev := dev,
                       flips := a.flips + flag (cross != base.getLsbD c) }

/-- Every way to lay a path over `k` stages from input line x of stage s to output line y of stage e, in a subnetwork whose middle
stage is m - 1: the output bit is free before it and is the target's bit from it on. The state a cell has comes first. -/
def layAll (p : Part) (m : Limits) (base : CellMap) (e y : Nat) : Nat → Nat → Nat → Draft → List Draft
  | 0, _, _, a => [a]
  | k + 1, s, x, a =>
    let o := through p base s x % 2
    let outs := if s + 1 < p.m then [o, 1 - o] else [y / 2 ^ (e - s) % 2]
    outs.flatMap fun o =>
      match lay p m base a s x o with
      | none => []
      | some a => layAll p m base e y k (s + 1) (wire p s (2 * (x / 2) + o)) a

/-- Every way to lay a demand's path; through the relief stage by either of the two Beneš lines that its cell takes (R32). -/
def layDemand (p : Part) (bad ownBad pin base : CellMap) (d : Demand) (a : Draft) : List Draft :=
  let a := { a with dev := false }
  let m : Limits := ⟨if d.idle then 0 else if d.own then bad ||| ownBad else bad, pin, d.idle⟩
  let whole :=
    if d.e + 1 = p.stages then
      let z := (d.y + p.ports - 1) % p.ports
      [z, if z % 2 = 0 then z + 1 else z - 1].flatMap fun x =>
        (layAll p m base (d.e - 1) ((x + 1) % p.ports) (d.e - d.s) d.s d.x a).flatMap fun b =>
          (lay p m base b d.e x (z % 2)).toList
    else layAll p m base d.e d.y (d.e + 1 - d.s) d.s d.x a
  whole.map fun b => { b with moved := b.moved + flag (d.counts && b.dev) }

/-- The best route that meets every demand, among those no worse than the best so far. A draft that is already no better than the
best so far cannot lead to a better one, since moves and flips only grow and a route of equal flips flips nothing more. -/
def search (p : Part) (bad ownBad pin base : CellMap) : List Demand → Draft → Option Draft → Option Draft
  | [], a, best =>
    match best with
    | none => some a
    | some b => if better a b then some a else some b
  | d :: ds, a, best =>
    (layDemand p bad ownBad pin base d a).foldl (fun best b =>
      match best with
      | none => search p bad ownBad pin base ds b none
      | some c => if better b c then search p bad ownBad pin base ds b (some c) else some c) best

/-! ### The request (R45 to R50) -/

/-- What the engine routes: the part, the states it starts from, the connections before and after, the cells that conditions and
entry routing fix with the states they are fixed at, the cells that no connection and no connection in SCOPE may use, the domains,
SCOPE of an entry routing, and ingress ports treated as changed though unchanged (R42, R53). -/
structure RouteIn where
  part   : Part
  base   : CellMap
  before : ConnMap
  after  : ConnMap
  fixed  : CellMap
  fixVal : CellMap
  bad    : CellMap
  ownBad : CellMap := 0
  dom    : Domains
  scope  : BitVec 16 := 0
  forced : PortMap := 0
  deriving DecidableEq, Repr

/-- A connection is unchanged (R46). -/
def RouteIn.same (r : RouteIn) (e : Nat × Nat) : Bool := r.before.contains e && !r.forced.getLsbD e.1

/-- The unchanged connections. One whose applied path no longer ends at its egress port, because a reroute after a cell stuck was
rejected, counts among them as R46 words it, so that the phases hold the cells of the path that its light takes (DESIGN CHOICE, log entry
59). -/
def RouteIn.kept (r : RouteIn) : ConnMap := r.after.filter r.same

/-- The connections to be routed anew. -/
def RouteIn.fresh (r : RouteIn) : ConnMap := r.after.filter fun e => !r.same e

/-- The connections present only before. -/
def RouteIn.gone (r : RouteIn) : ConnMap := r.before.filter fun e => !(r.after.any fun a => a.1 == e.1)

/-- The domain of an ingress port is protected. -/
def protPort (m : Domains) (n : Nat) : Bool := m.prot.getLsbD (sget 0 m.ing n)

/-- The unchanged connections of protected domains. -/
def RouteIn.guarded (r : RouteIn) : ConnMap := r.kept.filter fun e => protPort r.dom e.1

/-- The ingress port of a connection lies in SCOPE. -/
def RouteIn.own (r : RouteIn) (n : Nat) : Bool := r.scope.getLsbD (sget 0 r.dom.ing n)

/-- A demand from ingress port to egress port. -/
def portDemand (r : RouteIn) (counts : Bool) (e : Nat × Nat) : Demand := ⟨0, e.1, r.part.stages - 1, e.2, counts, r.own e.1, false⟩

/-- The demands of phase 3: the connections routed anew, and the unchanged ones that may be moved. -/
def RouteIn.wholeDemands (r : RouteIn) : List Demand :=
  r.fresh.map (portDemand r false) ++ (r.kept.filter fun e => !protPort r.dom e.1).map (portDemand r true)

/-- Fixed cells whose state is not the one they have: a fixed cell that no connection uses keeps the state it has (R184). -/
def RouteIn.pin (r : RouteIn) : CellMap := r.fixed &&& (r.fixVal ^^^ r.base)

/-- Connections that cannot keep their paths through the cells of a mask: a cell is fixed at another state, or not to be used in
SCOPE (R184). -/
def RouteIn.clash (r : RouteIn) (m : ConnMap) (mask : CellMap) : Bool :=
  decide (cellsOf r.part r.base m &&& mask &&& r.pin ≠ 0) ||
    decide (cellsOf r.part r.base (m.filter fun e => r.own e.1) &&& mask &&& r.ownBad ≠ 0)

/-- The search of this request. -/
def RouteIn.find (r : RouteIn) (ds : List Demand) (known : CellMap) : Option Draft :=
  search r.part r.bad r.ownBad r.pin r.base ds { known := (r.fixed &&& ~~~r.pin) ||| known, val := r.base } none

/-- Phase 1 of R48: every cell that carries an unchanged connection is fixed. -/
def phase1 (r : RouteIn) : Option Draft :=
  if r.clash r.kept (BitVec.allOnes 2048) then none
  else r.find (r.fresh.map (portDemand r false)) (cellsOf r.part r.base r.kept)

/-- The block of lines, and so the level-k subnetwork, that a path crosses: from its input line at stage k. -/
def subnetOf (p : Part) (k : Nat) (lines : List Nat) : Nat := nth 0 lines k / 2 ^ (p.m - k)

/-- The anchor paths of the changed connections (R48). -/
def RouteIn.anchors (r : RouteIn) : List (List Nat) :=
  (r.fresh.flatMap fun e => [pathLines r.part r.base e.1, pathLines r.part r.base (pathStart r.part r.base e.2)]) ++
    r.gone.map fun e => pathLines r.part r.base e.1

/-- The deepest level whose subnetwork every anchor path crosses. -/
def enclosing (r : RouteIn) : Nat :=
  match r.anchors with
  | [] => 0
  | a :: t =>
    ((List.range (r.part.m - 1)).filter fun k => t.all fun b => subnetOf r.part k b == subnetOf r.part k a).getLastD 0

/-- The cells of the level-k subnetwork with number b. -/
def subnetCells (p : Part) (k b : Nat) : CellMap :=
  let size := p.rows / 2 ^ k
  (List.range (2 * p.m - 1 - 2 * k)).foldl (fun a i =>
    (List.range size).foldl (fun a j => setBit a ((k + i) * p.rows + b * size + j) true) a) 0

/-- The cells outside the level-k subnetwork that a changed connection's anchor paths pass. -/
def outerCells (r : RouteIn) (k : Nat) (c : Nat × Nat) : CellMap :=
  let p := r.part
  mapOf 2048 ((pathCells p r.base c.1).take k ++ (pathCells p r.base (pathStart p r.base c.2)).drop (2 * p.m - 1 - k))

/-- A changed connection cannot enter and leave the level-k subnetwork by its anchors. -/
def RouteIn.barred (r : RouteIn) (k : Nat) (c : Nat × Nat) : Bool :=
  let out := outerCells r k c
  decide (out &&& (r.bad ||| r.pin ||| (if r.own c.1 then r.ownBad else 0)) ≠ 0)

/-- Phase 2 of R48 inside the level-k subnetwork that the anchors cross. An idle route whose exit line the egress anchor of a changed
connection takes cannot keep that line, and R48 does not say where it goes: it puts no demand on the search, and its light takes what path
the cells leave it (DESIGN CHOICE, log entry 120). -/
def phase2At (r : RouteIn) (k : Nat) : Option Draft :=
  let p := r.part
  let e := 2 * p.m - 2 - k
  let b := subnetOf p k (r.anchors.headD [])
  let inside := fun n => subnetOf p k (pathLines p r.base n) == b
  let exitOf := fun n => let l := pathLines p r.base n; through p r.base e (nth 0 l e)
  let entryOf := fun n => nth 0 (pathLines p r.base n) k
  let fresh := r.fresh.map fun c => (⟨k, entryOf c.1, e, exitOf (pathStart p r.base c.2), false, r.own c.1, false⟩ : Demand)
  let free := r.kept.filter fun c => !protPort r.dom c.1 && inside c.1
  let idle := (List.range p.ports).filter fun n => inside n && !(r.after.any fun c => c.1 == n) && !(r.gone.any fun c => c.1 == n) &&
    !(fresh.any fun d => d.y == exitOf n)
  let demands := fresh ++ (free.map fun c => (⟨k, entryOf c.1, e, exitOf c.1, true, r.own c.1, false⟩ : Demand)) ++
    (idle.map fun n => (⟨k, entryOf n, e, exitOf n, false, false, true⟩ : Demand))
  if r.fresh.any (r.barred k) || r.clash r.kept (~~~(subnetCells p k b)) || r.clash r.guarded (BitVec.allOnes 2048) then none
  else r.find demands (~~~(subnetCells p k b) ||| cellsOf p r.base r.guarded)

/-- Phase 2 of R48: from the enclosing subnetwork upwards, one level at a time. -/
def phase2From (r : RouteIn) : Nat → Option Draft
  | 0 => phase2At r 0
  | k + 1 =>
    match phase2At r (k + 1) with
    | some a => some a
    | none => phase2From r k

/-- Phase 3 of R48: the whole fabric, relief cells included, with the protected connections' cells fixed. With the relief cells free no
line out of N is an idle route's own, so the idle routes put no demand on this search and may leave by any line (DESIGN CHOICE, log entry
21). -/
def phase3 (r : RouteIn) : Option Draft :=
  if r.clash r.guarded (BitVec.allOnes 2048) then none
  else r.find r.wholeDemands (cellsOf r.part r.base r.guarded)

/-- The three phases in turn: the phase that first finds a route, and its best. -/
def phases (r : RouteIn) : Option (Nat × Draft) :=
  match phase1 r with
  | some a => some (1, a)
  | none =>
    match phase2From r (enclosing r) with
    | some a => some (2, a)
    | none =>
      match phase3 r with
      | some a => some (3, a)
      | none => none

/-- A connection joins ports of different domains (R22). -/
def crossDomain (m : Domains) (c : ConnMap) : Bool := c.any fun e => sget 0 m.ing e.1 != sget 0 m.egr e.2

/-- A port appears in more than one connection (R41). -/
def duplicate (c : ConnMap) : Bool := !decide ((c.map (·.2)).Nodup && (c.map (·.1)).Nodup)

/-- The unchanged connections whose path or cell states differ after the change (R46). -/
def movedConns (r : RouteIn) (v : CellMap) : ConnMap :=
  r.kept.filter fun e => (pathCells r.part r.base e.1).any fun c => v.getLsbD c != r.base.getLsbD c

/-- The disturbance report of a route (R50). -/
def reportOf (r : RouteIn) (phase : Nat) (v : CellMap) : Disturb :=
  let mv := movedConns r v
  let d := fun e : Nat × Nat => sget 0 r.dom.ing e.1
  { outcome := if mv.isEmpty then 0 else 1
    flips := (ones r.part.cells (v ^^^ r.base)).length
    moved := mv.length
    domains := mapOf 16 (mv.map d)
    byDomain := (List.range 16).map fun k => (mv.filter fun e => d e == k).length
    movedMap := mapOf 256 (mv.map (·.1))
    phase := phase }

/-! ### What blocked a rejected request (R50) -/

/-- The cell that turns a path away at stage s: one that it may not use, or one held before the search at another state than the path
asks of it. -/
def turnsAway (p : Part) (m : Limits) (base : CellMap) (a : Draft) (s x o : Nat) : List Nat :=
  if (lay p m base a s x o).isNone then [cellAt p s x] else []

/-- The cells that turn away the paths of `layAll`. -/
def turnedAll (p : Part) (m : Limits) (base : CellMap) (e y : Nat) : Nat → Nat → Nat → Draft → List Nat
  | 0, _, _, _ => []
  | k + 1, s, x, a =>
    let outs := if s + 1 < p.m then [0, 1] else [y / 2 ^ (e - s) % 2]
    outs.flatMap fun o =>
      match lay p m base a s x o with
      | none => turnsAway p m base a s x o
      | some a => turnedAll p m base e y k (s + 1) (wire p s (2 * (x / 2) + o)) a

/-- The cells that turn away the paths which a demand for a whole path could take if it were the only one. -/
def turnedDemand (p : Part) (bad ownBad pin base : CellMap) (d : Demand) (a : Draft) : List Nat :=
  let m : Limits := ⟨if d.own then bad ||| ownBad else bad, pin, d.idle⟩
  let z := (d.y + p.ports - 1) % p.ports
  [z, if z % 2 = 0 then z + 1 else z - 1].flatMap fun x =>
    turnedAll p m base (d.e - 1) ((x + 1) % p.ports) (d.e - d.s) d.s d.x a ++
      (layAll p m base (d.e - 1) ((x + 1) % p.ports) (d.e - d.s) d.s d.x a).flatMap fun b =>
        turnsAway p m base b d.e x (z % 2)

/-- The cells that blocked phase 3, the last one tried: each that is held, by its condition, by R184 or for a protected connection, and
turns a path of some demand away; where the guarded connections' own cells are wanted at other states, those (DEDUCED, log entry 13). -/
def RouteIn.blockers (r : RouteIn) : List Nat :=
  let p := r.part
  let held := r.fixed &&& ~~~r.pin ||| cellsOf p r.base r.guarded
  let clashes := cellsOf p r.base r.guarded &&& r.pin |||
    cellsOf p r.base (r.guarded.filter fun e => r.own e.1) &&& r.ownBad
  if clashes ≠ 0 then ones p.cells clashes
  else r.wholeDemands.flatMap fun d => turnedDemand p r.bad r.ownBad r.pin r.base d { known := held, val := r.base }

/-- A rejection's report (R49). -/
def rejectOf (code : Nat) (blocker : W32) : Disturb :=
  { outcome := code, byDomain := List.replicate 16 0, blocker := blocker }

/-- BLOCKER of a request that no phase routes: the lowest-numbered cell that blocked the last phase (R50); a free one where no single
cell did (log entry 13). -/
def RouteIn.blocker (r : RouteIn) (rank : Nat) : W32 :=
  BitVec.ofNat 32 (r.blockers.min?.getD (Config.blocker rank % r.part.cells))

/-- Connections through OPAQUE cells count as changed (R42). -/
def RouteIn.strict (r : RouteIn) : RouteIn :=
  { r with forced := r.forced ||| mapOf 256 ((r.before.filter fun e =>
      (pathCells r.part r.base e.1).any fun c => r.bad.getLsbD c).map (·.1)) }

/-- The engine's answer to a request: the report, and the cell states after it (R48 to R50). `rank` is the request's number in the
engine's life, which the free value of BLOCKER takes; `free` is the request with every protected connection free to move. -/
def routeEngine (rank : Nat) (r free : RouteIn) : Disturb × CellMap :=
  if crossDomain r.dom r.after then (rejectOf 3 0xFFFFFFFF, r.base)
  else if duplicate r.after then (rejectOf 5 0xFFFFFFFF, r.base)
  else
    let r := r.strict
    match phases r with
    | some (ph, a) => (reportOf r ph a.val, a.val)
    | none =>
      (rejectOf (if (phases free.strict).isSome then 2 else 4) (r.blocker rank), r.base)

/-- A rejection. -/
abbrev Disturb.rejected (d : Disturb) : Bool := decide (2 ≤ d.outcome)

/-- The disturbance report's 80 bytes (*Table — Disturbance report*). -/
def disturbBytes (d : Disturb) : List Byte :=
  le 2 d.outcome ++ le 2 d.flips ++ le 2 d.moved ++ le 2 d.domains.toNat ++
    ((List.range 16).flatMap fun k => le 2 (nth 0 d.byDomain k)) ++ le 32 d.movedMap.toNat ++ le 4 d.blocker.toNat ++
    le 2 d.phase ++ zeros 2

end Sys2Proof.Machine
end

