-- ==== Sys2Proof/Machine/Reconf.lean ====
section
/-! DEFINITION. Reconfigurations (R125 to R150): arming against the applied states, spacing, the sequence's writes, and the report;
and the mirror messages that arming and reporting send (R241, R242, R245). -/

namespace Sys2Proof.Machine

/-! ### Mirroring (R241, R242) -/

/-- Bytes that the mirror store spends on a message: its slots of 16 bytes. -/
def cldSize : CldMsg → Nat
  | .heartbeat _ _ => 32
  | .mirror _ j i | .resync _ j i => 16 + min 4080 (itemLen i - 4080 * j)
  | .follow _ f => if f.config = 0xFFFFFFFF then 16 + 544 else 16 + 32
  | .retransmit _ => 16

/-- The mirror sequence of a message that the store keeps: mirror and follow messages alone. -/
def storeSeq : CldMsg → Option W32
  | .mirror q _ _ | .follow q _ => some q
  | _ => none

/-- The newest messages that fit in the store of 1 MiB. -/
def trimStore : Nat → List CldMsg → List CldMsg
  | _, [] => []
  | room, m :: t => if cldSize m ≤ room then m :: trimStore (room - cldSize m) t else []

/-- A Cladal lane that can send: it is up, and the transmitters' reference clock runs (R376, R415). -/
def cldCanSend (s : State) : Bool := s.pwr.refclk && (s.cld.lane0.up || s.cld.lane1.up)

/-- A message on a lane. -/
def emitCld (lane : Nat) (m : CldMsg) (s : State) : State := emit (.cldTx lane m (cldBytes s.part m)) s

/-- A message on the lane that has the next free slot (R241); which of two that is the spec does not say (log entry 127). -/
def sendOn (m : CldMsg) (s : State) : State :=
  if s.cld.lane0.up && s.cld.lane1.up then let (x, s) := draw s; emitCld (x % 2) m s
  else emitCld (flag s.cld.lane1.up) m s

/-- A mirror, follow or resync message goes out with the next sequence; the store keeps the first two (R241). -/
def sendCld (mk : W32 → CldMsg) (s : State) : State :=
  if s.cld.pairMis then s else
  let q := s.cld.seqTx + 1
  let kept := if (storeSeq (mk q)).isSome then trimStore 0x100000 (mk q :: s.pair.store) else s.pair.store
  let s := { s with cld := { s.cld with seqTx := q }, pair := { s.pair with store := kept } }
  if cldCanSend s then sendOn (mk q) s else s

/-- An item goes out as the messages that it takes, with consecutive sequences (R239). -/
def sendItem (mk : W32 → Nat → CldMsg) (i : Item) (s : State) : State :=
  (List.range (itemMsgs i)).foldl (fun s j => sendCld (mk · j) s) s

/-- A change that the Active unit mirrors (R242), sent by MIRROR_SEND. -/
def mirror (i : Item) (s : State) : State :=
  if s.sys.role = .active && !s.cld.pairMis then { s with pair := { s.pair with outbox := s.pair.outbox ++ [i] } } else s

/-! ### The states an arming starts from (R126, R185) -/

/-- A reconfiguration armed whose writes at T_dark have not been made. -/
def Reconf.waiting (r : Reconf) : Bool := decide (r.phase = .armed ∨ r.phase = .closed)

/-- The cell states that count as applied: the target of the last reconfiguration armed, else the applied states. -/
def effCells (f : Fab) : CellMap := ((f.recon.filter Reconf.waiting).getLast?.map (·.cells)).getD f.cells

/-- The connections that count as applied. -/
def effConns (f : Fab) : ConnMap := ((f.recon.filter Reconf.waiting).getLast?.map (·.conns)).getD f.conns

/-- Egress valves open at an instant before which the armed reconfigurations given have run (R126). -/
def effOpen (live : Bool) (op : PortMap) (l : List Reconf) : PortMap :=
  l.foldl (fun m r =>
    let m := if r.phase = .armed then m &&& ~~~r.closure else m
    if live && decide (r.phase = .armed ∨ r.phase = .closed ∨ r.phase = .dark) then m ||| r.opening else m) op

/-- Ports of a map's connections: ingress, egress. -/
def ingPorts (m : ConnMap) : PortMap := mapOf 256 (m.map (·.1))

/-- The egress ports of a map. -/
def egrPorts (m : ConnMap) : PortMap := mapOf 256 (m.map (·.2))

/-- The affected connections between two states (R126, R46): before and after; `forced` ones count though unchanged (R53). -/
def affectedOf (p : Part) (b : CellMap) (bc : ConnMap) (a : CellMap) (ac : ConnMap) (forced : PortMap) : ConnMap × ConnMap :=
  let same := fun e : Nat × Nat => bc.contains e && ac.contains e && !forced.getLsbD e.1 &&
    decide (pathCells p b e.1 = pathCells p a e.1) && !((pathCells p b e.1).any fun c => a.getLsbD c != b.getLsbD c)
  (bc.filter fun e => !same e, ac.filter fun e => !same e)

/-- A connection of a target that does not pass: its path ends elsewhere or crosses an OPAQUE cell (R42, R53). -/
def darkConn (p : Part) (f : Fab) (v : CellMap) (e : Nat × Nat) : Bool :=
  decide (pathEnd p v e.1 ≠ e.2) || (pathCells p v e.1).any fun c => condAt f c == .opaqueCell

/-- T_dark and T_open of a T_close (*Table — Reconfiguration sequence*). -/
abbrev tDarkOf (t : Time) : Time := t + ns 120

/-- T_open from T_close and the dark gap (R129). -/
abbrev tOpenOf (t : Time) (gap : Nat) : Time := t + ns 120 + ns gap

/-- The instant at which a reconfiguration frees the sequencer: T_open + 120 ns (R146). -/
def Reconf.freeAt (r : Reconf) : Time := tOpenOf r.tClose r.gap + ns 120

/-- Earliest T_close behind a list of reconfigurations (R146), and with throttling 100 µs behind the last T_close (R147). -/
def earliestClose (s : State) (l : List Reconf) (exempt : Bool) : Time :=
  let l := l.filter fun r => !r.noWrites && decide (r.phase ≠ .abandoned)
  let free := l.foldl (fun t r => max t r.freeAt) s.fab.lastFree
  if s.sys.throttle && !exempt then
    match (l.getLast?.map (·.tClose)).or s.fab.lastClose with
    | some t => max free (t + ns 100000)
    | none => free
  else free

/-- What is to be armed. -/
structure Target where
  source  : Nat
  origin  : Origin
  config  : W32 := 0xFFFFFFFF
  entries : List Applied := []
  cells   : CellMap
  conns   : ConnMap
  wanted  : Time
  report  : Disturb := {}
  forced  : PortMap := 0
  hidden  : PortMap := 0           -- egress ports that stay blocking (R54)
  stored  : Option Nat := none     -- the stored configuration whose record this is, where no entry applies it
  deriving DecidableEq, Repr

/-- A reconfiguration formed against given states and open valves (R126). -/
def formed (s : State) (bCells : CellMap) (bConns : ConnMap) (op : PortMap) (t : Target) (seq : W32) (tClose : Time) : Reconf :=
  let p := s.part
  let (ab, aa) := affectedOf p bCells bConns t.cells t.conns t.forced
  let flips := (bCells ^^^ t.cells) &&& ~~~(condFixed s.fab)
  let noWrites := decide (flips = 0) && ab.isEmpty && aa.isEmpty
  let shown := aa.filter fun e => !darkConn p s.fab t.cells e && !t.hidden.getLsbD e.2
  let dom := fun e : Nat × Nat => sget 0 s.fab.dom.ing e.1
  let scope := if t.config = 0xFFFFFFFF then 0 else (sget {} s.fab.configs t.config.toNat : CfgRec).scope
  { seq := seq, source := t.source, origin := t.origin, config := t.config, entries := t.entries, cells := t.cells, conns := t.conns,
    wanted := t.wanted, tClose := if noWrites then t.wanted else tClose, gap := s.jets.gap.toNat,
    phase := if noWrites then .judged else .armed, noWrites := noWrites,
    affected := ingPorts ab ||| ingPorts aa,
    closure := (egrPorts ab) &&& op,
    opening := egrPorts shown,
    eqOn := ingPorts t.conns &&& ~~~(ingPorts bConns),
    eqOff := ingPorts bConns &&& ~~~(ingPorts t.conns),
    flips := flips,
    domains := mapOf 16 (((ab ++ aa).map dom) ++ t.entries.map (·.domain)) ||| scope, stored := t.stored,
    report := t.report, forced := t.forced }

/-- The blackout that a reconfiguration hands to the Weir (R128). -/
def Reconf.blackout (r : Reconf) : Blackout := ⟨r.tClose, r.freeAt, r.affected⟩

/-- The follow message of a reconfiguration (R245). -/
def followOf (r : Reconf) : Follow :=
  { reconf := r.seq, source := r.source, domains := r.domains, config := r.config, tClose := r.tClose,
    map := if r.config = 0xFFFFFFFF then r.conns else [] }

/-- A planned exchange is cancelled by an arming in its interval (R303). -/
def cancelExchange (r : Reconf) (s : State) : State :=
  match s.pair.exch with
  | some x =>
    if x.tX ≤ r.tClose + ns 750 ∧ r.tClose < x.tX + ns 3000 then
      let s := { s with pair := { s.pair with exch := none } }
      match deferredCmd s 0x0803 with
      | some c => finish c 0x0822 (le 1 4 ++ zeros 3) s
      | none => s
    else s
  | none => s

/-- The follow that an Active unit sends at every arming but a reroute's (R245). -/
def sendFollow (r : Reconf) (s : State) : State :=
  if s.sys.role = .active && decide (r.source ≠ 3) then ev 290 (sendCld (fun q => .follow q (followOf r)) s) else s

/-- What an arming that makes writes tells others: the re-check of prepared entries, and the blackout (R128, R199). -/
def announce (r : Reconf) (s : State) : State :=
  let s := if s.slc.prep.isEmpty then s else { s with slc := { s.slc with recheckAt := some s.tb.now } }
  let s := { s with weir := { s.weir with blackouts := s.weir.blackouts ++ [r.blackout] } }
  let s := (List.range r.grants).foldl (fun s _ => ev 284 s) s
  cancelExchange r s

/-- GRANTS_IN_GAP of a reconfiguration (R147). -/
def Reconf.counted (s : State) (r : Reconf) : Reconf :=
  { r with grants := if r.noWrites then 0 else grantsIn s.weir r.affected r.tClose r.freeAt }

/-- A reconfiguration takes its place behind the others, and is followed; one that makes no writes has no blackout (R126). -/
def placeReconf (r : Reconf) (s : State) : State :=
  let r := r.counted s
  let s := ev 272 { s with fab := { s.fab with recon := s.fab.recon ++ [r], seq := s.fab.seq + 1 } }
  let s := if roleLit s.sys.role && decide (r.source < 3) then { s with pair := { s.pair with own := s.pair.own ||| r.domains } } else s
  let s := sendFollow r s
  if r.noWrites then s else announce r s

/-- A target armed behind every reconfiguration already armed, for no instant before `lo` (R126, R146, R147). -/
def arm (lo : Time) (t : Target) (s : State) : State :=
  let op := effOpen (valvesLive s.sys) s.fab.openPorts s.fab.recon
  let tc := max (max t.wanted lo) (earliestClose s s.fab.recon false)
  placeReconf (formed s (effCells s.fab) (effConns s.fab) op t s.fab.seq tc) s

/-! ### Sequencer writes (R129 to R132, R148) -/

/-- The Jet that holds a loop has failed and no spare has taken it over: its sequencer's writes stay unmade (R148). -/
def unmadeAt (s : State) (l : Nat) : Bool :=
  let j := jetOf s (jetOfLoop s.part l)
  j.failed && j.takenBy.isNone

/-- The sequencer's write to a loop's element is not made: its Jet has failed (R148), or the output is the processor's, and the write is
ignored and answered with an error (R77, log entry 112). -/
def refusedAt (s : State) (l : Nat) (own : Bool) : Bool := unmadeAt s l || !own

/-- The flip driver of a cell refuses the sequencer's write. -/
def flipRefused (s : State) (c : Nat) : Bool := refusedAt s c (sget {} s.dac.flip c : Flip).own

/-- The ladder of an equaliser or valve refuses it. -/
def eqRefused (s : State) (n : Nat) : Bool := refusedAt s (eqLoop s.part n) (sget {} s.dac.port n : PortDac).own

/-- A sequencer write to a valve that its OWN refuses (R77). -/
def valveRefused (s : State) (n : Nat) : Bool := refusedAt s (valveLoop s.part n) (sget {} s.dac.port (256 + n) : PortDac).own

/-- An error response for each output that the processor owns. -/
def ownErrors (n : Nat) (s : State) : State := { s with out := s.out ++ List.replicate n .busError }

/-- A reconfiguration of the list changed, by its number. -/
def setReconf (seq : W32) (f : Reconf → Reconf) (s : State) : State :=
  { s with fab := { s.fab with recon := s.fab.recon.map fun r => if r.seq = seq then f r else r } }

/-- The first reconfiguration in a phase. -/
def firstIn (ph : Phase) (f : Fab) : Option Reconf := f.recon.find? fun r => decide (r.phase = ph)

/-- Valve writes of a sequence: those that are refused stay unmade and are counted. -/
def seqValves (r : Reconf) (ports : PortMap) (op : Nat → Bool) (s : State) : State :=
  forEach (ones s.part.ports ports) s fun s n =>
    if valveRefused s n then
      ownErrors (flag (!unmadeAt s (valveLoop s.part n))) (setReconf r.seq (fun r => { r with unmade := r.unmade + 1 }) s)
    else writeValve n (op n) s

/-- A valve written by its Jet's sequencer: an unmade write is nothing, a refused one an error response (R77, R148). -/
def jetValve (n : Nat) (op : Bool) (s : State) : State :=
  if valveRefused s n then ownErrors (flag (!unmadeAt s (valveLoop s.part n))) s else writeValve n op s

/-- A cell's loop as its Jet writes a change of LEVEL: the negated demodulation and STATE (R95). -/
def signFlip (c : Nat) (level : Bool) (s : State) : State :=
  if (sget {} s.dac.flip c : Flip).level = level then s
  else modLoop c (fun l => { l with desc := { l.desc with con := -l.desc.con, iAcc := -l.desc.iAcc, qAcc := -l.desc.qAcc, st := level } }) s

/-- A flip level written at T_dark (R82, R95, R330): the level, its loop's signs where the level changes, and the flip count. -/
def writeLevel (c : Nat) (level : Bool) (s : State) : State :=
  let old := (sget {} s.dac.flip c : Flip).level
  let s := signFlip c level s
  let s := { s with dac := { s.dac with flip := smod {} s.dac.flip c fun f => { f with level := level } } }
  if level && !old then { s with wear := smod {} s.wear c fun w => { w with addFlips := w.addFlips + 1 } } else s

/-- An equaliser's code written by the sequencer, and whether its port starts a connection from now on (R131). -/
def writeEq (n : Nat) (on : Bool) (s : State) : State :=
  let l := eqLoop s.part n
  let v := loopOf s l
  let q := sget {} s.cal.eq n
  let code : BitVec 14 :=
    if on then (if v.desc.setpt = 0 then q.codeMin
      else BitVec.ofInt 14 (clampI q.codeMin.toNat q.codeMax.toNat (v.desc.integ.toNat / 2 ^ 18 : Nat))) else q.codeMax
  let s := { s with dac := { s.dac with port := smod {} s.dac.port n fun d => { d with code := code } } }
  modLoop l (fun x => { x with levelled := on, desc := { x.desc with lastCode := code.zeroExtend 16 } }) s

/-- The loops on a connection: its cells, its equaliser and its valve (R142). -/
def loopsOn (p : Part) (v : CellMap) (e : Nat × Nat) : List Nat := pathCells p v e.1 ++ [eqLoop p e.1, valveLoop p e.2]

/-- The writes at T_dark (R131, R132): levels and equaliser changes; the target becomes the applied set but for levels left
unmade, and the loops on the affected connections wait for judgement, superseding an earlier wait for the cells that flip again before
they have been judged (R144). -/
def darkWrites (r : Reconf) (s : State) : State :=
  let p := s.part
  let cells := ones p.cells r.flips
  let made := cells.filter fun c => !flipRefused s c
  let s := ownErrors (cells.filter fun c => flipRefused s c && !unmadeAt s c).length s
  let s := forEach made s fun s c => writeLevel c (r.cells.getLsbD c) s
  let eqs := (ones p.ports r.eqOn).map (·, true) ++ (ones p.ports r.eqOff).map (·, false)
  let eqMade := eqs.filter fun e => !eqRefused s e.1
  let s := ownErrors (eqs.filter fun e => eqRefused s e.1 && !unmadeAt s (eqLoop p e.1)).length s
  let s := forEach eqMade s fun s e => writeEq e.1 e.2 s
  let mask := mapOf 2048 made
  let s := { s with fab := { s.fab with cells := (s.fab.cells &&& ~~~mask) ||| (r.cells &&& mask), conns := r.conns } }
  let lost := cells.length - made.length + (eqs.length - eqMade.length)
  let todo := ((r.conns.filter fun e => r.affected.getLsbD e.1).flatMap (loopsOn p r.cells)).eraseDups
  let s := { s with fab := { s.fab with recon := s.fab.recon.map fun x =>
      if x.seq = r.seq then x else { x with todo := x.todo.filter fun l => !made.contains l || x.seen.contains l } } }
  setReconf r.seq (fun x => { x with phase := .dark, unmade := x.unmade + lost, todo := todo, written := made.length }) s

/-- The settle deadline after T_open of a loop rate (*Table — Settle deadlines*). -/
def settleTime (rate : BitVec 2) : Time := if rate = 0 then ns 4000 else if rate = 1 then ns 6000 else ns 12000

/-- Egress ports whose valve an insertion keeps blocking (R338). -/
def insertBlocked (s : State) : PortMap :=
  s.fab.inserts.foldl (fun m i =>
    if i.running then
      m ||| i.closed ||| egrPorts (connsThrough s.part s.fab.cells s.fab.conns i.cell) else m) 0

/-! ### Commands of the sequence -/

/-- A tracked entry becomes FIRED at T_close (R197) and is mirrored. -/
def fireEntry (n : Nat) (s : State) : State :=
  let s := { s with slc := { s.slc with entries := smod {} s.slc.entries n fun t =>
      if t.state = .armed then { t with state := .fired } else t } }
  mirror (.entry n (some (sget {} s.slc.entries n))) s

/-- T_CLOSE (R129, R197). -/
def doClose (s : State) : State :=
  match firstIn .armed s.fab with
  | some r =>
    let s := reach r.tClose s
    let s := seqValves r r.closure (fun _ => false) s
    let s := ev 273 (setReconf r.seq (fun x => { x with phase := .closed }) s)
    forEach (r.entries.filter (·.tracked)) s fun s e => fireEntry e.entry s
  | none => s

/-- T_DARK (R131, R132). -/
def doDark (s : State) : State :=
  match firstIn .closed s.fab with
  | some r => darkWrites r (reach (tDarkOf r.tClose) s)
  | none => s

/-- LEVEL_READBACK (R149): the cells written whose driver reads back another level. Every driver is read back at one instant, so the
read-back is one check of source 164's checker, and its mismatches and an injection's are one occurrence (R309, R322). -/
def doReadback (mismatch : List Nat) (s : State) : State :=
  match firstIn .dark s.fab with
  | some r =>
    let bad := mismatch.eraseDups.filter fun c => r.flips.getLsbD c && !flipRefused s c
    let s := setReconf r.seq (fun x => { x with unmade := x.unmade + bad.length }) (reach (tDarkOf r.tClose + ns 30) s)
    if r.flips = 0 then s else if inverted s 164 || bad.isEmpty then checkNow 164 s else raise 164 s
  | none => s

/-- T_OPEN (R130, R148, R338): OPEN_CODE where mode and role let light out; an insertion keeps closed what lies through its own cell; a
follow stops being pending (R247). A connection's frames count as lost from its T_open until the T_close of the reconfiguration that takes it
off the cell. -/
def doOpen (s : State) : State :=
  match firstIn .dark s.fab with
  | some r =>
    let s := reach (tOpenOf r.tClose r.gap) s
    let live := valvesLive s.sys
    let held := insertBlocked s
    let s := seqValves r r.opening (fun n => live && !held.getLsbD n) s
    let blocked := held &&& r.opening
    let through := fun (i : Insert) => connsThrough s.part r.cells r.conns i.cell
    let mine := fun (i : Insert) => egrPorts (through i) &&& blocked
    let left := fun (i : Insert) => i.late.map fun x =>
      if x.hi.isNone && !(through i).any (·.1 == x.port) then { x with hi := some r.tClose } else x
    let late := fun (i : Insert) => left i ++ (((through i).filter fun e => blocked.getLsbD e.2).filter fun e =>
      !(left i).any fun x => x.hi.isNone && x.port == e.1).map fun e => ⟨e.1, tOpenOf r.tClose r.gap, none⟩
    let s := { s with fab := { s.fab with
        lastFree := r.freeAt, lastClose := some r.tClose, failed := s.fab.failed &&& ~~~r.opening,
        inserts := s.fab.inserts.map fun (i : Insert) =>
          if i.running then { i with closed := i.closed ||| mine i, late := late i } else i } }
    let s := { s with pair := { s.pair with follows := s.pair.follows.filter fun f => f.armed ≠ some r.seq } }
    ev 274 (setReconf r.seq (fun x => { x with phase := .opened }) s)
  | none => s

/-- SETTLE_DEADLINE (R143): loops not settled are late. -/
def doDeadline (s : State) : State :=
  match firstIn .opened s.fab with
  | some r =>
    let s := reach (tOpenOf r.tClose r.gap + settleTime s.jets.rate) s
    setReconf r.seq (fun x => { x with phase := .judged, late := x.todo }) s
  | none => s

/-- A loop after a round is settled (R142): none where it is not judged in it. -/
def settledNow (p : Part) (l : Nat) (v : Loop) : Option Bool :=
  match kindOf p l with
  | .cell => if v.valid then some (decide (v.diff.natAbs * 2048 ≥ v.desc.con.toInt.natAbs * 2047)) else none
  | .equaliser =>
    if v.levelled && v.desc.setpt ≠ 0 then (if v.valid then some (inBand v v.lastErr) else none) else some true
  | _ => if v.valid then some (!v.clamp) else none

/-- A settle time is recorded to 100 us after T_open (R143). -/
abbrev settleBound : Time := ns 100000

/-- Rounds from T_open to an instant. -/
def roundsAfter (o t rt : Time) : Nat := if t ≤ o then 0 else (quot (t - o : Nat) rt).toNat

/-- Judgement of a reconfiguration's loops after a round (R142): `clean l` when the loop used only results whose windows began at or
after T_dark + 600 ns. -/
def judge (p : Part) (loops : Sparse Loop) (clean : Nat → Bool) (t rt : Time) (r : Reconf) : Reconf :=
  if decide (r.phase = .dark ∨ r.phase = .opened ∨ r.phase = .judged) && !r.todo.isEmpty then
    let o := tOpenOf r.tClose r.gap
    let after := roundsAfter o t rt
    r.todo.foldl (fun r l =>
      let v : Loop := sget {} loops l
      if !clean l then r
      else if kindOf p l = .cell ∧ v.dark then { r with todo := r.todo.filter (· != l), unjudged := r.unjudged + 1 }
      else match settledNow p l v with
        | some true => { r with todo := r.todo.filter (· != l), seen := r.seen.filter (· != l),
                                settleMax := if t ≤ o + settleBound then max r.settleMax after else r.settleMax }
        | some false => { r with seen := if r.seen.contains l then r.seen else r.seen ++ [l] }
        | none => r) r
  else r

/-! ### Path power (R149) -/

/-- The tap power words that the path power check uses, recorded as they first arrive; `tap l` is a port element's result. -/
def recordPower (p : Part) (tap : Nat → Option Result) (r : Reconf) : Reconf :=
  if r.phase = .dark ∨ r.phase = .opened ∨ r.phase = .judged then
    let clean := fun (l : Nat) => (tap l).filter fun v => decide (tDarkOf r.tClose + ns 600 ≤ v.start)
    let note := fun (m : Sparse Nat) (n l : Nat) =>
      if m.any (·.1 == n) then m else match clean l with
        | some v => sset 0 m n (tapPower v)
        | none => m
    (r.conns.filter fun e => r.affected.getLsbD e.1).foldl (fun r e =>
      { r with ingPow := note r.ingPow e.1 (eqLoop p e.1), egrPow := note r.egrPow e.1 (valveLoop p e.2) }) r
  else r

/-- The egress power differs by more than 3 dB from the ingress power less the path's loss: ten times the logarithm of their ratio lies
beyond 3, so its tenth power beyond 1,000. -/
def powerOff (ing egr loss : Nat) : Bool :=
  let got := egr * 65536
  let want := ing * loss
  decide (1000 * want ^ 10 < got ^ 10 ∨ 1000 * got ^ 10 < want ^ 10)

/-- The affected connections of the target that fail the check; one whose ingress tap power lies below the LIGHT_MIN of its first cell is
not checked (R149). -/
def powerFails (s : State) (r : Reconf) : ConnMap :=
  r.conns.filter fun e =>
    let path := pathCells s.part r.cells e.1
    let low := (loopOf s (path.headD 0)).desc.lightMin.toNat
    let ing := sget 0 r.ingPow e.1
    r.affected.getLsbD e.1 && r.ingPow.any (·.1 == e.1) && r.egrPow.any (·.1 == e.1) && decide (low ≤ ing) &&
      powerOff ing (sget 0 r.egrPow e.1) (Config.pathLoss e.1 path)

/-! ### The report (R150) -/

/-- RESULT of a reconfiguration's report. -/
def resultOf (r : Reconf) (mismatch : Nat) : Nat :=
  if r.phase = .abandoned then 2 else if 0 < mismatch ∨ 0 < r.unmade then 3 else if r.late.isEmpty then 0 else 1

/-- The reconfiguration report's 80 bytes (*Table — Reconfiguration report*). The rounding of DEFER_NS is not stated (log entry 9); in a
reconfiguration abandoned before T_open, UNJUDGED counts every loop not settled, judged or not (log entry 141). -/
def reconfBytes (p : Part) (r : Reconf) (mismatch : Nat) (overdue : Bool) : List Byte :=
  let cut := r.phase = .abandoned
  let defer := (quot (r.tClose - r.wanted : Nat) 65536).toNat
  le 4 r.seq.toNat ++ le 1 r.source ++ le 1 (resultOf r mismatch) ++ le 2 r.domains.toNat ++ le 4 r.config.toNat ++
    timeBytes r.tClose ++ le 4 (min 0xFFFFFFFF defer) ++ le 2 r.written ++
    le 2 (if r.noWrites then 0 else (ones p.ports r.affected).length) ++ le 2 r.late.length ++
    le 2 (if cut then r.todo.length + r.unjudged else r.unjudged) ++ le 2 mismatch ++ le 2 r.unmade ++ le 2 (min 0xFFFF r.grants) ++
    le 2 (if overdue then 0xFFFF else min 0xFFFF r.settleMax) ++ le 4 (r.late.min?.getD 0xFFFFFFFF) ++
    (if r.noWrites then zeros 32 else le 32 r.affected.toNat)

end Sys2Proof.Machine
end

