-- ==== Sys2Proof/Machine/Platform.lean ====
section
/-! DEFINITION. The event router with its channels and tasks, the performance monitor and its tags (R361 to R371). -/

namespace Sys2Proof.Machine

/-! ### Performance counters (R367 to R370) -/

/-- The event of a configured counter. -/
def Pmon.event (p : Pmon) : Option Nat := if p.select.isEmpty then none else some (fld p.select 0 2)

/-- A counter in MAX mode. -/
def Pmon.isMax (p : Pmon) : Bool := bit (fld p.select 3 1) 3

/-- A counter after an increment, and whether it wrapped. -/
def Pmon.add (p : Pmon) (inc : Nat) : Pmon × Bool :=
  if p.isMax then ({ p with value := BitVec.ofNat 48 (max p.value.toNat (min (2 ^ 48 - 1) inc)) }, false)
  else
    let v := p.value.toNat + inc
    ({ p with value := BitVec.ofNat 48 v, wrap := p.wrap || decide (2 ^ 48 ≤ v) }, decide (2 ^ 48 ≤ v))

/-- An increment of an event, as each of its counters sees it; a wrap raises PMON_WRAP (source 302). The monitor stops with the reference
clock (R376). -/
def countBy (e : Nat) (inc : Pmon → Nat) (s : State) : State :=
  if s.plat.frozen || !s.pwr.refclk then s
  else
    let hit := fun p : Pmon => decide (p.event = some e)
    let wraps := (s.plat.pmon.filter fun x => hit x.2 && (x.2.add (inc x.2)).2).length
    let s := { s with plat := { s.plat with pmon := s.plat.pmon.map fun x => if hit x.2 then (x.1, (x.2.add (inc x.2)).1) else x } }
    (List.range wraps).foldl (fun s _ => ev 302 s) s

/-- An increment of an event at the counters that a filter admits. -/
abbrev countIf (e inc : Nat) (take : Pmon → Bool) (s : State) : State := countBy e (fun p => if take p then inc else 0) s

/-- An increment of an event at every counter of it. -/
abbrev count (e inc : Nat) (s : State) : State := countBy e (fun _ => inc) s

/-- A change of every counter of the monitor. -/
def eachPmon (f : Pmon → Pmon) (s : State) : State :=
  { s with plat := { s.plat with pmon := smap {} 64 s.plat.pmon fun _ p => f p } }

/-- Snapshot of all counters. -/
def pmonSnapshot (s : State) : State := eachPmon (fun p => { p with snap := p.value, snapWrap := p.wrap }) s

/-- Clear of all counters. -/
def pmonClear (s : State) : State := eachPmon (fun p => { p with value := 0, wrap := false }) s

/-- Freeze and release. -/
def pmonFreeze (b : Bool) (s : State) : State := { s with plat := { s.plat with frozen := b } }

/-- A master of the bus, by SELECT's bits, that a SELECT's MASTER and PRIV admit: only the processor is at P0 or P1 (R352, R369). -/
def someMaster (p : Pmon) : Bool :=
  let m := fld p.select 2 1
  let q := fld p.select 3 1 % 4
  (List.range 6).any fun k => (decide (m = 0) || bit m k) && (decide (q = 0) || (if k = 0 then decide (q < 3) else decide (q = 3)))

/-- Counters of what happens between commands, which the model is not told: what they count is free, but for bus filters that no transaction
can match (R369; log entry 27). -/
def unseen (p : Pmon) : Bool :=
  match p.event with
  | some e => decide (e = 0x0206) || (decide (e = 0x0201 ∨ e = 0x0202) && someMaster p)
  | none => false

/-- Those counters as a command finds them, alike where their SELECT is alike; a wrap raises PMON_WRAP. -/
def drawCounters (s : State) : State :=
  if s.plat.frozen || !s.pwr.refclk || !(s.plat.pmon.any fun x => unseen x.2) then s
  else
    let n := s.draws
    s.plat.pmon.foldl (fun s x =>
      if unseen x.2 then
        let (p, w) := x.2.add (Config.busUnseen n x.2.select)
        let s := { s with plat := { s.plat with pmon := sset {} s.plat.pmon x.1 p } }
        if w then ev 302 s else s
      else s) { s with draws := s.draws + 1 }

/-- CYCLES (R367, R368): 1 in each cycle of the 1.0 GHz clock that device time has passed through; in MAX mode the largest is 1. -/
def countCycles (s : State) : State :=
  let n := (s.tb.now - s.plat.cycleAt) / 65536
  let s := { s with plat := { s.plat with cycleAt := s.plat.cycleAt + n * 65536 } }
  if n = 0 then s else countIf 0x0200 1 (·.isMax) (countIf 0x0200 n (!·.isMax) s)

/-- What the counters have counted since the command before. -/
def tally (s : State) : State := drawCounters (countCycles s)

/-- A SELECT's filters admit a transaction (R369): its master, its level, its address, and one of the classes that are set. -/
def txnMatch (t : Txn) (p : Pmon) : Bool :=
  let m := fld p.select 2 1
  let f := fld p.select 3 1
  let c := fld p.select 4 1
  let base := fld p.select 6 5
  (decide (m = 0) || bit m t.master) && (decide (f % 4 = 0) || decide (f % 4 = t.priv)) &&
    (!bit f 2 || decide (base ≤ t.addr ∧ t.addr < base + 2 ^ fld p.select 5 1)) &&
    (decide (c = 0) || (bit c 2 && t.err) || (if t.write then bit c 1 else bit c 0))

/-- A bus event of a transaction: a SUM counter that it matches counts it, and a MAX counter sees as many as match in its cycle (R369). -/
def countTxn (e : Nat) (x : Txn) (s : State) : State :=
  let c := s.tb.now / 65536
  let now := (s.plat.txns.filter fun y => y.1 == c) ++ [(c, e, x)]
  let inc := fun p : Pmon =>
    if !txnMatch x p then 0
    else if p.isMax then (now.filter fun y => decide (y.2.1 = e) && txnMatch y.2.2 p).length else 1
  countBy e inc { s with plat := { s.plat with txns := now } }

/-- A SELECT that R368 accepts. -/
def selectOk (p : List Byte) : Bool :=
  let e := fld p 0 2
  let m := fld p 2 1
  let f := fld p 3 1
  let c := fld p 4 1
  let bus := decide (0x0201 ≤ e ∧ e ≤ 0x0203)
  let tag := decide (0x0210 ≤ e ∧ e ≤ 0x0218)
  let addr := bit f 2
  let known := decide (e < 320 ∨ (0x0200 ≤ e ∧ e ≤ 0x0208)) || tag
  known && decide (m < 64) && decide (f < 16) && decide (fld p 11 1 = 0) &&
    (bus || decide (m = 0 ∧ f % 8 = 0)) &&
    (if bus then decide (c < 8) else if tag then decide (c < 16) else decide (c = 0)) &&
    (if addr then decide (8 ≤ fld p 5 1 ∧ fld p 5 1 ≤ 40 ∧ fld p 6 5 % 2 ^ fld p 5 1 = 0)
     else decide (fld p 5 1 = 0 ∧ fld p 6 5 = 0))

/-! ### Tags (R371) -/

/-- A tag event is configured: tagging is armed. -/
def tagArmed (s : State) : Bool :=
  s.plat.pmon.any fun x => match x.2.event with
    | some e => decide (0x0210 ≤ e ∧ e ≤ 0x0218)
    | none => false

/-- A request enters stage 0. -/
def tagEnter (slot : Option Nat) (entry : Option (Bool × Nat × Nat)) (s : State) : State :=
  if tagArmed s then
    let rate := s.plat.tagRate.toNat
    let chosen := decide (rate = 0) || Config.tagDraw rate s.plat.tagDraws
    let s := { s with plat := { s.plat with tagDraws := s.plat.tagDraws + 1 } }
    if !chosen then s
    else if s.plat.tag.isSome then count 0x0217 1 s
    else { s with plat := { s.plat with tag := some { slot := slot, entry := entry, stage := 0, stamp := s.tb.now } } }
  else s

/-- The tagged request reaches stage k: the time from the stage before is counted; stage 6 is its last. -/
def tagStage (mine : TagSt → Bool) (k : Nat) (s : State) : State :=
  match s.plat.tag with
  | some t =>
    if mine t && decide (t.stage < k) then
      let d := (quot ((s.tb.now - t.stamp : Nat) : Int) 65536).toNat
      let s := if t.stage + 1 = k then count (0x0210 + t.stage) d s else s
      if k = 6 then ev 303 (count 0x0216 1 { s with plat := { s.plat with tag := none } })
      else { s with plat := { s.plat with tag := some { t with stage := k, stamp := s.tb.now } } }
    else s
  | none => s

/-- The tagged request's reconfiguration is known from its arming on. -/
def tagArm (mine : TagSt → Bool) (seq : W32) (s : State) : State :=
  let s := tagStage mine 2 s
  match s.plat.tag with
  | some t => if mine t then { s with plat := { s.plat with tag := some { t with seq := some seq } } } else s
  | none => s

/-- The tagged request ends without completing. -/
def tagDrop (mine : TagSt → Bool) (s : State) : State :=
  match s.plat.tag with
  | some t => if mine t then { s with plat := { s.plat with tag := none } } else s
  | none => s

/-- A request that ends before it is armed is followed no further. -/
abbrev tagEnd (mine : TagSt → Bool) (s : State) : State := tagDrop mine s

/-- The tag of a slot's command, of an entry, of a reconfiguration. -/
def tagOfSlot (k : Nat) (t : TagSt) : Bool := decide (t.slot = some k) && t.seq.isNone

/-- The tag follows this entry (R371). -/
def tagOfEntry (tracked : Bool) (d e : Nat) (t : TagSt) : Bool := decide (t.entry = some (tracked, d, e)) && t.seq.isNone

/-- The tag follows the reconfiguration of this number (R371). -/
def tagOfSeq (q : W32) (t : TagSt) : Bool := decide (t.seq = some q)

/-- The tag follows this entry in the reconfiguration that it was armed in (R371). -/
def tagOfArmed (q : W32) (a : Applied) (t : TagSt) : Bool :=
  tagOfSeq q t && decide (t.entry = some (a.tracked, a.domain, a.entry))

/-- The tag of a request's origin. -/
def tagOfOrigin (o : Origin) (t : TagSt) : Bool :=
  match o with
  | .connect k _ _ | .apply k _ _ => tagOfSlot k t
  | _ => false

/-! ### The router (R361 to R366) -/

/-- A channel's enable, source and tasks (*Table — EVR_CHAN[ch]*): 0x1FF is no task. -/
def chanTasks (w : List W32) (src : Nat) : List Nat :=
  let w0 := nth 0 w 0
  if w0.getLsbD 31 && decide ((w0.extractLsb' 0 9).toNat = src) then
    ([1, 2, 3, 4].flatMap fun i => let v := nth 0x01FF01FF w i
      [(v.extractLsb' 0 9).toNat, (v.extractLsb' 16 9).toNat]).filter (· < 448)
  else []

/-- The tasks that an event's channels activate, with repeats. -/
def tasksOf (p : Plat) (src : Nat) : List Nat := p.chan.flatMap fun c => chanTasks c.2 src

/-- The refractory check of one event (R366): accepted and counted, or dropped with its EVR_ECHO bit set. -/
def acceptEv (src : Nat) (t : Time) (s : State) : State × Bool :=
  let last := sget 0 s.plat.lastEv src
  if 0 < last ∧ last ≤ t + 1 ∧ t + 1 < last + ns 16 then
    (count 0x0208 1 { s with plat := { s.plat with echo := setBit s.plat.echo src true } }, false)
  else (count src 1 { s with plat := { s.plat with lastEv := sset 0 s.plat.lastEv src (t + 1) } }, true)

/-! ### Capture (R306, R374) -/

/-- The tag code of a channel's latest result at the well that serves a loop. -/
def tapTag (s : State) (l ch : Nat) : Nat :=
  let j := jetOfLoop s.part l
  tagCode (sget {} (wellOf s ((jetOf s j).wellSel.getD j)).result ch : Result).tag

/-- A capture record's 16 bytes (*Table — Capture record*). -/
def captureBytes (s : State) (l : Nat) : List Byte :=
  let v := loopOf s l
  let k := slotOfLoop s.part l
  let tags := if k < 32 then tapTag s l (2 * k) + tapTag s l (2 * k + 1) * 4 else tapTag s l (k + 32)
  le 2 l ++ le 2 v.desc.lastCode.toNat ++ le 4 v.desc.integ.toNat ++ le 4 (if v.holding then 0 else unsgn 32 v.lastErr) ++
    le 1 ((loopStatWord v).toNat % 256) ++ le 1 tags ++ le 2 (s.jets.round.toNat % 65536)

/-- One record taken; with the buffer full a capture without WRAP ends. -/
def captureOne (s : State) (l : Nat) : State :=
  let c := s.plat.capture
  let room := c.sizeMib * 65536
  if !c.running then s
  else
    let v := { c with records := c.records + 1, wrapped := c.wrapped || decide (room ≤ c.records),
                      mem := mwrite c.mem (16 * (c.records % room)) (captureBytes s l) }
    let s := { s with plat := { s.plat with capture := v } }
    if room ≤ v.records ∧ !v.wrapMode then stopCapture s else s

/-- A round of a running capture: every DECIM-th is taken, in loop order. -/
def captureRound (s : State) : State :=
  let c := s.plat.capture
  if !c.running then s
  else if 0 < c.skip then { s with plat := { s.plat with capture := { c with skip := c.skip - 1 } } }
  else
    let s := { s with plat := { s.plat with capture := { c with skip := c.decim - 1, rounds := c.rounds + 1 } } }
    ((List.range c.count).map (c.first + ·)).foldl captureOne s

/-- A Jet's Fountain test generator started where it is armed. -/
def startArmed (j : Nat) (s : State) : State :=
  modJet j (fun x => { x with test := { x.test with on := x.test.on || x.test.armed, armed := false } }) s

/-- A task's action (R363). -/
def doTask (n : Nat) (s : State) : State :=
  if n = 2 then pmonSnapshot s
  else if n = 3 then pmonClear s
  else if n = 0 then pmonFreeze true s
  else if n = 1 then pmonFreeze false s
  else if 28 ≤ n ∧ n ≤ 199 then raise (n - 8) s
  else if n = 264 then
    (if s.plat.capture.waiting then
      captureRound { s with plat := { s.plat with capture := { s.plat.capture with running := true, waiting := false } } } else s)
  else if n = 265 then (if s.plat.capture.running || s.plat.capture.waiting then stopCapture s else s)
  else if 200 ≤ n ∧ n ≤ 263 then { s with plat := { s.plat with irq := setBit s.plat.irq (n - 200) true } }
  else if 268 ≤ n ∧ n < 268 + s.part.jets + s.part.spares then startArmed (n - 268) s
  else if 336 ≤ n ∧ n ≤ 351 then { s with plat := { s.plat with dmaRun := setBit s.plat.dmaRun (n - 336) true,
                                                                  dmaErr := setBit s.plat.dmaErr (n - 336) false } }
  else s

/-- Tasks activated together act in this order: snapshot, clear, then freeze or, without a freeze, release (R370), then the others. -/
def taskOrder (l : List Nat) : List Nat :=
  (if l.contains 2 then [2] else []) ++ (if l.contains 3 then [3] else []) ++
    (if l.contains 0 then [0] else if l.contains 1 then [1] else []) ++ l.filter (4 ≤ ·)

/-- Every event passes R366's check at the time at which it was raised, and the accepted ones go to their tasks: the activations, each
with the router cycle in which it falls, `lag` cycles after the event's own. -/
def activations (lag : Nat) (s : State) : State × List (Nat × Nat) :=
  s.plat.events.foldl (fun (a : State × List (Nat × Nat)) e =>
    let (s, ok) := acceptEv e.1 e.2 a.1
    (s, if ok then a.2 ++ (tasksOf s.plat e.1).map ((e.2 / 65536 + lag, ·)) else a.2)) ({ s with plat := { s.plat with events := [] } }, [])

/-- Two or more events that reach a task input in one cycle, of this command or of one before it, are merged into one activation, with
the EVR_COINC bit set (R365). A task's own events come a cycle later (log entry 29). -/
def routeOnce (lag : Nat) (s : State) : State :=
  let (s, acts) := activations lag s
  let old := s.plat.acts
  let distinct := acts.eraseDups
  let merged := distinct.filter fun t => decide (1 < (old ++ acts).count t ∧ old.count t ≤ 1)
  let s := { s with plat := { s.plat with coinc := s.plat.coinc ||| mapOf 448 (merged.map (·.2)), acts := old ++ acts } }
  let s := if merged.isEmpty then s else count 0x0207 merged.length s
  let fresh := distinct.filter fun t => !old.contains t
  forEach ((fresh.map (·.1)).eraseDups) s fun s c =>
    forEach (taskOrder ((fresh.filter (·.1 = c)).map (·.2))) s fun s t => doTask t s

/-- The events of a command, and those that their tasks raise in turn. Without the reference clock the router stands still and they are
lost (R375, R376). -/
def routeAll : Nat → State → State
  | 0, s => s
  | k + 1, s => if s.plat.events.isEmpty || !s.pwr.refclk then s else routeAll k (routeOnce (7 - k) s)

/-- The routes that the channel table carries in interface revision 3 (R363), in the channels and on the interrupt lines of log entry 28:
RECONF_DONE to interrupt 12, RECONF_LATE and RECONF_MISMATCH to the Dike's sources 168 and 169 and to the same interrupt, RECONF_CLOSE to
the capture engine, and TB_STATE, ROLE_CHANGE and DIKE_SAFE to interrupt 13. -/
def chanTable : Sparse (List W32) :=
  let route := fun (src first second : Nat) =>
    [BitVec.ofNat 32 (2 ^ 31 + src), BitVec.ofNat 32 (second * 65536 + first), 0x01FF01FF, 0x01FF01FF, 0x01FF01FF]
  [(10, route 275 212 0x1FF), (11, route 276 176 212), (12, route 277 177 212), (13, route 273 264 0x1FF), (14, route 287 213 0x1FF),
   (15, route 291 213 0x1FF), (16, route 295 213 0x1FF)]

/-- A channel's words at reset. -/
def chanReset : List W32 := [0, 0x01FF01FF, 0x01FF01FF, 0x01FF01FF, 0x01FF01FF]

/-- The channel table's bytes, as measured at LOCK. -/
def chanBytes (p : Plat) : List Byte :=
  (List.range 96).flatMap fun c => (sget chanReset p.chan c).flatMap fun w => le 4 w.toNat

end Sys2Proof.Machine
end

