-- ==== Sys2Proof/Machine/Calendar.lean ====
section
/-! DEFINITION. Calendars as they are read from their banks: windows, the configuration in force in each, start instants and their
checks (R187 to R195). -/

namespace Sys2Proof.Machine

/-- A calendar: BASE, cycle length, the entries' offsets and the configurations they name (none for KEEP). -/
structure Cal where
  base  : Time
  cycle : Time
  offs  : List Time
  cfgs  : List (Option Nat)
  deriving DecidableEq, Repr

/-- Entries of a calendar. -/
abbrev Cal.count (c : Cal) : Nat := c.offs.length

/-- Entry i of a bank, 16 bytes. -/
def entryOf (b : CalBank) (i : Nat) : List Byte := sget (zeros 16) b.ents i

/-- Offset of an entry, in device time. -/
def entryOff (e : List Byte) : Time := fld e 2 4 % 2 ^ 30 * 65536 + fld e 0 2

/-- KEEP of an entry. -/
def entryKeep (e : List Byte) : Bool := bit (fld e 8 1) 0

/-- COUNT of a bank's header. -/
def bankCount (b : CalBank) : Nat := fld b.hdr 16 2

/-- The calendar of a bank; none of an empty one. -/
def calOf (b : CalBank) : Option Cal :=
  if b.hdr.isEmpty then none
  else
    let es := (List.range (bankCount b)).map (entryOf b)
    some { base := timeOf b.hdr 0, cycle := ns (fld b.hdr 12 4), offs := es.map entryOff,
           cfgs := es.map fun e => if entryKeep e then none else some (fld e 6 2) }

/-- The active and the shadow bank of a domain. -/
def SlcDom.active (v : SlcDom) : CalBank := if v.abank then v.bank1 else v.bank0

/-- The bank that no calendar runs from, the shadow bank (R187). -/
def SlcDom.shadow (v : SlcDom) : CalBank := if v.abank then v.bank0 else v.bank1

/-- The domain with its shadow bank changed. -/
def SlcDom.setShadow (v : SlcDom) (b : CalBank) : SlcDom := if v.abank then { v with bank0 := b } else { v with bank1 := b }

/-- A domain changed. -/
def modDom (d : Nat) (f : SlcDom → SlcDom) (s : State) : State := { s with slc := { s.slc with dom := smod {} s.slc.dom d f } }

/-- Start of cycle k. -/
def Cal.cycleStart (c : Cal) (k : Nat) : Time := c.base + k * c.cycle

/-- Start of window i of cycle k; of window COUNT, the next cycle's start (R188). -/
def Cal.start (c : Cal) (k i : Nat) : Time := c.cycleStart k + nth c.cycle c.offs i

/-- The window that follows. -/
def Cal.next (c : Cal) (k i : Nat) : Nat × Nat := if i + 1 < c.count then (k, i + 1) else (k + 1, 0)

/-- Cycle and entry of the window that an instant belongs to (R188, R189); the first window before BASE. -/
def Cal.at (c : Cal) (t : Time) : Nat × Nat :=
  if t < c.base ∨ c.cycle = 0 then (0, 0)
  else
    let r := (t - c.base) % c.cycle
    ((t - c.base) / c.cycle, (c.offs.filter (· ≤ r)).length - 1)

/-- The first window that starts at or after an instant. -/
def Cal.atOrAfter (c : Cal) (t : Time) : Nat × Nat :=
  let (k, i) := c.at t
  if t ≤ c.start k i then (k, i) else c.next k i

/-- The configuration of entry i. -/
def Cal.cfg (c : Cal) (i : Nat) : Option Nat := nth none c.cfgs i

/-- The configuration in force in window i: of the nearest entry at or before it that is not KEEP, taken cyclically, or in a first cycle
run not beyond its start (R221). -/
def Cal.force (c : Cal) (first : Bool) (i : Nat) : Option Nat :=
  if first then (List.range (i + 1)).findSome? fun j => c.cfg (i - j)
  else (List.range c.count).findSome? fun j => c.cfg ((i + c.count - j) % c.count)

/-- The commit lead (R193). -/
def Cal.lead (c : Cal) : Time := max (2 * c.cycle) (ns 50000)

/-- The first cycle that starts at or after an instant: n of R193. -/
def Cal.firstCycle (c : Cal) (t : Time) : Nat :=
  if t ≤ c.base ∨ c.cycle = 0 then 0 else (t - c.base + c.cycle - 1) / c.cycle

/-- The cycle and start of the first window i that starts at or after an instant (R188). -/
def Cal.nextOf (c : Cal) (i : Nat) (t : Time) : Nat × Time :=
  let k := c.firstCycle (t - nth 0 c.offs i)
  let k := if c.start k i < t then k + 1 else k
  (k, c.start k i)

/-- Every window meets R191 under a gap in ns. -/
def Cal.windowsOk (c : Cal) (gap : Nat) : Bool :=
  (List.range c.count).all fun i =>
    let len := nth c.cycle c.offs (i + 1) - nth 0 c.offs i
    decide (ns 2000 ≤ len) && ((c.cfg i).isNone || decide (ns (gap + 1200) ≤ len))

/-- The configurations that a calendar names. -/
def Cal.names (c : Cal) : List Nat := (c.cfgs.filterMap id).eraseDups

/-- A domain's calendar runs, waits or is suspended. -/
def calLive (v : SlcDom) : Bool := v.waiting || decide (v.state = .waiting ∨ v.state = .running ∨ v.state = .suspended)

/-- The calendar in force in a domain: running or suspended. -/
def calActive (v : SlcDom) : Option Cal :=
  if v.state = .running ∨ v.state = .suspended then calOf v.active else none

/-- A position taken: the entry and cycle in force, and CYC_WRAP where CYCLE_NO wraps on the way (R9, R193). -/
def SlcDom.goTo (k i : Nat) (v : SlcDom) : SlcDom :=
  { v with entry := BitVec.ofNat 12 i, cycle := k, cycWrap := v.cycWrap || decide (v.cycle < k ∧ v.cycle / 2 ^ 32 < k / 2 ^ 32) }

/-- A domain as it stands at an instant: where its calendar runs on the Active unit, with the window that BASE, CYCLE and device time give
(R188, R242). -/
def SlcDom.position (t : Time) (v : SlcDom) : SlcDom :=
  match calActive v with
  | some c => if v.follows then v.goTo (c.at t).1 (c.at t).2 else v
  | none => v

/-- SLC_DOM[d] words 0 to 3. -/
def slcDomWords (s : State) (d : Nat) : List W32 :=
  let v := (slcDom s d).position s.tb.now
  [BitVec.ofNat 32 (discCode (discOf s.fab.dom d) * 2 ^ 30 + flag (s.fab.dom.prot.getLsbD d) * 2 ^ 29 + flag v.abank * 2 ^ 28 +
     calCode v.state * 2 ^ 25 + flag v.lateBase * 2 ^ 24 + flag v.gapFail * 2 ^ 23 + flag v.cycWrap * 2 ^ 22 + v.entry.toNat),
   BitVec.ofNat 32 v.cycle,
   BitVec.ofNat 32 (v.skipped.toNat * 65536 + v.refused.toNat),
   BitVec.ofNat 32 (v.late.toNat * 65536 + v.advanced.toNat)]

/-- The whole number of a cycle of which CYCLE_NO gives the low 32 bits: the greatest that is not above a limit, itself where none is. -/
def liftCycle (limit : Nat) (x : W32) : Nat :=
  let d := (BitVec.ofNat 32 limit - x).toNat
  if limit < d then x.toNat else limit - d

/-- The calendar that waits. -/
def calWaiting (v : SlcDom) : Option Cal := if v.waiting then calOf v.shadow else none

/-- The domain of an ingress port, and the ingress ports of a domain. -/
def domOf (f : Fab) (n : Nat) : Nat := sget 0 f.dom.ing n

/-- The ports of a domain (R21). -/
def domPorts (p : Part) (f : Fab) (d : Nat) : List Nat := (List.range p.ports).filter fun n => domOf f n == d

/-- A stored configuration. -/
def cfgOf (f : Fab) (n : Nat) : CfgRec := sget {} f.configs n

/-- A port's connection under a configuration, or under given connections: its egress port and the states along its path. -/
def connUnder (p : Part) (f : Fab) (conns : ConnMap) (c : Option Nat) (n : Nat) : Option (Nat × List (Nat × Bool)) :=
  let (m, v) := match c with
    | some k => ((cfgOf f k).conn, (cfgOf f k).cells)
    | none => (conns, f.cells)
  (egOf m n).map fun e => (e, (pathCells p v n).map fun x => (x, v.getLsbD x))

/-- CALENDAR notification of a domain (event 0 started, 1 LATE_BASE, 2 suspended, 3 resumed, 4 stopped, 5 GAP_FAIL), and the command
that it concerns (R276). -/
def notifyCal (about : About) (d event : Nat) (t : Time) (s : State) : State :=
  notifyAt s.tb.now 0xC about false (le 1 d ++ le 1 event ++ zeros 2 ++ le 4 ((slcDom s d).position s.tb.now).cycle ++ timeBytes t) s

end Sys2Proof.Machine
end

