-- ==== Sys2Proof/Machine/Weir.lean ====
section
/-! DEFINITION. The Weir: lanes and messages, admission and meters, usable intervals, the scheduling decision, and what calendars and
roles do to it (R208 to R231). -/

namespace Sys2Proof.Machine

/-- Units of a bucket level in a byte: a level grows by the rate in Mbit/s in every 2^-16 ns. -/
abbrev byteUnits : Nat := 524288000

/-- A port's Weir state and a queue. -/
def wportOf (s : State) (n : Nat) : WPort := sget {} s.weir.port n
def wqueueOf (s : State) (k : Nat) : WQueue := sget {} s.weir.queue k

/-- Changes of the Weir. -/
def withWeir (f : Weir → Weir) (s : State) : State := { s with weir := f s.weir }
def modWPort (n : Nat) (f : WPort → WPort) (s : State) : State := withWeir (fun w => { w with port := smod {} w.port n f }) s
def modWQueue (k : Nat) (f : WQueue → WQueue) (s : State) : State := withWeir (fun w => { w with queue := smod {} w.queue k f }) s
def modLane (l : Nat) (f : Lane → Lane) (s : State) : State := withWeir (fun w => { w with lanes := smod {} w.lanes l f }) s

/-- The lane that carries an agent's messages (R208). -/
def laneOf (p : Part) (n : Nat) : Nat := n / (p.ports / 8)

/-- The queues of a port. -/
def queuesOf (n : Nat) : List Nat := (List.range 8).map (8 * n + ·)

/-! ### Messages (R211) -/

/-- A message of 12 bytes with its CRC. -/
def sealMsg (b : List Byte) : List Byte := b ++ le 4 (crc32c b).toNat

/-- A message's CRC matches. -/
def crcOk (m : List Byte) : Bool := decide (m.length = 16) && decide (fld m 12 4 = (crc32c (m.take 12)).toNat)

/-- *Table — Grant message*. -/
def grantMsg (n q colour reason : Nat) (discard : Bool) (launch : Time) (tag : BitVec 16) : List Byte :=
  sealMsg (le 1 2 ++ le 1 n ++ le 1 (q + colour * 8 + flag discard * 32) ++ le 1 reason ++ le 6 launch ++ le 2 tag.toNat)

/-- *Table — Time message*. -/
def timeMsg (s : State) (l : Nat) : List Byte :=
  let ok := decide (s.tb.ts = .locked ∨ s.tb.ts = .holdover)
  sealMsg (le 1 3 ++ le 1 l ++ le 1 (roleCode s.sys.role + flag (sluiceRuns s) * 4 + flag ok * 8) ++ zeros 1 ++ le 8 s.tb.now)

/-- A message leaves on a lane: an enabled one, while the reference clock runs (R411, R415). -/
def weirSend (l : Nat) (m : List Byte) (s : State) : State :=
  if s.weir.laneEn.getLsbD l && s.pwr.refclk then emit (.weirTx l m) s else s

/-- A discard: its message, event and count (reason OVERSIZE in OVERSIZE, any other in DROPPED). -/
def discard (n q colour reason : Nat) (tag : BitVec 16) (s : State) : State :=
  let s := ev 283 (weirSend (laneOf s.part n) (grantMsg n q colour reason true 0 tag) s)
  modWPort n (fun p => if reason = 3 then { p with oversize := satInc p.oversize } else { p with dropped := satInc p.dropped }) s

/-! ### Durations and meters (R218, R219) -/

/-- Counted length of a frame. -/
def countedLen (p : WPort) (len : Nat) : Nat := len + p.overhead.toNat

/-- Duration of a counted length: rounded up to the next unit. -/
def duration (p : WPort) (b : Nat) : Time :=
  let r := p.lineRate.toNat
  if r = 0 then 0 else (b * byteUnits + r - 1) / r

/-- A bucket after some time, up to its size. -/
def fill (size rate : Nat) (level : Option Nat) (dt : Time) : Nat :=
  match level with
  | none => size * byteUnits
  | some v => min (size * byteUnits) (v + rate * dt)

/-- The meter's buckets at an instant. -/
def WQueue.filledAt (q : WQueue) (t : Time) : WQueue :=
  let dt := t - q.filled
  { q with tc := some (fill q.cbs.toNat q.cir.toNat q.tc dt), tp := some (fill q.pbs.toNat q.pir.toNat q.tp dt), filled := t }

/-- The colour of a request of B bytes (0 green, 1 yellow, 2 red) and the meter after it. -/
def WQueue.meter (q : WQueue) (t : Time) (pre b : Nat) : Nat × WQueue :=
  let q := q.filledAt t
  let tc := q.tc.getD 0
  let tp := q.tp.getD 0
  let need := b * byteUnits
  if (q.aware && decide (pre = 2)) || decide (tp < need) then (2, q)
  else if (q.aware && decide (pre = 1)) || decide (tc < need) then (1, { q with tp := some (tp - need) })
  else (0, { q with tp := some (tp - need), tc := some (tc - need) })

/-- The shaper's level at an instant (R225). -/
def WPort.levelNow (p : WPort) (t : Time) : Int :=
  min ((p.shapeBurst.toNat * byteUnits : Nat) : Int) (p.level + p.shapeRate.toNat * (t - p.levelAt : Nat))

/-- The instant at which the shaper's bucket is at 0 or above. -/
def WPort.shapedAt (p : WPort) (t : Time) : Time :=
  let v := p.levelNow t
  let r := p.shapeRate.toNat
  if r = 0 ∨ 0 ≤ v then t else t + ((-v).toNat + r - 1) / r

/-! ### Usable intervals (R221) -/

/-- A half-open interval of device time. -/
structure Iv where
  lo : Time
  hi : Time
  deriving DecidableEq, Repr

/-- A calendar as a port's intervals follow from it: its first cycle run, the configuration in force before its start, or else the
connections then applied, and the instants between which it is in force. -/
structure View where
  cal   : Cal
  first : Option Nat
  before : Option Nat
  conns : ConnMap
  lo    : Time := 0
  hi    : Option Time := none
  deriving DecidableEq, Repr

/-- The configuration in force under a view just before an instant (R221). -/
def View.forceBefore (v : View) (t : Time) : Option Nat :=
  let (k, i) := v.cal.at (t - 1)
  (v.cal.force (v.first == some k) i).or v.before

/-- The running calendar, up to the start of a waiting one, and the waiting one from there on: before its first entry that is not KEEP
the connections of its start instant, which are those of the running one's last configuration (R221). -/
def viewsOf (s : State) (d : Nat) : List View :=
  let v := slcDom s d
  let run : Option View := if v.state = .running then
      (calOf v.active).map fun c =>
        ⟨c, some v.firstCycle, none, v.startConn, c.cycleStart v.firstCycle, if v.waiting then some v.start else none⟩
    else none
  let next : Option View := (calWaiting v).map fun c =>
    ⟨c, some v.startCycle, run.bind (·.forceBefore v.start), (run.map (·.conns)).getD s.fab.conns, v.start, none⟩
  run.toList ++ next.toList

/-- The interval that window i of cycle k gives a port, before blackouts: none where the port is not connected in it. -/
def windowIv (s : State) (n : Nat) (v : View) (k i : Nat) : Option Iv :=
  let first := decide (v.first = some k)
  let now := connUnder s.part s.fab v.conns ((v.cal.force first i).or v.before) n
  if now.isNone then none
  else
    let prev :=
      if first && decide (i = 0) then connUnder s.part s.fab v.conns v.before n
      else if i = 0 then connUnder s.part s.fab v.conns ((v.cal.force (v.first == some (k - 1)) (v.cal.count - 1)).or v.before) n
      else connUnder s.part s.fab v.conns ((v.cal.force first (i - 1)).or v.before) n
    let affected := (v.cal.cfg i).isSome && decide (prev ≠ now)
    let lo := v.cal.start k i + (if affected then ns (s.jets.gap.toNat + 240) else 0)
    let hi := v.cal.start k (i + 1)
    some ⟨lo, match v.hi with | some t => min t hi | none => hi⟩

/-- An interval less another. -/
def cutIv (b : Iv) (a : Iv) : List Iv :=
  if b.hi ≤ a.lo ∨ a.hi ≤ b.lo then [a]
  else (if a.lo < b.lo then [⟨a.lo, b.lo⟩] else []) ++ (if b.hi < a.hi then [⟨b.hi, a.hi⟩] else [])

/-- What is removed from a port's intervals under a calendar: blackouts handed over, and the windows of its entries that were refused;
those of the calendar before it began before it started. -/
def removedFor (s : State) (n : Nat) (v : View) : List Iv :=
  ((s.weir.blackouts.filter fun b => b.ports.getLsbD n).map fun b => ⟨b.lo, b.hi⟩) ++
    (s.weir.refusals.filter fun r => r.2.2.2.getLsbD n && decide (v.lo ≤ r.2.1)).map fun r => ⟨r.2.1, r.2.2.1⟩

/-- The usable pieces of a window. -/
def piecesOf (s : State) (n : Nat) (v : View) (k i : Nat) : List Iv :=
  ((windowIv s n v k i).toList).flatMap fun a => (removedFor s n v).foldl (fun l b => l.flatMap (cutIv b)) [a]

/-- The first usable interval from a window on that a trial accepts, within a number of windows. -/
def searchIv {α : Type} (s : State) (n : Nat) (v : View) (try? : Iv → Option α) : Nat → Nat → Nat → Option α
  | 0, _, _ => none
  | f + 1, k, i =>
    if (v.hi.map fun t => decide (t ≤ v.cal.start k i)).getD false then none
    else
      match (piecesOf s n v k i).findSome? try? with
      | some r => some r
      | none => let (k', i') := v.cal.next k i; searchIv s n v try? f k' i'

/-- Windows to search: to the last removal or start instant, and two cycles more. -/
def searchFuel (s : State) (n : Nat) (v : View) (t : Time) : Nat :=
  let last := ((removedFor s n v).map (·.hi) ++ v.hi.toList).foldl max (max t v.lo)
  if v.cal.cycle = 0 then 0 else ((last - t) / v.cal.cycle + 3) * v.cal.count

/-- The first usable interval of a port from an instant on that a trial accepts. -/
def firstIv {α : Type} (s : State) (n : Nat) (t : Time) (try? : Iv → Option α) : Option α :=
  (viewsOf s (domOf s.fab n)).findSome? fun v =>
    let (k, i) := v.cal.at (max t v.lo)
    searchIv s n v try? (searchFuel s n v t) k i

/-! ### MAX_FIT (R222) -/

/-- The greatest counted length that fits an interval of a length. -/
def fitLen (p : WPort) (len : Time) : Nat := (len - 2 * ns p.guard.toNat) * p.lineRate.toNat / byteUnits

/-- MAX_FIT of a port under a calendar: its longest interval within one cycle. -/
def maxFitOf (s : State) (n : Nat) (c : Cal) (conns : ConnMap) : Nat :=
  let v : View := ⟨c, none, none, conns, 0, none⟩
  ((List.range c.count).filterMap fun i => (windowIv s n v 0 i).map fun a => fitLen (wportOf s n) (a.hi - a.lo)).foldl max 0

/-- A port that some window of a calendar connects. -/
def connects (s : State) (n : Nat) (c : Cal) (conns : ConnMap) : Bool :=
  (List.range c.count).any fun i => (connUnder s.part s.fab conns (c.force false i) n).isSome

/-- MAX_FIT recomputed for the ports of a domain; queued requests that exceed it are discarded (R222, R227). -/
def refit (d : Nat) (c : Cal) (conns : ConnMap) (s : State) : State :=
  forEach (domPorts s.part s.fab d) s fun s n =>
    let m := maxFitOf s n c conns
    let s := modWPort n (fun p => { p with maxFit := m }) s
    forEach (queuesOf n) s fun s k =>
      let big := fun r : WReq => decide (m < countedLen (wportOf s n) r.len)
      let large := (wqueueOf s k).reqs.filter big
      if large.isEmpty then s
      else forEach large (modWQueue k (fun q => { q with reqs := q.reqs.filter fun r => !big r }) s) fun s r =>
        discard n (k % 8) r.colour 3 r.tag s

/-! ### What happens to queued requests (R227, R230) -/

/-- Requests of a port cleared without answer, and how many there were. -/
def clearPort (n : Nat) (s : State) : State :=
  forEach (queuesOf n) s fun s k => if (wqueueOf s k).reqs.isEmpty then s else modWQueue k (fun q => { q with reqs := [] }) s

/-- Requests that a port has queued. -/
def queuedAt (s : State) (n : Nat) : Nat := ((queuesOf n).map fun k => (wqueueOf s k).reqs.length).sum

/-- Every queued request of a domain's ports answered with WITHDRAWN. -/
def withdraw (d : Nat) (s : State) : State :=
  forEach (domPorts s.part s.fab d) s fun s n =>
    forEach (queuesOf n) s fun s k =>
      let rs := (wqueueOf s k).reqs
      if rs.isEmpty then s
      else forEach rs (modWQueue k (fun q => { q with reqs := [] }) s) fun s r => discard n (k % 8) r.colour 6 r.tag s

/-- A release of the Active role: every request and every port state cleared (R230). -/
def weirClear (s : State) : State :=
  withWeir (fun w => { w with
    queue := smap {} (8 * s.part.ports) w.queue fun _ q => { q with reqs := [], s := 0 }
    port := smap {} s.part.ports w.port fun _ p => { p with nextFree := 0, level := 0, levelAt := 0, v := 0, sent := [], unsent := [] } }) s

/-- A unit becomes Active: full buckets, zero virtual times, next_free now, and MAX_FIT of the mirrored calendars (R230). -/
def weirFresh (s : State) : State :=
  let t := s.tb.now
  let s := withWeir (fun w => { w with
    queue := smap {} (8 * s.part.ports) w.queue fun _ q => { q with reqs := [], s := 0, tc := none, tp := none, filled := t }
    port := smap {} s.part.ports w.port fun _ p =>
      { p with nextFree := t, level := ((p.shapeBurst.toNat * byteUnits : Nat) : Int), levelAt := t, v := 0, sent := [], unsent := [] } }) s
  forEach (List.range 16) s fun s d =>
    let v := slcDom s d
    match (calActive v).or (calWaiting v) with
    | some c => refit d c s.fab.conns s
    | none => s

/-- A Weir lane goes down: its agents' requests are cleared and counted, its source is raised (R227). -/
def weirLaneDown (l : Nat) (s : State) : State :=
  if (sget {} s.weir.lanes l : Lane).up then
    let agents := (List.range s.part.ports).filter fun n => laneOf s.part n == l
    let flushed := (agents.map (queuedAt s)).sum
    let s := forEach agents s fun s n => clearPort n s
    let s := modLane l (fun x => { x with up := false, downSeen := true, flushed := satAdd x.flushed flushed }) s
    raise (171 + l) (ev 285 s)
  else s

/-- A Weir lane comes up (R210). -/
def weirLaneUp (l : Nat) (s : State) : State :=
  if l < 8 ∧ s.weir.laneEn.getLsbD l ∧ s.sys.mode ≠ .reset ∧ s.pwr.refclk then modLane l (fun x => { x with up := true }) s else s

/-! ### Admission (R217) -/

/-- A request with every reserved bit 0 and a LENGTH. -/
def requestOk (m : List Byte) : Bool :=
  decide (fld m 2 1 < 32 ∧ bits (fld m 2 1) 4 3 ≠ 3 ∧ fld m 3 1 = 0 ∧ fld m 4 3 < 2 ^ 20 ∧ fld m 4 3 ≠ 0 ∧ fld m 7 1 = 0 ∧
    fld m 10 2 = 0)

/-- A port that the Weir serves: in a calendar domain with a calendar running, waiting or suspended. -/
def scheduled (s : State) (n : Nat) : Bool :=
  let d := domOf s.fab n
  decide (discOf s.fab.dom d = .calendar) && calLive (slcDom s d)

/-- A request queued: an empty queue's S starts at V (R223). -/
def enqueue (n k : Nat) (r : WReq) (s : State) : State :=
  let v := (wportOf s n).v
  modWQueue k (fun q => { q with s := if q.reqs.isEmpty then v else q.s, reqs := q.reqs ++ [r] }) s

/-- Checks 3 to 7 of admission, for a request of agent n. -/
def admitMsg (n : Nat) (m : List Byte) (s : State) : State :=
  let q := fld m 2 1 % 8
  let k := 8 * n + q
  let tag := BitVec.ofNat 16 (fld m 8 2)
  let s := count 0x0205 1 s
  if !requestOk m then discard n q 0 1 tag s
  else if !scheduled s n then discard n q 0 2 tag s
  else
    let b := countedLen (wportOf s n) (fld m 4 3)
    if (wportOf s n).maxFit < b then discard n q 0 3 tag s
    else
      let (colour, w) := (wqueueOf s k).meter s.tb.now (bits (fld m 2 1) 4 3) b
      let s := modWQueue k (fun _ => w) s
      if colour = 2 then discard n q 2 4 tag s
      else if (if colour = 0 then 32 else w.yelMax.toNat) ≤ w.reqs.length then discard n q colour 5 tag s
      else enqueue n k ⟨fld m 4 3, tag, colour⟩ s

/-- WEIR_REQUEST (R210, R217, R229): a message slot on a lane; without the Weir's clock none is taken (R376). A message of a type that no agent sends is left alone. -/
def weirMessage (l : Nat) (m : List Byte) (s : State) : State :=
  if !(sget {} s.weir.lanes l : Lane).up || !s.pwr.refclk then s
  else
    let typ := fld m 0 1
    let n := fld m 1 1
    if !crcOk m || decide (typ = 0 ∨ 3 < typ) || decide (s.part.ports ≤ n) || decide (laneOf s.part n ≠ l) then
      modLane l (fun x => { x with bad := satInc x.bad }) s
    else if typ ≠ 1 then s
    else if !roleLit s.sys.role then withWeir (fun w => { w with ignored := satInc w.ignored }) s
    else admitMsg n m s

/-! ### The decision (R223) -/

/-- A port's non-empty queues, in ascending S and then ascending q. -/
def readyQueues (s : State) (n : Nat) : List Nat :=
  ((queuesOf n).filter fun k => !(wqueueOf s k).reqs.isEmpty).mergeSort fun a b =>
    decide ((wqueueOf s a).s < (wqueueOf s b).s ∨ ((wqueueOf s a).s = (wqueueOf s b).s ∧ a ≤ b))

/-- The grant that an interval allows: launch instant and queue. -/
def grantIn (s : State) (n : Nat) (t0 : Time) (a : Iv) : Option (Time × Nat) :=
  let p := wportOf s n
  let g := ns p.guard.toNat
  if a.hi ≤ t0 + g then none
  else
    let t := max t0 (a.lo + g)
    ((readyQueues s n).find? fun k =>
      match (wqueueOf s k).reqs with
      | r :: _ => decide (t + duration p (countedLen p r.len) + g ≤ a.hi)
      | [] => false).map fun k => (t, k)

/-- The message on its lane that grants a request of a queue a launch: at once, or where its time is not come yet, from GLEAD + 500 ns before
the launch (R226). -/
def sendGrant (n k : Nat) (t : Time) (r : WReq) (m : List Byte) (s : State) : State :=
  let due := t - ns ((wportOf s n).glead.toNat + 500)
  if due ≤ s.tb.now then weirSend (laneOf s.part n) m s
  else modWPort n (fun p => { p with unsent := p.unsent ++ [⟨due, t, m, k, (wqueueOf s k).s, r⟩] }) s

/-- A request granted at an instant: its message, counts, and the port's state after it. A launch is remembered for 1 ms, longer than any
dark gap or insertion asks for it (R226, R338). -/
def grantAt (n k : Nat) (t : Time) (s : State) : State :=
  match (wqueueOf s k).reqs with
  | [] => s
  | r :: rest =>
    let p := wportOf s n
    let q := wqueueOf s k
    let b := countedLen p r.len
    let e := t + duration p b
    let s := sendGrant n k t r (grantMsg n (k % 8) r.colour 0 false t r.tag) s
    let s := count 0x0204 1 s
    let s := modWPort n (fun p =>
      { p with grants := satInc p.grants, nextFree := e,
               level := if p.shapeRate = 0 then p.level else p.levelNow s.tb.now - (b * byteUnits : Nat),
               levelAt := if p.shapeRate = 0 then p.levelAt else s.tb.now, v := max p.v q.s,
               sent := (p.sent.filter fun x => s.tb.now < x.2 + ns 1000000) ++ [(t, e)] }) s
    modWQueue k (fun q => { q with reqs := rest, s := q.s + (b * 256 + q.weight.toNat - 1) / q.weight.toNat }) s

/-- WEIR_DECISION of a port (R223, R226, R229). -/
def weirDecide (n : Nat) (s : State) : State :=
  let v := slcDom s (domOf s.fab n)
  if n < s.part.ports && sluiceRuns s && scheduled s n && decide (v.state ≠ .suspended) && !(readyQueues s n).isEmpty then
    let p := wportOf s n
    let t0 := max p.nextFree (max (s.tb.now + ns p.glead.toNat) (p.shapedAt s.tb.now))
    match firstIv s n t0 (grantIn s n t0) with
    | some (t, k) => grantAt n k t s
    | none => s
  else s

/-- TIME_MESSAGE_TX of a lane (R212, R229). -/
def weirTime (l : Nat) (s : State) : State :=
  if l < 8 ∧ s.sys.mode ≠ .reset then weirSend l (timeMsg s l) s else s

/-- The grants whose time has come are sent (R226), while the Weir may grant (R229). -/
def sendDue (s : State) : State :=
  let t := s.tb.now
  if !sluiceRuns s then s
  else
    forEach (s.weir.port.filter fun e => e.2.unsent.any fun m => m.due ≤ t) s fun s e =>
      let s := modWPort e.1 (fun p => { p with unsent := p.unsent.filter fun m => t < m.due }) s
      forEach (e.2.unsent.filter fun m => m.due ≤ t) s fun s m => weirSend (laneOf s.part e.1) m.msg s

/-- A request whose grant is never sent is back at the head of its queue, with the S that it had there. -/
def WQueue.giveBack (m : Unsent) (q : WQueue) : WQueue := { q with reqs := m.req :: q.reqs, s := m.s }

/-- GRANTING falls: the grants decided and not yet sent are never sent (R229). Their requests wait again, each at the head of its queue, so
that each still receives its one message (R215; log entry 133). -/
def weirSilence (s : State) : State :=
  let back := s.weir.port.flatMap fun e => e.2.unsent
  if back.isEmpty then s
  else
    let s := withWeir (fun w => { w with port := smap {} s.part.ports w.port fun _ p =>
      { p with unsent := [], sent := p.sent.filter fun x => !(p.unsent.map (·.launch)).contains x.1 } }) s
    back.foldr (fun m s => modWQueue m.queue (·.giveBack m) s) s

/-- Blackouts and refusals that have passed are forgotten. -/
def weirTrim (s : State) : State :=
  let t := s.tb.now
  if s.weir.blackouts.any (·.hi ≤ t) || s.weir.refusals.any (·.2.2.1 ≤ t) then
    withWeir (fun w => { w with blackouts := w.blackouts.filter fun b => t < b.hi, refusals := w.refusals.filter fun r => t < r.2.2.1 }) s
  else s

end Sys2Proof.Machine
end

