-- ==== Sys2Proof/Machine/Tracker.lean ====
section
/-! DEFINITION. The position tracker: telegrams and their checks, train records, and the prediction of the earliest crossing (R166 to
R177). -/

namespace Sys2Proof.Machine

/-! ### Prediction (R174) -/

/-- The bound of a train as seen in an entry's sense: distance still to run in µm, velocity in µm/s, acceleration in µm/s². -/
structure Bound where
  d : Int
  v : Int
  a : Int
  deriving DecidableEq, Repr

/-- The bound has reached its goal t nanoseconds after the fix; a braking bound keeps the position at which it stops. -/
def Bound.reached (b : Bound) (t : Nat) : Bool :=
  let tt : Int := t
  let there := decide (2000000000000000000 * b.d ≤ 2000000000 * b.v * tt + b.a * tt * tt)
  if b.d ≤ 0 then true
  else if 0 < b.v ∧ b.a < 0 then
    if b.v * b.v < -2 * b.a * b.d then false
    else there || decide (1000000000 * b.v ≤ -b.a * tt)
  else if b.v ≤ 0 ∧ b.a ≤ 0 then false
  else there

/-- The least t in (lo, hi] at which a bound is reached that is reached at hi, by halving. -/
def Bound.least (b : Bound) : Nat → Nat → Nat → Nat
  | 0, _, hi => hi
  | f + 1, lo, hi =>
    if hi ≤ lo + 1 then hi
    else
      let m := (lo + hi) / 2
      if b.reached m then b.least f lo m else b.least f m hi

/-- Nanoseconds from the fix to the crossing, none where it lies beyond 2^50 ns or is never reached. -/
def Bound.crossing (b : Bound) : Option Nat :=
  if b.reached 0 then some 0 else if b.reached (2 ^ 50) then some (b.least 51 0 (2 ^ 50)) else none

/-- The bound that runs ahead of a train in an entry's sense (`sense`: decreasing), or behind it. -/
def boundOf (t : Train) (sense ahead : Bool) (x : W32) : Bound :=
  let up := sense != ahead
  let q : Int := if up then (t.pos.toNat : Int) + t.uPos.toNat else (t.pos.toNat : Int) - t.uPos.toNat
  let v : Int := if up then t.vel.toInt + t.uVel.toNat else t.vel.toInt - t.uVel.toNat
  let a : Int := if up then t.acc.toInt + t.uAcc.toNat else t.acc.toInt - t.uAcc.toNat
  let d : Int := ((x.toNat : Int) - q) * 1000
  if sense then ⟨-d, -v, -a⟩ else ⟨d, v, a⟩

/-- A train of the machine. -/
def trainOf (s : State) (t : Nat) : Train := sget {} s.trk.trains t

/-- A train changed. -/
def modTrain (t : Nat) (f : Train → Train) (s : State) : State := { s with trk := { s.trk with trains := smod {} s.trk.trains t f } }

/-- A tracked entry changed. -/
def modEntry (n : Nat) (f : TEntry → TEntry) (s : State) : State := { s with slc := { s.slc with entries := smod {} s.slc.entries n f } }

/-- The committed entries, with their numbers. -/
def committed (s : State) : List (Nat × TEntry) := s.slc.entries.filter fun e => e.2.used

/-- The firing instant of an entry for a train (R175, R177): none where the bound never reaches X, or reaches it more than 36 h
ahead. -/
def firingOf (now : Time) (t : Train) (e : TEntry) : Option Time :=
  if t.valid && !t.gone then
    (boundOf t e.sense true e.pos).crossing.bind fun c =>
      let cross := t.fix + ns c
      if now + horizon < cross then none else some (cross - ns e.lead)
  else none

/-- An entry is passed: the opposite bound has reached X by now (R176). -/
def passed (now : Time) (t : Train) (e : TEntry) : Bool :=
  t.valid && !t.gone &&
    (match (boundOf t e.sense false e.pos).crossing with
     | some c => decide (t.fix + ns c ≤ now)
     | none => false)

/-- The arming lead. -/
abbrev armLead : Time := ns 750

/-- An entry given its firing instant, or left without one (R175, R197); at short notice where the instant is earlier than the earliest
that can still be armed (R176); what R181 kept from being armed stays so until it is given an instant that can be met (R198). One that a
promotion found ARMED without its follow keeps the instant that arming froze (R251, R197). The partner is told of a change of state alone
(R242). -/
def schedule (n : Nat) (s : State) : State :=
  let e : TEntry := sget {} s.slc.entries n
  if e.used && !e.lost && decide (e.state = .pending ∨ e.state = .scheduled) then
    let t := trainOf s e.train
    let e' := match firingOf s.tb.now t e with
      | some f =>
        let late := decide (f < s.tb.now + armLead)
        { e with state := .scheduled, tFire := f, seqUsed := t.seq, short := late, missed := e.missed && late }
      | none => { e with state := .pending, tFire := 0, seqUsed := 0, short := false, missed := false }
    let s := modEntry n (fun _ => e') s
    if e'.state = e.state then s else mirror (.entry n (some e')) s
  else s

/-- Every pending entry of a train recomputed. -/
def recompute (t : Nat) (s : State) : State :=
  forEach ((committed s).filter fun e => e.2.train == t) s fun s e => schedule e.1 s

/-! ### Telegrams (R166 to R170) -/

/-- The slot that a TRAIN_ID is bound to. -/
def slotOfTrain (s : State) (id : W32) : Option Nat := (s.trk.trains.find? fun t => t.2.bound && decide (t.2.id = id)).map (·.1)

/-- The first check of R169 that a telegram fails, 0 where it passes all, and the slot it is for. -/
def telegramCheck (s : State) (stamp : Time) (p : List Byte) : Nat × Option Nat :=
  if p.length ≠ 64 ∨ fld p 0 2 ≠ 0x5054 ∨ fld p 2 1 ≠ 1 ∨ 4 ≤ fld p 3 1 ∨ fld p 52 8 ≠ 0 ∨ !timeOk p 16 then (1, none)
  else if fld p 60 4 ≠ (crc32c (p.take 60)).toNat then (2, none)
  else if fld p 4 2 ≠ s.trk.corridor.toNat then (3, none)
  else
    match slotOfTrain s (BitVec.ofNat 32 (fld p 8 4)) with
    | none => (4, none)
    | some k =>
      let t := trainOf s k
      let fix := timeOf p 16
      let diff := (BitVec.ofNat 32 (fld p 12 4) - t.seq).toNat
      let code :=
        if s.tb.ts = .free ∨ s.tb.ts = .acquiring then 5
        else if (ns 1000000 : Int) < tdiff fix stamp then 6
        else if ((ns 1000000 * s.trk.ageMax.toNat : Nat) : Int) < tdiff stamp fix then 7
        else if t.valid ∧ (diff = 0 ∨ 2 ^ 31 ≤ diff) then 8
        else if t.valid ∧ !later fix t.fix then 9
        else if !roleLit s.sys.role then 10 else 0
      (code, some k)

/-- A train's record after an accepted telegram (R171 to R173). -/
def trainFrom (via : Nat) (stamp : Time) (p : List Byte) (t : Train) : Train :=
  let accOk := bit (fld p 3 1) 0
  { t with
    valid := true, stale := false, gone := bit (fld p 3 1) 1, accValid := accOk, via := via,
    seq := BitVec.ofNat 32 (fld p 12 4), fix := timeOf p 16, arrival := stamp,
    pos := BitVec.ofNat 32 (fld p 28 4), vel := BitVec.ofNat 32 (fld p 32 4),
    acc := if accOk then BitVec.ofNat 32 (fld p 36 4) else 0,
    uPos := BitVec.ofNat 32 (fld p 40 4), uVel := BitVec.ofNat 32 (fld p 44 4), uAcc := BitVec.ofNat 32 (fld p 48 4) }

/-- TRAIN notification (event 0 STALE, 1 GONE). -/
def notifyTrain (k event : Nat) (s : State) : State :=
  notify 0xB (le 1 k ++ le 1 event ++ zeros 2 ++ le 4 (trainOf s k).seq.toNat) s

/-- A telegram that comes at its turn behind the one last processed: by stamp, and of equal stamps port 0 before port 1 before a mailbox
(R170). -/
def inTurn (s : State) (via : Nat) (stamp : Time) : Bool :=
  match s.trk.last with
  | some (t, v) => decide (t < stamp ∨ (t = stamp ∧ v ≤ via))
  | none => true

/-- A telegram processed: its result code and the state after it (R169 to R175). -/
def takeTelegram (via : Nat) (stamp : Time) (p : List Byte) (s : State) : Nat × State :=
  let s := { s with trk := { s.trk with last := some (stamp, via) } }
  let (code, slot) := telegramCheck s stamp p
  if code = 0 then
    match slot with
    | some k =>
      let wasGone := (trainOf s k).gone
      let s := ev 281 (modTrain k (trainFrom via stamp p) s)
      let s := mirror (.train k (trainOf s k)) s
      let s := recompute k s
      (0, if (trainOf s k).gone && !wasGone then notifyTrain k 1 s else s)
    | none => (0, s)
  else
    let s := ev 282 { s with trk := { s.trk with drops := smod 0 s.trk.drops code satInc } }
    (code, match slot with
      | some k => modTrain k (fun t => { t with dropped := satInc t.dropped }) s
      | none => s)

/-- The instant from which a train is STALE (R172). -/
def staleAt (s : State) (t : Train) : Time := t.fix + ns 1000000 * s.trk.staleMs.toNat + 1

/-- STALE of a train set, once that instant has come (R172). -/
def trainStaleNow (k : Nat) (s : State) : State :=
  let t := trainOf s k
  if t.bound && t.valid && !t.stale && slcClock s then
    notifyTrain k 0 (modTrain k (fun t => { t with stale := true }) (reach (staleAt s t) s))
  else s

/-- A train record's 64 bytes (*Table — Train record*). -/
def trainBytes (t : Train) : List Byte :=
  le 4 t.id.toNat ++ le 1 (flag t.bound + flag t.valid * 2 + flag t.stale * 4 + flag t.gone * 8 + flag t.accValid * 16) ++
    le 1 t.via ++ zeros 2 ++ le 4 t.seq.toNat ++ timeBytes t.fix ++ timeBytes t.arrival ++ le 4 t.pos.toNat ++ le 4 t.vel.toNat ++
    le 4 t.acc.toNat ++ le 4 t.uPos.toNat ++ le 4 t.uVel.toNat ++ le 4 t.uAcc.toNat ++ le 2 t.dropped.toNat ++ le 2 t.short.toNat

/-- A tracked entry's 32 bytes (*Table — Tracked entry*). -/
def entryBytesOf (e : TEntry) : List Byte :=
  le 1 e.train ++ le 1 e.domain ++ le 1 (flag e.sense + flag e.used * 128) ++ le 1 (entryCode e.state) ++ le 2 e.config ++ zeros 2 ++
    le 4 e.pos.toNat ++ le 4 e.lead ++ timeBytes e.tFire ++ le 4 e.seqUsed.toNat

end Sys2Proof.Machine
end

