-- ==== Sys2Proof/Machine/Sluice.lean ====
section
/-! DEFINITION. The Sluice at run time: compatibility, preparation, arming of calendar and tracked entries, windows, starts and
resumptions of calendars, entry reports (R181, R185 to R205). -/

namespace Sys2Proof.Machine

/-- A change of the Sluice. -/
def withSlc (f : Slc → Slc) (s : State) : State := { s with slc := f s.slc }

/-! ### Compatibility (R185) -/

/-- The ports of a set of domains. -/
def inDomains (f : Fab) (m : BitVec 16) (n : Nat) : Bool := m.getLsbD (domOf f n)

/-- A connection joins ports of different domains (R22). -/
def acrossDomains (f : Fab) (r : CfgRec) : Bool := crossDomain f.dom (r.conn.filter fun e => inDomains f r.scope e.1)

/-- A stored configuration is compatible with given states and connections (R185); one that has no route of this unit's own is treated
as incompatible (R243), and so is one that a later DOMAIN_SET has left with a connection across two domains, which R22 forbids (DEDUCED,
log entry 122). -/
def compatible (p : Part) (f : Fab) (r : CfgRec) (cells : CellMap) (conns : ConnMap) : Bool :=
  let moved := (List.range p.ports).filter (inDomains f r.movedDom)
  let others := conns.filter fun e => !inDomains f (r.scope ||| r.movedDom) e.1
  (decide (r.claim ≠ 0) || r.conn.isEmpty) && (moved.all fun n => egOf conns n == egOf r.conn n) &&
    decide (cellsOf p cells others &&& r.claim &&& (cells ^^^ r.cells) = 0) && !acrossDomains f r

/-- The target of a stored configuration: claimed cells at its states, but for those that a condition fixes (R185, R42). -/
def targetOf (f : Fab) (r : CfgRec) (cells : CellMap) (conns : ConnMap) : CellMap × ConnMap :=
  let set := r.claim &&& ~~~(condFixed f)
  ((cells &&& ~~~set) ||| (r.cells &&& set),
    ((conns.filter fun e => !inDomains f r.scope e.1) ++ (r.conn.filter fun e => inDomains f r.scope e.1)).mergeSort
      fun a b => decide (a.1 ≤ b.1))

/-- Egress ports whose connections under a configuration pass a failed cell that it has not been re-routed around (R54). -/
def hiddenPorts (p : Part) (f : Fab) (c : Nat) (r : CfgRec) : PortMap :=
  let bad := sget [] f.cellPend c
  mapOf 256 ((r.conn.filter fun e => (pathCells p r.cells e.1).any bad.contains).map (·.2))

/-! ### What is due (R198, R201 to R203) -/

/-- An entry that may be armed. -/
structure Due where
  tracked : Bool
  domain  : Nat
  entry   : Nat
  config  : Nat
  cycle   : Nat
  wanted  : Time
  seqUsed : W32 := 0
  train   : Nat := 0xFF
  short   : Bool := false
  overtaken : Bool := false
  rank    : Int := 0               -- the second key of R198
  deriving DecidableEq, Repr

/-- The cycle, instant and configuration of the next window of calendar entry i of a domain at or after an instant: of the calendar in
force, before a waiting one starts and not before a suspended one resumes, and of the waiting one. -/
def firingsFrom (s : State) (t0 : Time) (d i : Nat) : List (Nat × Time × Nat) :=
  let v := slcDom s d
  let at_ := fun (c : Cal) (from_ : Time) =>
    if i < c.count then (c.cfg i).map fun f => let x := c.nextOf i from_; (x.1, x.2, f) else none
  let old : Option (Nat × Time × Nat) :=
    match calActive v with
    | some c =>
      let from_ := match v.state, v.resume with
        | .suspended, some r => some (max r t0)
        | .suspended, none => none
        | _, _ => some t0
      (from_.bind (at_ c)).filter fun x => !(v.waiting && decide (v.start ≤ x.2.1))
    | none => none
  let new := (calWaiting v).bind fun c => at_ c (max v.start t0)
  old.toList ++ new.toList

/-- The same from now on. -/
abbrev firings (s : State) (d i : Nat) : List (Nat × Time × Nat) := firingsFrom s s.tb.now d i

/-- A window has neither been handed to the sequencers nor refused: windows of a domain are, in the order of their starts. -/
def SlcDom.stillDue (v : SlcDom) (t : Time) : Bool :=
  match v.armedTo with
  | some a => decide (a < t)
  | none => true

/-- The entry of a calendar domain whose window starts at an instant. -/
def firingAt (s : State) (d : Nat) (t : Time) : Option Due :=
  let v := slcDom s d
  let c? := if v.waiting && decide (v.start ≤ t) then calWaiting v else calActive v
  match c? with
  | some c =>
    let (k, i) := c.at t
    if c.start k i = t ∧ v.stillDue t then
      ((firingsFrom s (min t s.tb.now) d i).find? fun x => decide (x.2.1 = t)).map fun x => ⟨false, d, i, x.2.2, x.1, t, 0, 0xFF, false, false, 0⟩
    else none
  | none => none

/-- A scheduled tracked entry as it falls due now: overtaken where it is passed, could not be armed because the Sluice was stopped (R198), or
was found ARMED without its follow at a promotion (R251); at short notice where its instant can no longer be met (R176). -/
def trackedDue (s : State) (n : Nat) (e : TEntry) : Due :=
  let gone := passed s.tb.now (trainOf s e.train) e || e.missed || e.lost
  { tracked := true, domain := e.domain, entry := n, config := e.config, cycle := 0, wanted := e.tFire, seqUsed := e.seqUsed,
    train := e.train, short := e.short && !gone, overtaken := gone,
    rank := if e.sense then -(e.pos.toNat : Int) else e.pos.toNat }

/-- The instant for which a due entry is armed: an overtaken one for the earliest that can still be armed (R198), any other for its own, or
for that where its own can no longer be met. -/
def Due.armAt (d : Due) (now : Time) : Time := if d.overtaken then now + armLead else max d.wanted (now + armLead)

/-- `a` is at or after `b` by the keys of R198. -/
def lastBy (a b : Due) : Bool :=
  decide (b.wanted < a.wanted ∨ (a.wanted = b.wanted ∧ (b.rank < a.rank ∨ (a.rank = b.rank ∧ b.entry ≤ a.entry))))

/-- The last of a list of due entries, and the others. -/
def splitLast : List Due → Option (Due × List Due)
  | [] => none
  | a :: t =>
    match splitLast t with
    | none => some (a, [])
    | some (b, l) => if lastBy b a then some (b, a :: l) else some (a, b :: l)

/-! ### Entry reports (R205) -/

/-- An entry report's 48 bytes. -/
def entryReport (s : State) (d : Due) (outcome : Nat) (tClose : Option Time) (seq : W32) : List Byte :=
  le 2 d.entry ++ le 1 (flag d.tracked) ++ le 1 d.domain ++ le 1 outcome ++ le 1 d.train ++ le 2 d.config ++ le 4 d.seqUsed.toNat ++
    le 4 d.cycle ++ timeBytes d.wanted ++ (match tClose with | some t => timeBytes t | none => zeros 12) ++ le 4 seq.toNat ++
    le 2 s.trk.unit.toNat ++ zeros 2

/-- An entry report posted. -/
def postEntry (d : Due) (outcome : Nat) (tClose : Option Time) (seq : W32) (s : State) : State :=
  notify 3 (entryReport s d outcome tClose seq) s

/-- The configuration, cycle and instant for which an entry may be prepared now, where it is not prepared yet: a calendar entry within
10 us of its window, a tracked one within 1 ms of T_FIRE (R199). -/
def toPrepare (s : State) (tracked : Bool) (d e : Nat) : Option (Nat × Nat × Time) :=
  let held := fun t => s.slc.prep.any fun p => p.tracked == tracked && p.domain == d && p.entry == e && (tracked || p.wanted == t)
  if tracked then
    let x : TEntry := sget {} s.slc.entries e
    if x.used && decide (x.domain = d ∧ x.state = .scheduled ∧ x.tFire ≤ s.tb.now + ns 1000000) && !held 0 then
      some (x.config, 0, x.tFire) else none
  else ((firings s d e).find? fun x =>
    decide (x.2.1 ≤ s.tb.now + ns 10000) && (slcDom s d).stillDue x.2.1 && !held x.2.1).map fun x => (x.2.2, x.1, x.2.1)

/-- An entry prepared: its record is read (R182, R199). -/
def readEntry (tracked : Bool) (d e : Nat) (w : Nat × Nat × Time) (s : State) : State :=
  let s := tagEnter none (some (tracked, d, e)) s
  let s := withSlc (fun v => { v with prep := v.prep ++ [⟨tracked, d, e, w.2.1, cfgOf s.fab w.1, if tracked then 0 else w.2.2⟩] }) s
  tagStage (tagOfEntry tracked d e) 1 s

/-- Of the entries that wait for room, the one with the earliest T_close is prepared (R199). -/
def fillPrep (s : State) : State :=
  let due := s.slc.prepWait.filterMap fun x => (toPrepare s x.1 x.2.1 x.2.2).map fun w => (x, w)
  if 256 ≤ s.slc.prep.length then s
  else
    match due.foldl (fun m x => match m with
      | none => some x
      | some y => if x.2.2.2 < y.2.2.2 then some x else some y) none with
    | some (x, w) => readEntry x.1 x.2.1 x.2.2 w (withSlc (fun v => { v with prepWait := v.prepWait.filter (· != x) }) s)
    | none => withSlc (fun v => { v with prepWait := [] }) s

/-- Prepared entries dropped; those that wait for room take their places. -/
def dropPreps (f : Prep → Bool) (s : State) : State :=
  let s := withSlc (fun x => { x with prep := x.prep.filter fun p => !f p }) s
  forEach s.slc.prepWait s fun s _ => fillPrep s

/-- Preparations given up: the requests of these entries end here, so that none of them stays tagged (R371). -/
def giveUpPreps (f : Prep → Bool) (s : State) : State :=
  dropPreps f (forEach (s.slc.prep.filter f) s fun s p => tagEnd (tagOfEntry p.tracked p.domain p.entry) s)

/-- A prepared entry is dropped. -/
def dropPrep (tracked : Bool) (d e : Nat) (s : State) : State :=
  giveUpPreps (fun p => p.tracked == tracked && p.domain == d && p.entry == e) s

/-- A prepared entry is done with. -/
def donePrep (d : Due) (s : State) : State :=
  dropPreps (fun p => p.tracked == d.tracked && p.domain == d.domain && p.entry == d.entry && (d.tracked || p.wanted == d.wanted)) s

/-- A prepared entry ends without being armed. -/
def endPrep (d : Due) (s : State) : State := tagEnd (tagOfEntry d.tracked d.domain d.entry) (donePrep d s)

/-- A tracked entry takes a state and is mirrored. -/
def setEntryState (n : Nat) (st : EState) (s : State) : State :=
  let s := modEntry n (fun e => { e with state := st, missed := false, lost := false }) s
  mirror (.entry n (some (sget {} s.slc.entries n))) s

/-- An entry passed over (R198, R203). -/
def skipEntry (d : Due) (s : State) : State :=
  let s := modDom d.domain (fun v => { v with skipped := satInc v.skipped }) (endPrep d s)
  let s := if d.tracked then setEntryState d.entry .skipped s else s
  ev 279 (postEntry d 5 none 0xFFFFFFFF s)

/-- An entry refused (R186): the domain keeps its connections, and its window yields no usable interval for the ports whose applied
connection differs from the configuration's (R221). -/
def refuseEntry (d : Due) (r : CfgRec) (s : State) : State :=
  let s := modDom d.domain (fun v => { v with refused := satInc v.refused, armedTo := if d.tracked then v.armedTo else some d.wanted })
    (endPrep d s)
  let s := if d.tracked then setEntryState d.entry .refused s
    else
      let v := slcDom s d.domain
      let c? := if v.waiting && decide (v.start ≤ d.wanted) then calWaiting v else calActive v
      match c? with
      | some c =>
        let ports := (domPorts s.part s.fab d.domain).filter fun n =>
          decide (connUnder s.part s.fab s.fab.conns none n ≠
            (egOf r.conn n).map fun e => (e, (pathCells s.part r.cells n).map fun x => (x, r.cells.getLsbD x)))
        withWeir (fun w => { w with refusals := w.refusals ++ [(d.domain, d.wanted, c.start d.cycle (d.entry + 1), mapOf 256 ports)] }) s
      | none => s
  ev 280 (postEntry d 6 none 0xFFFFFFFF s)

/-! ### Arming (R199 to R203) -/

/-- The record that an entry applies: the one read at its preparation, else the one stored now (R182). -/
def recordFor (s : State) (d : Due) : CfgRec :=
  ((s.slc.prep.find? fun p => p.tracked == d.tracked && p.domain == d.domain && p.entry == d.entry &&
      (d.tracked || p.wanted == d.wanted)).map (·.record)).getD
    (cfgOf s.fab d.config)

/-- What the entries of an arming have come to so far: entries applied with their records, refused ones, and the target. -/
structure Joint where
  applied : List (Due × CfgRec) := []
  refused : List (Due × CfgRec) := []
  cells   : CellMap
  conns   : ConnMap
  deriving DecidableEq, Repr

/-- One more entry checked against the applied state with the targets of those before it (R201). -/
def Joint.add (p : Part) (f : Fab) (j : Joint) (d : Due) (r : CfgRec) : Joint :=
  if r.valid && compatible p f r j.cells j.conns then
    let (c, m) := targetOf f r j.cells j.conns
    { j with applied := j.applied ++ [(d, r)], cells := c, conns := m }
  else { j with refused := j.refused ++ [(d, r)] }

/-- The entries armed together with a given one: by equal window start or firing instant, by an advance of R202, or by being due; of each
domain the last is armed and the others are skipped. -/
def dueWith (s : State) (d : Due) : List Due × List Due :=
  let t := d.armAt s.tb.now
  let tc := max t (earliestClose s s.fab.recon false)
  let cals := (List.range 16).filterMap fun k =>
    if d.tracked == false && d.domain == k then some d else (firingAt s k d.wanted).or (firingAt s k t)
  let tracked := ((committed s).filter fun e => decide (e.2.state = .scheduled) &&
    (e.2.lost || decide (e.2.tFire < tc + ns (s.jets.gap.toNat + 240))) && decide (discOf s.fab.dom e.2.domain = .tracked)).map
      fun e => trackedDue s e.1 e.2
  let byDom := (List.range 16).filterMap fun k => splitLast (tracked.filter fun x => x.domain == k)
  ((cals ++ byDom.map (·.1)).mergeSort fun a b => decide (a.domain ≤ b.domain), byDom.flatMap (·.2))

/-- What the reconfiguration keeps of an entry that it applies. -/
def Due.kept (d : Due) (tClose : Time) : Applied :=
  { tracked := d.tracked, domain := d.domain, entry := d.entry, config := d.config, cycle := BitVec.ofNat 32 d.cycle, wanted := d.wanted,
    seqUsed := d.seqUsed, train := d.train, advanced := d.tracked && !d.overtaken && decide (tClose < d.wanted), short := d.short,
    overtaken := d.overtaken }

/-- A configuration applied as stored although a failed cell that it uses is not routed around yet: counted and notified (R54). -/
def countFired (n : Nat) (s : State) : State :=
  if (sget [] s.fab.cellPend n).isEmpty then s
  else
    let k := min 0xFFFFFFFF (sget 0 s.fab.fired n + 1)
    notify 0xE (le 2 n ++ le 1 2 ++ zeros 1 ++ le 4 k) { s with fab := { s.fab with fired := sset 0 s.fab.fired n k } }

/-- An entry handed to the sequencers: its state, position and counts; one whose reconfiguration makes no writes has fired (R126,
R197). -/
def markArmed (r : Reconf) (d : Due) (s : State) : State :=
  let s := ev 278 (donePrep d s)
  let s := if d.tracked then
      let s := if d.short then modTrain d.train (fun t => { t with short := satInc t.short }) s else s
      let s := modEntry d.entry (fun e => { e with reconf := some r.seq, short := d.short, overtaken := d.overtaken }) s
      setEntryState d.entry (if r.noWrites then .fired else .armed) s
    else modDom d.domain (fun v => { v with armedTo := some d.wanted }) s
  countFired d.config (tagArm (tagOfEntry d.tracked d.domain d.entry) r.seq s)

/-- An entry armed now with all that fall together with it (R199, R201). -/
def armDue (d : Due) (s : State) : State :=
  let (ds, skipped) := dueWith s d
  let s := forEach skipped s fun s x => skipEntry x s
  let j := ds.foldl (fun (j : Joint) x => j.add s.part s.fab x (recordFor s x)) { cells := effCells s.fab, conns := effConns s.fab }
  let s := forEach j.refused s fun s x => refuseEntry x.1 x.2 s
  match j.applied with
  | [] => s
  | (first, _) :: rest =>
    let wanted := rest.foldl (fun t x => min t x.1.wanted) first.wanted
    let t := d.armAt s.tb.now
    let tc := max t (earliestClose s s.fab.recon false)
    let hidden := j.applied.foldl (fun m x => m ||| hiddenPorts s.part s.fab x.1.config x.2) 0
    let target : Target :=
      { source := if first.tracked then 2 else 1, origin := if first.tracked then .tracked else .calendar,
        config := if rest.isEmpty then BitVec.ofNat 32 first.config else 0xFFFFFFFF,
        entries := j.applied.map fun x => x.1.kept tc, cells := j.cells, conns := j.conns, wanted := wanted, hidden := hidden }
    let op := effOpen (valvesLive s.sys) s.fab.openPorts s.fab.recon
    let r := formed s (effCells s.fab) (effConns s.fab) op target s.fab.seq tc
    let s := placeReconf r s
    forEach j.applied s fun s x => markArmed r x.1 s

/-- The entry that an ENTRY_ARM of an instant names, where it is due: its arming instant has come, and it is neither armed nor done. -/
def dueSince (t0 : Time) (s : State) (tracked : Bool) (d e : Nat) : Option Due :=
  if tracked then
    let x : TEntry := sget {} s.slc.entries e
    if x.used && decide (x.domain = d ∧ x.state = .scheduled) && (x.lost || decide (x.tFire ≤ s.tb.now + armLead + ns 2)) then some (trackedDue s e x)
    else none
  else
    ((firingsFrom s t0 d e).find? fun x => decide (x.2.1 ≤ s.tb.now + armLead + ns 2) && (slcDom s d).stillDue x.2.1).map
      fun x => ⟨false, d, e, x.2.2, x.1, x.2.1, 0, 0xFF, false, false, 0⟩

/-- The entry that an ENTRY_ARM names now. -/
abbrev dueNow (s : State) (tracked : Bool) (d e : Nat) : Option Due := dueSince s.tb.now s tracked d e

/-- A re-check of compatibility may still run: it takes at most 500 ns (R200). -/
def recheckRuns (s : State) : Bool :=
  match s.slc.recheckAt with
  | some t => decide (s.tb.now < t + ns 500)
  | none => false

/-- An arming asked for at an instant: made, or put behind the re-check that runs (R199, R200). -/
def armSince (t0 : Time) (tracked : Bool) (d e : Nat) (s : State) : State :=
  if !sluiceRuns s then s
  else
    match dueSince t0 s tracked d e with
    | some x => if recheckRuns s then withSlc (fun v => { v with recheck := v.recheck ++ [(tracked, d, e, t0)] }) s else armDue x s
    | none => s

/-- ENTRY_ARM (R199, R200). -/
abbrev entryArmNow (tracked : Bool) (d e : Nat) (s : State) : State := armSince s.tb.now tracked d e s

/-- RECHECK_DONE (R200): the armings that wait for it proceed, each for the window that it was asked for. -/
def recheckOver (s : State) : State :=
  let w := s.slc.recheck
  forEach w (withSlc (fun v => { v with recheckAt := none, recheck := [] }) s) fun s x => armSince x.2.2.2 x.1 x.2.1 x.2.2.1 s

/-- ENTRY_PREPARE (R199): the entry's record is read and checked; at 256 prepared entries OVERFLOW is set, and the entry waits for
room. -/
def prepareEntry (tracked : Bool) (d e : Nat) (s : State) : State :=
  if !sluiceRuns s then s
  else
    match toPrepare s tracked d e with
    | some w =>
      if 256 ≤ s.slc.prep.length then
        let s := if s.slc.overflow then s else raise 191 s
        withSlc (fun v => { v with overflow := true
                                   prepWait := if v.prepWait.contains (tracked, d, e) then v.prepWait else v.prepWait ++ [(tracked, d, e)] }) s
      else readEntry tracked d e w s
    | none => s

/-! ### Calendars at run time (R192 to R194) -/

/-- A window entered: its position is taken, and it has fired. -/
def enterWindow (k i : Nat) (v : SlcDom) : SlcDom := { v.goTo k i with unfired := false }

/-- CALENDAR_START (R192): the shadow bank becomes active; without the conditions of R181 the calendar is suspended at once. CYC_WRAP stays as
it is at a first cycle of 2^32 or more: no CYCLE_NO has been passed on the way to it (DESIGN CHOICE, log entry 137). -/
def startCalendar (d : Nat) (s : State) : State :=
  match calWaiting (slcDom s d) with
  | some c =>
    let v := slcDom s d
    let s := reach v.start s
    let run := sluiceRuns s
    let s := modDom d (fun v =>
      { v with abank := !v.abank, waiting := false, state := if run then .running else .suspended,
               follows := !roleLit s.sys.role, entry := 0, cycle := v.startCycle,
               firstCycle := v.startCycle, startConn := s.fab.conns, resume := none,
               unfired := !run && roleLit s.sys.role }) s
    let s := refit d c s.fab.conns s
    notifyCal {} d 0 v.start s
  | none => s

/-- CALENDAR_WINDOW (R188, R189): the next window begins; not beyond the start of a waiting calendar. -/
def passWindow (d : Nat) (s : State) : State :=
  let v := slcDom s d
  match calActive v with
  | some c =>
    let (k, i) := c.next v.cycle v.entry.toNat
    let t := c.start k i
    if v.state = .running ∧ !(v.waiting ∧ v.start ≤ t) then modDom d (enterWindow k i) (reach t s) else s
  | none => s

/-- CALENDAR_RESUME (R194): windows passed in between are counted and reported as skipped. -/
def resumeCalendar (d : Nat) (s : State) : State :=
  let v := slcDom s d
  match calActive v, v.resume with
  | some c, some t =>
    if v.state = .suspended ∧ sluiceRuns s then
      let s := reach t s
      let (k, i) := c.at t
      let from_ := v.cycle * c.count + v.entry.toNat + flag (!v.unfired)
      let missed := k * c.count + i - from_
      let s := modDom d (fun v => { enterWindow k i v with state := .running, resume := none, skipped := satAdd v.skipped missed }) s
      let s := forEach (List.range missed) s fun s j =>
        let x := from_ + j
        let e := x % c.count
        ev 279 (postEntry ⟨false, d, e, (c.cfg e).getD 0, x / c.count, c.start (x / c.count) e, 0, 0xFF, false, false, 0⟩ 5 none 0xFFFFFFFF s)
      notifyCal {} d 3 t s
    else s
  | _, _ => s

/-- A unit that lets light out from now on takes each calendar that ran on its partner at the window in force, which it derives from
BASE, CYCLE and its own device time (R242). -/
def ownPositions (s : State) : State :=
  forEach (List.range 16) s fun s d =>
    if (slcDom s d).follows && (calActive (slcDom s d)).isSome then modDom d (fun v => { v.position s.tb.now with follows := false }) s
    else s

/-- The Sluice is stopped (R194): running calendars are suspended, and preparations and grants not yet sent are given up. -/
def sluiceStops (s : State) : State :=
  let s := weirSilence (forEach s.slc.prep s fun s p => tagEnd (tagOfEntry p.tracked p.domain p.entry) s)
  let s := withSlc (fun v => { v with prep := [], prepWait := [], recheckAt := none, recheck := [],
                                      dom := v.dom.map fun e => (e.1, { e.2 with armedTo := none }) }) s
  forEach (List.range 16) s fun s d =>
    let v := slcDom s d
    if v.state = .running then notifyCal {} d 2 s.tb.now (modDom d (fun v => { v with state := .suspended, resume := none }) s)
    else if v.state = .suspended ∧ v.resume.isSome then modDom d (fun v => { v with resume := none }) s
    else s

/-- A suspended calendar of domain `d` resumes at its first window that starts at `t` or later (R194). -/
def resumeFrom (t : Time) (d : Nat) (s : State) : State :=
  match calActive (slcDom s d) with
  | some c =>
    if (slcDom s d).state = .suspended then
      let at' := c.atOrAfter t
      modDom d (fun v => { v with resume := some (c.start at'.1 at'.2) }) s
    else s
  | none => s

/-- The Sluice may fire: the scheduled entries that the stop kept from being armed in time are noted (R198), and each suspended calendar is
given the window start at which it resumes (R194). -/
def sluiceStarts (s : State) : State :=
  let late := fun (e : TEntry) => decide (e.used ∧ e.state = .scheduled ∧ e.tFire < s.tb.now + armLead)
  let s := withSlc (fun v => { v with entries := v.entries.map fun e => (e.1, { e.2 with missed := late e.2 }) }) s
  forEach (List.range 16) s fun s d => resumeFrom (s.tb.now + ns 50000) d s

/-- A calendar stopped: no active and no waiting calendar, its ports' requests withdrawn (R194, R227). -/
def stopCalendar (about : About) (d : Nat) (event : Nat) (s : State) : State :=
  let was := slcDom s d
  let s := if calLive was then withdraw d s else s
  let s := modDom d (fun v => { v with state := if was.state = .running ∨ was.state = .suspended then .stopped else
    if was.state = .waiting then .none else was.state, waiting := false, resume := none, armedTo := none }) s
  notifyCal about d event s.tb.now (giveUpPreps (fun p => !p.tracked && p.domain == d) s)

/-- A waiting calendar withdrawn (R296): it never starts. -/
def withdrawWaiting (d : Nat) (s : State) : State :=
  let was := slcDom s d
  if was.waiting then
    let s := if was.state = .waiting then withdraw d s else s
    let s := mirror (.calendar d (!was.abank) was.shadow false was.start was.startCycle) s
    let s := giveUpPreps (fun p => !p.tracked && p.domain == d && decide (was.start ≤ p.wanted)) s
    modDom d (fun v => { v with waiting := false, state := if v.state = .waiting then .none else v.state }) s
  else s

/-! ### Stops and positions (R297, R242) -/

/-- A calendar entry of a domain is armed and has not fired. -/
def calArmed (s : State) (d : Nat) : Bool :=
  s.fab.recon.any fun r => decide (r.phase = .armed) && r.entries.any fun e => !e.tracked && e.domain == d

/-- A bank of a domain's calendar as the mirror carries it (R242). -/
def calendarItem (s : State) (d : Nat) (shadow commit : Bool) : Item :=
  let v := slcDom s d
  .calendar d (v.abank != shadow) (if shadow then v.shadow else v.active) commit v.start (if shadow then v.startCycle else v.firstCycle)

/-- A CAL_STOP takes effect: a window or calendar that begins with the entry just fired has begun, the calendar stops, and the
position at the stop is answered. -/
def takeStop (d k : Nat) (s : State) : State :=
  let v := slcDom s d
  let s := if v.waiting && decide (v.start ≤ s.tb.now) then startCalendar d s
    else match calActive v with
      | some c => let (n, i) := c.next v.cycle v.entry.toNat; if c.start n i ≤ s.tb.now then passWindow d s else s
      | none => s
  let v := slcDom s d
  let s := if calLive v then mirror (calendarItem s d false false) (stopCalendar (aboutSlot s (some k) 0) d 4 s) else s
  finishSlot k 0 (le 4 (v.position s.tb.now).cycle ++ le 2 (v.position s.tb.now).entry.toNat ++ zeros 2) (modDom d (fun v => { v with stopAfter := none }) s)

/-- Every CAL_STOP that no armed entry holds up any more. -/
def takeStops (s : State) : State :=
  forEach (List.range 16) s fun s d =>
    match (slcDom s d).stopAfter with
    | some k => if calArmed s d then s else takeStop d k s
    | none => s

/-- Calendar positions of every domain, as CAL_POS mirrors them. -/
def calPositions (s : State) : List CalPos :=
  (List.range 16).map fun d => let v := (slcDom s d).position s.tb.now; ⟨v.state, v.abank, v.entry.toNat, BitVec.ofNat 32 v.cycle⟩

/-- A change of some CAL_STATE is mirrored (R242). -/
def tellPositions (a s : State) : State :=
  if (calPositions a).map (·.state) = (calPositions s).map (·.state) then s else mirror (.calPos (calPositions s)) s

end Sys2Proof.Machine
end

