-- ==== Sys2Proof/Machine/Commit.lean ====
section
/-! DEFINITION. What follows from a change of state wherever it was made: degraded conditions, valves, role and Sluice edges, events
routed, status bits and their notifications. Every command's meaning ends with it. -/

namespace Sys2Proof.Machine

/-- Egress ports whose valve an armed or running reconfiguration holds closed now (R129). -/
def inGap (f : Fab) : PortMap :=
  f.recon.foldl (fun m r => if r.phase = .closed ∨ r.phase = .dark then m ||| r.closure ||| r.opening else m) 0

/-- Egress ports of the applied connections whose paths are whole, but for those that a failure or a dark gap blocks. -/
def wholePorts (s : State) : PortMap :=
  egrPorts (s.fab.conns.filter fun e => !darkConn s.part s.fab s.fab.cells e) &&& ~~~(s.fab.failed ||| inGap s.fab)

/-- Egress ports of the applied connections that pass light: no insertion blocks them either. -/
def openPortsOf (s : State) : PortMap := wholePorts s &&& ~~~(insertBlocked s)

/-- The valves of a set of egress ports opened, those that are not open yet. -/
def openValves (m : PortMap) (s : State) : State :=
  forEach (ones s.part.ports (m &&& ~~~s.fab.openPorts)) s fun s n => writeValve n true s

/-- The response to a mode command whose change is made and whose round is over, with MODE and ROLE as they then are (R17, R287). -/
def answerMode (s : State) : State :=
  match s.sys.trans.filter fun t => t.made && decide (t.round ≠ s.jets.round) with
  | some t =>
    finishSlot t.slot 0 (le 1 (modeCode s.sys.mode) ++ le 1 (roleCode s.sys.role) ++ zeros 2)
      { s with sys := { s.sys with trans := none } }
  | none => s

/-- What holds after every change: Degraded (R14, R16), Solo (R237, R431), closed valves (R13, R148). -/
def rules (s : State) : State :=
  let s := soloRule (settleDegraded (answerMode s))
  if valvesLive s.sys then s else blockValves s

/-- The edges between the state before a change and after it: Maintenance left (R306, R89), the Weir at a change of role (R230). A Solo unit
that becomes Active because its partner appears (R237) keeps its queues, meters and next_free: R230 speaks of the instant of promotion, and
of a unit that was not Active before (DESIGN CHOICE, log entry 135). -/
def edgesOfRole (a s : State) : State :=
  let s := if decide (a.sys.mode = .maintenance) && !decide (s.sys.mode = .maintenance) then leaveMaintenance s else s
  if roleLit a.sys.role && !roleLit s.sys.role then weirClear s
  else if !roleLit a.sys.role && roleLit s.sys.role then ownPositions (weirFresh s) else s

/-- The edges of the Sluice's conditions (R194). -/
def edgesOfSluice (s : State) : State :=
  let run := sluiceRuns s
  withSlc (fun v => { v with ran := run }) (if run == s.slc.ran then s else if run then sluiceStarts s else sluiceStops s)

/-- ROLE_IN seen while eligible (R237), and the event of a change of role. -/
def edgesOfPair (a s : State) : State :=
  let s := { s with cld := { s.cld with armedBy := eligible s.sys && (s.cld.armedBy || roleIn s) } }
  if a.sys.role = s.sys.role then s else ev 291 s

/-- The rules that hold after every change, and then its edges. -/
def edges (a s : State) : State := edgesOfPair a (edgesOfSluice (edgesOfRole a (rules s)))

/-- The safe line's rise freezes the counters and takes a snapshot (R370). -/
def safeCounters (a s : State) : State := if !a.dike.safeLine && s.dike.safeLine then pmonFreeze true (pmonSnapshot s) else s

/-- Events routed, and the edges of what their tasks did; where these lead to Safe, the counters freeze too. -/
def settle (a s : State) : State :=
  let b := edges a s
  safeCounters b (edges a (routeAll 8 (safeCounters a b)))

/-- MBX_STATUS bits 31:20 without FW_RUN. -/
def statusSeen (s : State) : Nat := statusTop s - flag s.sys.fwRun * 2

/-- The opcodes that can be the cause of a change of status, by what changed: CALIBRATE and the commands that make or end a degraded condition
(CELL_MARK, HEATER_B, FAULT_CLEAR, FAULT_CFG) of the mode, EXCHANGE of the role, TIME_SET of the time state. -/
def statusCauses (a s : State) : List Nat :=
  (if a.sys.mode = s.sys.mode then [] else [0x0104, 0x0207, 0x0307, 0x0901, 0x0902]) ++
    (if a.sys.role = s.sys.role then [] else [0x0803]) ++ if a.tb.ts = s.tb.ts then [] else [0x0700]

/-- The slot whose command changes the mode or the role without being answered by it: SET_MODE as its transition is made, PROMOTE as the unit
becomes Active. -/
def statusSlot (a s : State) : Option Nat :=
  if (s.sys.trans.any (·.made)) && !(a.sys.trans.any (·.made)) then s.sys.trans.map (·.slot)
  else if s.sys.role = .active ∧ a.sys.role ≠ .active then a.pair.promo.bind (·.slot) else none

/-- The command that a change of status is the work of (R276): SET_MODE, PROMOTE, or one that this step has answered and that causes what
changed; none otherwise, and none where a fault has led to Safe (DESIGN CHOICE, log entry 143). -/
def statusAbout (a s : State) : About :=
  if s.sys.mode = .safe ∧ a.sys.mode ≠ .safe then {}
  else
    match statusSlot a s with
    | some k => aboutSlot a (some k) 0
    | none =>
      match a.mbx.cmds.find? fun c => (statusCauses a s).contains c.opcode && !s.mbx.cmds.any c.is with
      | some c => { opcode := c.opcode, seq := c.seq.toNat, slot := c.slot }
      | none => {}

/-- STAT_CHG with its STATUS notification and message. -/
def tellStatus (a s : State) : State :=
  if statusSeen a = statusSeen s then s
  else
    let rise := !s.mbx.statChg
    let s := withMbx (fun m => { m with statChg := true }) s
    let s := if rise then signal 10 s else s
    notifyAt s.tb.now 9 (statusAbout a s) false (le 2 (statusTop a) ++ le 2 (statusTop s) ++ zeros 4) s

/-- FAULT_CHG with its message: a class bit gained, or COUNT risen. -/
def tellFaults (a s : State) : State :=
  let gained := (summaryWord s.dike &&& ~~~(summaryWord a.dike)).toNat / 2 ^ 28 ≠ 0
  if gained ∨ (stickies a.dike).length < (stickies s.dike).length then
    let rise := !s.mbx.faultChg
    let s := withMbx (fun m => { m with faultChg := true }) s
    if rise then signal 9 s else s
  else s

/-- What R433 reports on a change, and on a rise. -/
def pairSeen (s : State) : Nat × Bool × Bool × Bool × Bool × Bool :=
  (roleCode s.sys.role, eligible s.sys, s.cld.linkUp, s.cld.mirrorStale, s.cld.settingMis, s.cld.pairMis)

/-- The W1C bits of CLD_STATUS whose rise R433 reports. -/
def pairFlags (s : State) : W32 := cldStatusWord s &&& (cldW1c &&& ~~~0x00008000)

/-- A change that R433 reports marks the round. -/
def tellPair (a s : State) : State :=
  if pairSeen a ≠ pairSeen s ∨ pairFlags s &&& ~~~(pairFlags a) ≠ 0 then withMbx (fun m => { m with pairDirty := true }) s else s

/-- Events and blackouts that can no longer matter are forgotten, those of a frame's entries to come within the next microsecond among the rest
that stay; grants whose time has come are sent. -/
def trim (s : State) : State :=
  let t := s.tb.now + 1
  let c := s.tb.now / 65536
  weirTrim <| sendDue { s with plat := { s.plat with
    lastEv := s.plat.lastEv.filter fun e => decide (t < e.2 + ns 16 ∧ e.2 ≤ t + ns 1000)
    acts := s.plat.acts.filter fun e => decide (c ≤ e.1 ∧ e.1 < c + 1008) } }

/-- What the host and the partner are told of a change, once the mailbox is wiped. -/
def tell (a s : State) : State := if s.pwr.wiped then tellPair a (tellFaults a (tellStatus a s)) else s

/-- The events that a command's own effect and its edges left, forgotten. -/
def forgetEvents (s : State) : State := { s with plat := { s.plat with events := [] } }

/-- What holds and follows once a command's own effect took `a` to `s`, outside Reset. -/
def settled (a s : State) : State := let t := settle a (takeStops s); settle t t

/-- The state after a command whose own effect took `a` to `s`. In Reset nothing follows. -/
def commit (a s : State) : State :=
  if s.sys.mode = .reset then forgetEvents s
  else trim (forgetEvents (tell a (tellPositions a (settled a s))))

/-- Firmware that runs takes its interrupts and exceptions. -/
def takeIrqs (s : State) : State := if fwLive s then { s with plat := { s.plat with irq := 0, busExc := false } } else s

/-- The state in which a command's own effect begins: nothing has left the device yet, firmware has taken its interrupts, device time has moved
on by `dt`, grants whose span began meanwhile have left (R226), the counters have counted (R367), and a Reset that is due has begun
(R288). -/
def begun (dt : Nat) (s : State) : State := orderedReset (tally (sendDue (elapse dt (takeIrqs { s with out := [] }))))

/-- The state that a command leaves whose own effect took `a` to `b`. The queue is not the command's: it stays as it was. -/
def after (a b : State) : State := { commit a b with pending := a.pending }

/-- A command's meaning: its effect `f` on the state in which it begins, and what follows from it. -/
def run (dt : Nat) (s : State) (f : State → State) : Host.Outcome State Fault Refusal :=
  .next (after (begun dt s) (f (begun dt s)))

end Sys2Proof.Machine
end

