-- ==== Sys2Proof/Machine/Jets.lean ====
section
/-! DEFINITION. The Jets: one round of the device (R91), ladder writes, skip windows, takeovers, the SRAM copy and the drift scan. -/

namespace Sys2Proof.Machine

/-! ### Ladders of loops (R4, R75) -/

/-- The port ladder of an equaliser's or valve's loop. -/
def portIdx (p : Part) (l : Nat) : Nat := if l < p.cells + p.ports then l - p.cells else 256 + (l - p.cells - p.ports)

/-- The heater of a cell's loop that is in use (R34). -/
def htrIdx (c : Nat) (htrB : Bool) : Nat := 2 * c + flag htrB

/-- Ladders changed. -/
def modHtr (n : Nat) (f : Htr → Htr) (s : State) : State := { s with dac := { s.dac with htr := smod {} s.dac.htr n f } }
def modPortDac (n : Nat) (f : PortDac → PortDac) (s : State) : State := { s with dac := { s.dac with port := smod {} s.dac.port n f } }
def modFlip (n : Nat) (f : Flip → Flip) (s : State) : State := { s with dac := { s.dac with flip := smod {} s.dac.flip n f } }
def htrOf (s : State) (n : Nat) : Htr := sget {} s.dac.htr n
def portDacOf (s : State) (n : Nat) : PortDac := sget {} s.dac.port n
def flipOf (s : State) (n : Nat) : Flip := sget {} s.dac.flip n

/-- The code at a loop's ladder. -/
def ladderCode (s : State) (l : Nat) : Nat :=
  if l < s.part.cells then (htrOf s (htrIdx l (loopOf s l).desc.htrB)).code.toNat else (portDacOf s (portIdx s.part l)).code.toNat

/-- A loop's ladder is the Jet's (R77). -/
def ownOf (s : State) (l : Nat) : Bool :=
  if l < s.part.cells then (htrOf s (htrIdx l (loopOf s l).desc.htrB)).own else (portDacOf s (portIdx s.part l)).own

/-- A code written to a heater; it ignores every write in a change of range (R79). -/
def putHtr (n code : Nat) (s : State) : State := modHtr n (fun h => if h.rcBusy then h else { h with code := BitVec.ofNat 16 code }) s

/-- RANGE written to a heater: one that changes it begins a change of range; in one that runs the write is ignored (R79). -/
def turnRange (n : Nat) (range : Bool) (s : State) : State :=
  modHtr n (fun h => if h.rcBusy || h.range == range then h else { h with range := range, rcBusy := true, held := h.code }) s

/-- A cell in condition OPAQUE: its heaters stay at their last codes and its LEVEL is never written again (R42, R430). -/
def frozenCell (s : State) (c : Nat) : Bool := condAt s.fab c == .opaqueCell

/-- A code at a loop's ladder, whoever writes it. -/
def putCode (l code : Nat) (s : State) : State :=
  if l < s.part.cells then putHtr (htrIdx l (loopOf s l).desc.htrB) code s
  else modPortDac (portIdx s.part l) (fun d => { d with code := BitVec.ofNat 14 code }) s

/-- A Jet's write of a code: to a ladder that it owns, and else ignored and answered with an error (R77). -/
def jetWrite (l code : Nat) (s : State) : State := if ownOf s l then putCode l code s else emit .busError s

/-- The owner of a loop's outputs: true for the Jet. A cell's are the heater in use and the flip driver (R77). -/
def setOwn (l : Nat) (jet : Bool) (s : State) : State :=
  if l < s.part.cells then
    modFlip l (fun f => { f with own := jet }) (modHtr (htrIdx l (loopOf s l).desc.htrB) (fun h => { h with own := jet }) s)
  else modPortDac (portIdx s.part l) (fun d => { d with own := jet }) s

/-! ### What is live (R18) -/

/-- A loop's element carries a path of the applied connection set. -/
def onPath (s : State) (l : Nat) : Bool :=
  let p := s.part
  if l < p.cells then s.fab.conns.any fun e => (pathCells p s.fab.cells e.1).contains l
  else if l < p.cells + p.ports then s.fab.conns.any fun e => e.1 == l - p.cells
  else s.fab.conns.any fun e => e.2 == l - p.cells - p.ports

/-- The Jet that computes a loop: the spare that has taken its own Jet over, or that Jet (R121). -/
def runnerOf (s : State) (l : Nat) : Nat := let j := jetOfLoop s.part l; (jetOf s j).takenBy.getD j

/-- LOCK of a loop is about to clear: its Jet's event (R116, *Table — Event sources*). -/
def lockEvent (l : Nat) (s : State) : State := if (loopOf s l).lock then ev (204 + runnerOf s l) s else s

/-- A loop stopped where it stands: disabled, its outputs the processor's, its codes as they are. -/
def freezeLoop (l : Nat) (s : State) : State :=
  modLoop l (fun v => { unlock v with enabled := false, ramp := .none, ramping := false, desc := { v.desc with en := false } })
    (setOwn l false (lockEvent l s))

/-- A loop disabled: its Jet enters shutdown (R111). -/
def stopLoop (l : Nat) (s : State) : State :=
  modLoop l (fun v => if v.enabled then
    { unlock v with enabled := false, ramp := .shutdown, ramping := true, desc := { v.desc with en := false } } else v) (lockEvent l s)

/-! ### Taps (R91, R113, R133) -/

/-- The reconfigurations that have made their writes at T_dark. -/
def pastDark (f : Fab) : List Reconf := f.recon.filter fun r => decide (r.phase = .dark ∨ r.phase = .opened ∨ r.phase = .judged) && !r.noWrites

/-- A loop's latest result on a tap channel, where it can be used: tagged valid, its window complete at the round start, and for a
flipping cell clear of [T_dark, T_dark + 600 ns). -/
def tapOf (s : State) (l ch : Nat) : Option Result :=
  let j := jetOfLoop s.part l
  let w := wellOf s ((jetOf s j).wellSel.getD j)
  let r : Result := sget {} w.result ch
  let e := r.start + ns 1000 * 2 ^ (chanOf w ch).avgK.toNat
  let hit := decide (l < s.part.cells) && (pastDark s.fab).any fun x =>
    x.flips.getLsbD l && decide (r.start < tDarkOf x.tClose + ns 600 ∧ tDarkOf x.tClose < e)
  if wellServes w && decide (r.tag = .valid ∧ e ≤ s.tb.now) && !hit then some r else none

/-- A loop's tap channels: bar and cross of a cell, one of a port element. -/
def tapsOf (s : State) (l : Nat) : Option Result × Option Result :=
  let k := slotOfLoop s.part l
  if k < 32 then (tapOf s l (2 * k), tapOf s l (2 * k + 1)) else (tapOf s l (k + 32), none)

/-- A loop has computed, and the results that it has used began at or after T_dark + 600 ns (R142). -/
def cleanFor (s : State) (r : Reconf) (l : Nat) : Bool :=
  let ok := fun x : Option Result => match x with
    | some v => decide (tDarkOf r.tClose + ns 600 ≤ v.start)
    | none => false
  (jetOf s (runnerOf s l)).run && match kindOf s.part l, tapsOf s l with
  | .cell, (a, b) => ok a && ok b
  | .equaliser, (a, _) => ok a || !(loopOf s l).levelled || decide ((loopOf s l).desc.setpt = 0)
  | _, _ => decide (tDarkOf r.tClose ≤ s.tb.now)

/-! ### Parts of a round start (R91) -/

/-- A pending rate takes effect: AVG_K of the channels of enabled loops, every increment, and the frames' alignment (R63, R84, R92). -/
def rateStart (s : State) : State :=
  match s.jets.newRate with
  | none => { s with jets := { s.jets with rateHold := false } }
  | some r =>
    let p := s.part
    let lit := fun (w : Nat) (v : Well) (ch : Nat) => match loopOfChan p w v ch with
      | some l => (loopOf s l).enabled
      | none => false
    let k := BitVec.ofNat 4 (min 2 r.toNat)
    { s with
      jets := { s.jets with rate := r, newRate := none, rateHold := true,
                            fnt := s.jets.fnt.map fun e => (e.1, if e.1 < s.part.loops then { e.2 with inc := slotInc e.2.slot.toNat r } else e.2) }
      wells := smap {} (p.jets + p.spares) s.wells fun w v =>
        (List.range 72).foldl (fun v ch =>
          if lit w v ch && decide ((chanOf v ch).avgK ≠ k) then applyChan ch { chanOf v ch with avgK := k } v else v) { v with frame := 0 } }

/-- Bank swaps and parameter writes of a loop at a round start (R108, R123). -/
def paramStart (v : Loop) : Loop :=
  let v := if v.swap then { v with swap := false, desc := { v.desc with abank := !v.desc.abank } } else v
  { v with desc := { v.desc with lightMin := v.setLight.getD v.desc.lightMin, setpt := v.setSetpt.getD v.desc.setpt,
                                 rampStep := v.setRamp.getD v.desc.rampStep, lockBand := v.setLock.getD v.desc.lockBand },
           setLight := none, setSetpt := none, setRamp := none, setLock := none }

/-- A test generator at a round start. -/
def testStart (t : TestGen) : TestGen := if t.on then { t with acc := t.acc + t.inc, rounds := t.rounds + 1 } else t

/-- The Fountains advance (R83, R87). -/
def fountainStart (s : State) : State :=
  { s with jets := { s.jets with
      fnt := s.jets.fnt.map fun e => (e.1, fntAdvance e.2)
      regs := s.jets.regs.map fun e => (e.1, { e.2 with test := testStart e.2.test }) } }

/-- The heat word of a flip segment at a level (R100); of a product that does not fit its 16 bits the spec states no value (log entry
18). -/
def levelHeat (s : State) (c : Nat) (level : Bool) : Nat :=
  let p := (flipOf s c).iset.toNat * (sget {} s.cal.flip c : FlipCal).flipHeat
  if level then (if p < 65536 then p else Config.outside 16 p % 65536) else 0

/-- The reconfigurations whose T_dark lies in the round in progress and that flip a cell in it (R135). -/
def flipsInRound (s : State) (c : Nat) : List Reconf :=
  s.fab.recon.filter fun r =>
    decide (r.phase ≠ .abandoned) && !r.noWrites && r.flips.getLsbD c && !flipRefused s c &&
      decide (s.jets.roundAt ≤ tDarkOf r.tClose ∧ tDarkOf r.tClose < s.jets.roundAt + roundTime s.jets.rate)

/-- LEVEL of a cell as its round began: before the first of the round's flips that is made already. -/
def levelAtRound (s : State) (c : Nat) : Bool :=
  match (flipsInRound s c).find? fun r => decide (r.phase ≠ .armed ∧ r.phase ≠ .closed) with
  | some r => !r.cells.getLsbD c
  | none => (flipOf s c).level

/-- A flip segment's heat word of the round in progress: time-weighted in the round that contains its T_dark, and the level's in any
other (R100, R135; log entry 108). -/
def flipHeatOf (s : State) (c : Nat) : BitVec 16 :=
  let rt := roundTime s.jets.rate
  let old := levelAtRound s c
  let (w, _) := (flipsInRound s c).foldl (fun (a : Int × Bool) r =>
    let level := r.cells.getLsbD c
    let d : Int := (levelHeat s c level : Int) - levelHeat s c a.2
    (a.1 + nearest (d * (s.jets.roundAt + rt - tDarkOf r.tClose : Nat)) rt, level)) ((levelHeat s c old : Int), old)
  BitVec.ofInt 16 (clampI 0 65535 w)

/-- The flip heat words of the cells that have just flipped, with those that the round start could not foresee (R135). -/
def reheat (cells : CellMap) (s : State) : State :=
  forEach (ones s.part.cells cells) s fun s c => modLoop c (fun v => { v with flipHeat := flipHeatOf s c }) s

/-- The code a heater ladder puts out: 0 in a change of range (R79). -/
def htrOutput (h : Htr) : BitVec 16 := if h.rcBusy then 0 else h.code

/-- The heat word of the heater in use of a cell (R100). -/
def heaterWord (s : State) (c : Nat) (v : Loop) : BitVec 16 :=
  let n := htrIdx c v.desc.htrB
  let h := htrOf s n
  Config.heaterHeat (htrOutput h).toNat h.range (sget {} s.cal.htr n).resist

/-- A loop's heat words published (R100, R134). -/
def heatStart (s : State) (l : Nat) (v : Loop) : Loop :=
  match v.desc.kind with
  | .cell => { v with flipHeat := flipHeatOf s l, heat := heaterWord s l v }
  | .valve => let n := portIdx s.part l; { v with heat := Config.valveHeat n (valveOutput (portDacOf s n)).toNat }
  | _ => v

/-- Every loop changed by a function of its number; loops that come to the default are not listed. -/
def mapLoops (f : Nat → Loop → Loop) (s : State) : State :=
  { s with jets := { s.jets with loops := s.jets.loops.filterMap fun e => let v := f e.1 e.2; if v = {} then none else some (e.1, v) } }

/-- An injection on a target that has become live is stopped, and reported in the notification of its command (R89). -/
def liveStop (s : State) : State :=
  let s := forEach s.jets.regs s fun s e =>
    if e.2.test.on && onPath s e.2.test.loop then
      notifyAt s.tb.now 1 { opcode := 0x0A03, seq := e.2.test.seq.toNat, status := 0x0A20, slot := e.2.test.slot } false []
        (modJet e.1 (fun j => { j with test := { j.test with on := false } }) s)
    else s
  forEach s.wells s fun s e =>
    if e.2.injOn && onPath s e.2.injLoop then
      notifyAt s.tb.now 1 { opcode := 0x0A03, seq := e.2.injSeq.toNat, status := 0x0A20, slot := e.2.injSlot } false []
        (modWell e.1 wellInjOff s)
    else s

/-- A cell's descriptor as heater B takes over (R336, log entry 30): BASE and INTEG within heater B's window, demodulation cleared. -/
def descOnB (q : HtrCal) (d : Desc) : Desc :=
  let phi : Int := d.base.toNat + d.integ.toNat
  let base := clampI q.baseMin q.baseMax (phi - 2 ^ 31)
  { d with htrB := true, iAcc := 0, qAcc := 0, base := BitVec.ofInt 40 base, integ := BitVec.ofInt 32 (phi - base) }

/-- One cycle of wear in the units of the folded sum: 131,072 of swing, each worth 64,000 of dose (R331). -/
abbrev wearCycle : Nat := 8388608000

/-- The accumulators of a cell folded into its counts, for the heater in use; what is short of a cycle stays (R329 to R331). -/
def foldWear (onB : Bool) (w : Wear) : Wear :=
  let sum := w.swing * 64000 + w.dose
  let k := sum / wearCycle
  let w := { w with flips := satAdd w.flips w.addFlips, addFlips := 0, swing := 0, dose := sum % wearCycle }
  if onB then { w with wearB := satAdd w.wearB k } else { w with wearA := satAdd w.wearA k }

/-- The remap round of an insertion (R335): the cell goes over to heater B at the held phase, in NORMAL range; where heater B stands in
EXTENDED range that is a change of range, with the interval of R79. What heater A has accrued short of a cycle is not heater B's (R331). -/
def remapB (c : Nat) (s : State) : State :=
  let d := (loopOf s c).desc
  let q := htrCalOf s.cal c true
  let code := (clampCode 65535 (lin (linTable q false) (d.base.toNat + d.integ.toNat))).1
  let own := (htrOf s (2 * c)).own
  let s := { s with wear := smod {} s.wear c fun w => { foldWear false w with hf := 0, dose := 0 } }
  let s := modHtr (2 * c) (fun h => { h with own := false }) (putHtr (2 * c) 0 s)
  let s := modHtr (2 * c + 1) (fun h => { h with own := own }) (putHtr (2 * c + 1) code (turnRange (2 * c + 1) false s))
  let last := (htrOf s (2 * c + 1)).code
  let s := modLoop c (fun v => { v with segs := [], desc := { descOnB q v.desc with lastCode := last } }) s
  let s := { s with
    jets := { s.jets with sram := smod {} s.jets.sram c fun v => { v with desc := { v.desc with htrB := true } } }
    fab := { s.fab with inserts := s.fab.inserts.map fun (i : Insert) => if i.cell = c then { i with remapped := true } else i } }
  ev 299 (changeCond c (fun b => b ||| 4) s)

/-- Insertions whose remap round this is (R335). -/
def remapsNow (s : State) : List Nat :=
  (s.fab.inserts.filter fun i => i.running && !i.remapped && decide (i.tIns + ns 120 ≤ s.tb.now)).map (·.cell)

/-! ### The loops of a round -/

/-- What a loop reads in this round; `done` are the slots that its Jet has computed before it, as they now stand (R91). -/
def roundIn (s : State) (done : Sparse Loop) (late held swapped : List Nat) (l : Nat) (v : Loop) : RoundIn :=
  let j := jetOfLoop s.part l
  let x := jetOf s (runnerOf s l)
  let h := htrOf s (htrIdx l v.desc.htrB)
  let (a, b) := tapsOf s l
  { part := s.part, cal := s.cal, loops := done ++ s.jets.loops, own := l, fnt := sget {} s.jets.fnt l, cap := x.cap,
    test := if x.test.loop = l then testSignal x.test else 0, first := a, second := b, code := ladderCode s l,
    ext := decide (l < s.part.cells) && h.range,
    hold := (jetOf s j).remap || s.jets.rateHold || (decide (l < s.part.cells) && h.rcBusy) || held.contains l,
    late := late.contains l, swapped := swapped.contains l, inCal := decide (s.sys.mode = .calibrate) }

/-- A disabled loop with a test signal: base code plus signal each round (R87), and whether the ladder's end limits it. -/
def testCode (s : State) (l : Nat) (v : Loop) : Option (Nat × Bool) :=
  let t := (jetOf s (runnerOf s l)).test
  if t.on && decide (t.loop = l) && !v.enabled && decide (v.ramp = .none) && !(decide (l < s.part.cells) && frozenCell s l) then
    some (clampCode (if l < s.part.cells then 65535 else 16383) (t.base.toNat + testSignal t))
  else none

/-- One loop's round, where its Jet computes. -/
def loopNow (s : State) (done : Sparse Loop) (late held swapped : List Nat) (l : Nat) (v : Loop) : Option RoundOut :=
  if (jetOf s (runnerOf s l)).run && decide (v.desc.kind ≠ .empty) then
    let o := loopRound (roundIn s done late held swapped l v) v
    some (match testCode s l v with
      | some (c, k) => { o with code := some c, loop := wrote c k o.loop }
      | none => o)
  else none

/-- The loops' rounds, each Jet's slots in ascending order: loop, what it was, and what its round gave, in rising loop order (R91). -/
def loopRounds (s : State) (late held swapped : List Nat) : List (Nat × Loop × RoundOut) :=
  (s.jets.loops.foldl (fun (acc : List (Nat × Loop × RoundOut)) e =>
    let j := jetOfLoop s.part e.1
    let done := (acc.filter fun o => jetOfLoop s.part o.1 == j).map fun o => (o.1, o.2.2.loop)
    match loopNow s done late held swapped e.1 e.2 with
    | some o => (e.1, e.2, o) :: acc
    | none => acc) []).reverse

/-- HOP notification of a loop (R106); a commanded hop names its command (R276). -/
def notifyHop (l : Nat) (up : Bool) (by_ : Option About) (s : State) : State :=
  notifyAt s.tb.now 6 (by_.getD {}) false
    (le 4 l ++ le 1 (flag up) ++ le 1 (flag (onPath s l)) ++ le 1 (flag by_.isSome) ++ zeros 1) s

/-- What a loop's round does outside the loop: the write, the owner at a shutdown's end, hop, skip and lock events. -/
def applyOut (l : Nat) (old : Loop) (o : RoundOut) (s : State) : State :=
  let j := runnerOf s l
  let s := match o.code with
    | some c => (match testCode s l old with
      | some _ => putCode l c s
      | none => jetWrite l c s)
    | none => s
  let s := if o.back then setOwn l false s else s
  let s := if o.hop = .none then s else notifyHop l (decide (o.hop = .up)) none (ev j s)
  let s := if o.skip then ev 300 (ev (68 + j) (modJet j (fun x => { x with skipped := x.skipped + 1 }) s)) else s
  if old.lock && !o.loop.lock then ev (204 + j) s else s

/-- The wear that a round adds to a cell's heater in use (R331): swing of the filtered heat word, and dose. -/
def wearRound (h : Nat) (us : Nat) (w : Wear) : Wear :=
  let hf := w.hf + fdiv (h - w.hf) 1024
  { w with hf := hf, swing := w.swing + (hf - w.hf).natAbs, dose := w.dose + h * us }

/-- Wear of the cells whose Jets run: the Jets compute it (R331). -/
def wearRounds (s : State) : State :=
  forEach s.jets.loops s fun s e =>
    if e.2.desc.kind = .cell ∧ (jetOf s (runnerOf s e.1)).run then
      let h := (heaterWord s e.1 e.2).toNat
      let w : Wear := sget {} s.wear e.1
      if h = 0 ∧ w.hf = 0 then s else { s with wear := sset {} s.wear e.1 (wearRound h (framesPerRound s.jets.rate) w) }
    else s

/-- Late loops of reported reconfigurations: each one's settle time is recorded if it settles within 100 us of T_open (R143), and each is
judged on until it settles (R142) or its cell is DARK. -/
def judgeLate (s : State) : State :=
  let rt := roundTime s.jets.rate
  let now := fun x : LateLoop => (jetOf s (runnerOf s x.loop)).run && decide (settledNow s.part x.loop (loopOf s x.loop) = some true)
  let due := s.fab.lateLoops.filter fun x => decide (s.tb.now ≤ x.tOpen + settleBound)
  let dark := fun x : LateLoop => decide (kindOf s.part x.loop = .cell) && (loopOf s x.loop).dark
  { s with fab := { s.fab with
      lateLoops := s.fab.lateLoops.filter fun x => !now x && !dark x
      lateSettle := (due.filter now).foldl (fun m x => sset 0 m x.loop (roundsAfter x.tOpen s.tb.now rt)) s.fab.lateSettle } }

/-- Judgement of every reconfiguration after a round; the tagged one's last loop ends its stage 5. -/
def judgeAll (s : State) : State :=
  let rt := roundTime s.jets.rate
  let before := s.fab.recon.map (recordPower s.part fun l => (tapsOf s l).1)
  let judged := before.map fun r => judge s.part s.jets.loops (cleanFor s r) s.tb.now rt r
  let s := judgeLate { s with fab := { s.fab with recon := judged } }
  forEach (before.zip s.fab.recon) s fun s x => if !x.1.todo.isEmpty && x.2.todo.isEmpty then tagStage (tagOfSeq x.2.seq) 5 s else s

/-- Insertions judged settled under the cell criterion of R142, to 196 µs (R335). -/
def judgeInserts (s : State) : State :=
  let inserts := s.fab.inserts.map fun (i : Insert) =>
    if i.running && i.remapped && !i.settled && decide (s.tb.now ≤ i.tIns + ns 196000) &&
        decide (settledNow s.part i.cell (loopOf s i.cell) = some true) then { i with settled := true } else i
  { s with fab := { s.fab with inserts := inserts } }

/-- The first round after a takeover: each valve and equaliser of the failed Jet written with the code that the applied connection set
requires (R148), where the Jet owns the ladder (R77). -/
def rewritePorts (j : Nat) (s : State) : State :=
  let p := s.part
  let op := if valvesLive s.sys then openPortsOf s else 0
  forEach ((loopsOfJet p j).filter (p.cells ≤ ·)) s fun s l =>
    if l < p.cells + p.ports then
      (if eqRefused s (l - p.cells) then emit .busError s else writeEq (l - p.cells) (egOf s.fab.conns (l - p.cells)).isSome s)
    else let n := l - p.cells - p.ports; jetValve n (op.getLsbD n) s

/-- Remap rounds of takeovers end; the round after each begins with the port elements' codes (R113, R148). -/
def endRemaps (s : State) : State :=
  { s with jets := { s.jets with regs := s.jets.regs.map fun e =>
      (e.1, if e.2.remap then { e.2 with remap := false, rewrite := true } else e.2) } }

/-- The port elements' codes written in the first round after each takeover, before the spare reads its ladders back (R121, R148). -/
def startRewrites (s : State) : State :=
  forEach s.jets.regs s fun s e =>
    if e.2.rewrite then rewritePorts e.1 (modJet e.1 (fun j => { j with rewrite := false }) s) else s

/-- The Jets' part of a round start. -/
def jetsRound (late : List Nat) (s : State) : State :=
  let s := rateStart s
  let swapped := (s.jets.loops.filter fun e => e.2.swap).map (·.1)
  let s := fountainStart (mapLoops (fun _ v => paramStart v) s)
  let s := { s with jets := { s.jets with raw := s.jets.raw.map fun e => (e.1, paramStart e.2) } }
  let s := mapLoops (heatStart s) s
  let s := startRewrites (liveStop s)
  let held := remapsNow s
  let s := forEach held s fun s c => remapB c s
  let outs := loopRounds s late held swapped
  let s0 := s
  let s := mapLoops (fun l v => ((outs.find? fun o => o.1 == l).map (·.2.2.loop)).getD v) s
  let s := forEach outs s fun s o => applyOut o.1 o.2.1 o.2.2 s
  endRemaps (judgeInserts (judgeAll (wearRounds { s with jets := { s.jets with sram := s0.jets.sram } })))

/-- An unsigned number of 32 bits; outside the format its bits are log entry 18's free value. -/
def toU32 (v : Int) : BitVec 32 := if 0 ≤ v ∧ v < 2 ^ 32 then BitVec.ofInt 32 v else BitVec.ofNat 32 (Config.outside 32 v)

/-- A Recentre of a cell: MOVE, and BASE and INTEG after it. -/
def recentred (q : HtrCal) (d : Desc) : Nat × BitVec 40 × BitVec 32 :=
  let mid := quot ((q.baseMin + q.baseMax : Nat) : Int) 2 + 2 ^ 31
  let phi : Int := (d.base.toNat + d.integ.toNat : Nat)
  let (move, phi) := if phi - mid > 2 ^ 31 then (1, phi - 2 ^ 32) else if mid - phi > 2 ^ 31 then (2, phi + 2 ^ 32) else (0, phi)
  let base := clampI q.baseMin q.baseMax (phi - 2 ^ 31)
  (move, BitVec.ofInt 40 base, toU32 (phi - base))

/-- The Recentre of a cell as it stands. -/
def recentreOf (s : State) (c : Nat) : Nat × BitVec 40 × BitVec 32 :=
  let d := (loopOf s c).desc
  recentred (htrCalOf s.cal c d.htrB) d

/-- A connection through a cell has its valve open. -/
def litThrough (s : State) (c : Nat) : Bool :=
  (connsThrough s.part s.fab.cells s.fab.conns c).any fun e => s.fab.openPorts.getLsbD e.2

/-- A Recentre that would move phi while a valve of the cell's connections is open (R107). -/
def recentreBad (s : State) (c : Nat) : Bool := decide ((recentreOf s c).1 ≠ 0) && litThrough s c

/-- The RECENTRE of a slot made at a round start, or refused where a valve has opened meanwhile (R107). -/
def recentreNow (c : SlotCmd) (s : State) : State :=
  let l := fld (slotPayload s c.slot) 0 2
  if recentreBad s l then failCmd c 0x22 s
  else
    let (move, base, integ) := recentreOf s l
    let s := modLoop l (fun v => { v with desc := { v.desc with base := base, integ := integ } }) s
    let s := if move = 0 then s
      else notifyHop l (decide (move = 2)) (some { opcode := c.opcode, seq := c.seq.toNat, status := 0, slot := c.slot })
        (ev (runnerOf s l) (modLoop l (fun v => { v with hops := satInc v.hops }) s))
    finish c 0 (le 1 move ++ zeros 3) s

/-- An injection into a Jet's checker: it checks once per round, whether or not its Jet computes (R326). -/
def injectedRound (s : State) : State :=
  let n := s.dike.injSrc.toNat
  if 20 ≤ n ∧ n ≤ 87 then checkNow n s else s

/-- Commands whose response waits for a round start (R294, R92). -/
def roundReplies (s : State) : State :=
  forEach (s.mbx.cmds.filter fun c => c.started && !c.deferred) s fun s c =>
    if c.opcode = 0x0301 ∨ c.opcode = 0x0305 then finish c 0 [] s else s

/-- The Recentres that wait for the round start, made before the Jets compute (R107). -/
def recentreAll (s : State) : State :=
  forEach (s.mbx.cmds.filter fun c => c.started && !c.deferred && decide (c.opcode = 0x0303)) s fun s c => recentreNow c s

/-- The PAIR notification of the changes that fell in the round before (R433). -/
def pairReport (s : State) : State :=
  if s.mbx.pairDirty then notify 0xD (le 4 (cldStatusWord s).toNat ++ zeros 4) (withMbx (fun m => { m with pairDirty := false }) s)
  else s

/-- ROUND_START (R91). In Safe the Jets and the Fountains stand still (R115, R319). -/
def startRound (late : List Nat) (s : State) : State :=
  if s.sys.mode = .reset || !s.pwr.refclk then s
  else
    let s := { s with jets := { s.jets with round := s.jets.round + 1, roundAt := s.tb.now } }
    if s.sys.mode = .safe then pairReport s
    else pairReport (roundReplies (injectedRound (captureRound (jetsRound late (recentreAll s)))))

/-! ### Skips (R114) -/

/-- The sparing group of a Jet, spares included. -/
def jetGroup (s : State) (j : Nat) : Nat := spareGroup s.part j

/-- SKIP_LIMIT_EXCEEDED. -/
def skipLimit (j : Nat) (s : State) : State :=
  let x := jetOf s j
  if j < s.part.jets + s.part.spares ∧ x.limit.toNat < x.skipped then
    raise (156 + jetGroup s j) (modJet j (fun x => { x with skipped := 0 }) s)
  else s

/-- SKIP_WINDOW_END. -/
def skipEnd (j : Nat) (s : State) : State := if j < s.part.jets + s.part.spares then modJet j (fun x => { x with skipped := 0 }) s else s

/-- LOCK_LOSS_TIMEOUT (R117). -/
def lockLost (c : Nat) (s : State) : State :=
  if c < s.part.cells && !(loopOf s c).lock && onPath s c then raise (160 + jetGroup s (jetOfLoop s.part c)) s else s

/-! ### Drift scan (R106) -/

/-- Time to wrap in s, with the horizon reached: none where DRIFT is 0 (a rounded quotient). -/
def wrapTime (s : State) (v : Loop) : Option Nat :=
  let d := v.desc.drift.toInt
  let us := framesPerRound s.jets.rate
  let dist : Int := if 0 < d then 2 ^ 32 - v.desc.integ.toNat else v.desc.integ.toNat
  if d = 0 then none else some (quot (dist * 2 ^ 24 * us) (d.natAbs * 1000000)).toNat

/-- The time to wrap is shorter than the horizon, compared exactly. -/
def wrapsSoon (s : State) (v : Loop) : Bool :=
  let d := v.desc.drift.toInt
  let dist : Int := if 0 < d then 2 ^ 32 - v.desc.integ.toNat else v.desc.integ.toNat
  decide (dist * 2 ^ 24 * framesPerRound s.jets.rate < s.jets.horizon.toNat * (d.natAbs * 1000000))

/-- DRIFT_SCAN: every loop whose INTEG wraps. -/
def scanDrift (s : State) : State :=
  forEach s.jets.loops s fun s e =>
    if e.2.desc.kind = .cell ∨ e.2.desc.kind = .valve then
      match wrapTime s e.2 with
      | some t => if wrapsSoon s e.2 then
          notify 7 (le 4 e.1 ++ le 4 (min 0xFFFFFFFF t) ++ le 4 e.2.desc.drift.toNat) s else s
      | none => s
    else s

/-! ### Takeover of a Jet (R121, R340) -/

/-- SRAM_COPY_REFRESH: descriptors and banks of the Jets that have not failed, by firmware that runs (R376). -/
def refreshSram (s : State) : State :=
  if !fwLive s then s else
  { s with jets := { s.jets with sram := (s.jets.loops.filterMap fun e =>
      if (jetOf s (runnerOf s e.1)).failed then (s.jets.sram.find? fun x => x.1 == e.1) else some e) } }

/-- A loop as the spare takes it over: descriptor and banks from the copy, initialised anew from its ladder. A valve's INTEG is what its
own linearisation reads the ladder's code as (log entry 12), a shutdown goes on (R111), and the heater in use is the condition byte's
(R34). -/
def takenLoop (inv : BitVec 32) (copy v : Loop) : Loop :=
  let down := decide (v.ramp = .shutdown)
  { unlock v with
    desc := { copy.desc with lastCode := v.desc.lastCode, st := v.desc.st, en := v.desc.en, htrB := v.desc.htrB,
                             integ := if copy.desc.kind = .valve then inv else copy.desc.integ }
    bank0 := copy.bank0, bank1 := copy.bank1, segs := [], dark := false, balanced := false, unlit := 0, even := 0, lit := 0,
    frac := 0, ramp := if down then .shutdown else if v.enabled then .starting else .none, ramping := v.enabled || down }

/-- INTEG of a valve as its ladder's code gives it. -/
def valveInteg (s : State) (l : Nat) : BitVec 32 :=
  let v := loopOf s l
  let base := if v.desc.st then v.desc.setpt.extractLsb' 0 14 else v.desc.setpt.extractLsb' 16 14
  Config.valveInv (l - s.part.cells - s.part.ports) ((ladderCode s l : Int) - base.toNat)

/-- An insertion of a Jet's cell lies between its T_ins and its remap round (R338). -/
def insertingIn (s : State) (j : Nat) : Bool :=
  s.fab.inserts.any fun i => i.running && !i.remapped && jetOfLoop s.part i.cell == j

/-- What a spare's slot holds of a loop that it takes over (R121): the SRAM copy, which firmware writes there; where the takeover begins by a
write of TAKE_EN alone, what has been written into the slot. -/
def spareCopy (s : State) (fresh : Bool) (sp l : Nat) (v : Loop) : Loop :=
  let r : Loop := sget {} s.jets.raw (64 * sp + slotOfLoop s.part l)
  if !fresh && decide (r.desc.kind ≠ .empty) then r else ((s.jets.sram.find? fun c => c.1 == l).map (·.2)).getD v

/-- SAFE_CODE of a valve's ladder, written with the valve's descriptor (R81). -/
def safeFromDesc (l : Nat) (s : State) : State :=
  if kindOf s.part l = .valve then
    modPortDac (portIdx s.part l) (fun d => { d with safeCode := (loopOf s l).desc.setpt.extractLsb' 16 14 }) s
  else s

/-- JET_TAKEOVER, in which firmware writes the spare's slots (`fresh`), or a write of TAKE_EN. It is firmware's: under the boot ROM a failure is
recorded and no more (R317). -/
def takeJet (j : Nat) (fresh : Bool) (s : State) : State :=
  let x := jetOf s j
  let g := spareGroup s.part j
  let sp := s.part.jets + g
  if j < s.part.jets && x.failed && x.takenBy.isNone && !s.dike.jetSpare.contains g && !(jetOf s sp).failed &&
      !seqBusy s.fab && !insertingIn s j && fwLive s && s.sys.mode ≠ .safe then
    let s := modJet j (fun x => { x with takenBy := some sp, remap := true }) s
    let s := modJet sp (fun y => { y with takeIdx := BitVec.ofNat 4 (j % 16), takeEn := true,
                                          wellSel := some (x.wellSel.getD j), run := true, cap := x.cap }) s
    let s := forEach (loopsOfJet s.part j) s fun s l =>
      safeFromDesc l (modLoop l (fun v => takenLoop (valveInteg s l) (spareCopy s fresh sp l v) v) (lockEvent l s))
    let s := { s with dike := { s.dike with jetSpare := g :: s.dike.jetSpare } }
    ev 293 (notify 0xF (wearBody 5 0 j sp) s)
  else s

/-! ### The slot budget (R93) -/

/-- Coefficients of a bank that are not 0. -/
def liveCoeffs (b : Bank) : Nat := (b.a.filter (· ≠ 0)).length

/-- Cycles of a slot (*Table — Slot cost in Jet cycles*) under a bank. -/
def slotCost (k : Kind) (b : Bank) : Nat :=
  match k with
  | .empty => 0
  | .cell => 19 + liveCoeffs b
  | .equaliser => 17
  | .valve => 12 + liveCoeffs b

/-- The bank that a loop computes with once a requested swap is made. -/
def Loop.coming (l : Loop) : Bank := if l.swap then l.shadow else l.active

/-- Cycles of the Jet that holds a loop, with a new bank for the loop. -/
def jetCycles (s : State) (l : Nat) (b : Bank) : Nat :=
  16 + ((loopsOfJet s.part (jetOfLoop s.part l)).map fun k =>
    let v := loopOf s k
    slotCost v.desc.kind (if k = l then b else v.coming)).sum

/-- Cycles that a round has. -/
def jetRoom (s : State) : Nat := 1000 * framesPerRound (s.jets.newRate.getD s.jets.rate)

/-! ### Direct writes -/

/-- The Jet whose loops a Jet's slots hold: a spare's are those of the Jet that it has taken over, whose own slots then hold none. -/
def slotOwner (s : State) (j : Nat) : Option Nat :=
  if j < s.part.jets then (if (jetOf s j).takenBy.isSome then none else some j)
  else if (jetOf s j).takeEn then some (16 * spareGroup s.part j + (jetOf s j).takeIdx.toNat) else none

/-- The loop in service in slot k of a Jet; none in an idle spare, in a Jet that has been taken over and in an empty slot. -/
def slotLoop (s : State) (j k : Nat) : Option Nat := (slotOwner s j).bind fun o => loopAt s.part o k

/-- A slot's descriptor and banks changed, whether or not it holds a loop in service (R123). -/
def modSlot (j k : Nat) (f : Loop → Loop) (s : State) : State :=
  match slotLoop s j k with
  | some l => modLoop l f s
  | none => { s with jets := { s.jets with raw := smod {} s.jets.raw (64 * j + k) f } }

/-- What a Jet's slot holds: a loop in service, or what has been written into an idle spare's or an empty slot (R123). -/
def slotHolds (s : State) (j k : Nat) : Loop :=
  match slotLoop s j k with
  | some l => loopOf s l
  | none => sget {} s.jets.raw (64 * j + k)

/-- Cycles of Jet j's slots with the kind and bank that each is to have (R93). -/
def slotCycles (s : State) (j : Nat) (f : Nat → Loop → Kind × Bank) : Nat :=
  16 + ((List.range 40).map fun k => let x := f k (slotHolds s j k); slotCost x.1 x.2).sum

/-- JET_SWAP_LO and JET_SWAP_HI: the slots whose banks are to be swapped (R108). Firmware commits none where they would together break the
slot budget (R93), and none without the reference clock (R376). -/
def swapWrite (j : Nat) (hi : Bool) (v : W32) (s : State) : State :=
  if !s.pwr.refclk then s
  else if s.part.jets + s.part.spares ≤ j then emit .busError s
  else
    let base := if hi then 32 else 0
    let asked := (ones (if hi then 8 else 32) v).map (base + ·)
    if jetRoom s < slotCycles s j fun k x => (x.desc.kind, if asked.contains k then x.shadow else x.coming) then s
    else forEach asked s fun s k => modSlot j k (fun x => { x with swap := true }) s

/-- A drive output that the part has (R75, R82). -/
def outExists (p : Part) : DacOut → Bool
  | .htr n => decide (n < 2 * p.cells)
  | .port n => decide (n < p.ports ∨ (256 ≤ n ∧ n < 256 + p.ports))
  | .flip c => decide (c < p.cells)

/-- A level written to a flip driver outside a sequence: it is counted (R330), and a cell that is not stuck passes light as its LEVEL
says (R33, R430). That of an OPAQUE cell is not written (R430). -/
def levelState (c : Nat) (level : Bool) (s : State) : State :=
  if frozenCell s c then s else
  let rises := level && !(flipOf s c).level
  let stuck := decide (condAt s.fab c = .stuckBar ∨ condAt s.fab c = .stuckCross)
  { s with
    dac := { s.dac with flip := smod {} s.dac.flip c fun f => { f with level := level } }
    wear := if rises then smod {} s.wear c fun w => { w with addFlips := w.addFlips + 1 } else s.wear
    fab := if stuck then s.fab else { s.fab with cells := setBit s.fab.cells c level } }

/-- Firmware may change a heater's range of its own accord (R80): the cell carries no connection, or the unit is in Calibrate or Dark. -/
def mayTurn (s : State) (c : Nat) : Bool := !onPath s c || decide (s.sys.mode = .calibrate ∨ s.sys.mode = .dark)

/-- The heater is the one in use of its cell: the other is held at code 0 (R34). -/
def htrUsed (s : State) (n : Nat) : Bool := decide (n = htrIdx (n / 2) (loopOf s (n / 2)).desc.htrB)

/-- A code at a heater's ladder; the heater that is not in use stays at code 0 (R34). -/
def codeHtr (n : Nat) (v : W32) (s : State) : State :=
  if htrUsed s n then modHtr n (fun h => { h with code := v.extractLsb' 0 16 }) s else s

/-- LAST_CODE of the loop behind a drive output, after its Jet's write (R123). -/
def lastWritten (o : DacOut) (v : W32) (s : State) : State :=
  let p := s.part
  let put := fun (l : Nat) (c : BitVec 16) => modLoop l (fun x => { x with desc := { x.desc with lastCode := c } }) s
  match o with
  | .htr n => if htrUsed s n then put (n / 2) (v.extractLsb' 0 16) else s
  | .port n => put (if n < 256 then eqLoop p n else valveLoop p (n - 256)) ((v.extractLsb' 0 14).setWidth 16)
  | .flip _ => s

/-- A heater's register written by the processor. Firmware writes no change of range that R80 forbids it: RANGE then stays (log entry
123). A word that leaves OWN at 1 and changes RANGE is taken as to RANGE, its CODE ignored, without an error (DESIGN CHOICE, log entry
111). -/
def cpuHtr (n : Nat) (v : W32) (s : State) : State :=
  let h := htrOf s n
  let own := v.getLsbD 31
  let turn := v.getLsbD 30 != h.range && mayTurn s (n / 2)
  if h.rcBusy then s
  else
    let s := modHtr n (fun h => { h with own := own, range := h.range != turn, rcBusy := turn, held := if turn then h.code else h.held }) s
    if own then (if h.own && !turn then emit .busError s else s)
    else if turn then s else codeHtr n v s

/-- A port ladder's register written by the processor; an equaliser ladder has no SAFE_CODE. A word that leaves OWN at 1 and changes
SAFE_CODE is taken as to SAFE_CODE, its CODE ignored, without an error (DESIGN CHOICE, log entry 111). -/
def cpuPort (n : Nat) (v : W32) (s : State) : State :=
  let d := portDacOf s n
  let own := v.getLsbD 31
  let safe := if n < 256 then d.safeCode else v.extractLsb' 16 14
  let s := modPortDac n (fun d => { d with own := own, safeCode := safe }) s
  if own then (if d.own && decide (safe = d.safeCode) then emit .busError s else s)
  else modPortDac n (fun d => { d with code := v.extractLsb' 0 14 }) s

/-- A flip driver's register written by the processor. -/
def cpuFlip (c : Nat) (v : W32) (s : State) : State :=
  let f := flipOf s c
  if v.getLsbD 31 then (if f.own then emit .busError s else modFlip c (fun f => { f with own := true }) s)
  else levelState c (v.getLsbD 8) (modFlip c (fun f => { f with own := false, preemph := v.extractLsb' 12 3, iset := v.extractLsb' 0 8 }) s)

/-- DAC_WRITE (R76, R77, R79, R81, R82): a register word from the processor, or a code from the Jet. A write from the owner that is not
selected is ignored and answered with an error, in Safe every output but a valve's stands frozen (R13, R115), and a heater ignores
every write in a change of range. A processor word that changes OWN and its code together is judged by its new OWN: the code is taken
where OWN goes to 0 and ignored where it goes to 1 (DESIGN CHOICE, log entry 111). Without the reference clock no write is made (R376). -/
def dacWriteNow (o : DacOut) (byJet : Bool) (v : W32) (s : State) : State :=
  let frozen := decide (s.sys.mode = .safe)
  if !s.pwr.refclk then s
  else if !outExists s.part o then emit .busError s
  else
    match o with
    | .htr n =>
      if frozen || frozenCell s (n / 2) then s
      else if byJet then
        (if (htrOf s n).rcBusy then s
         else if (htrOf s n).own then lastWritten o v (codeHtr n v s) else emit .busError s)
      else cpuHtr n v s
    | .port n =>
      if frozen && decide (n < 256) then s
      else if byJet then
        (if (portDacOf s n).own then lastWritten o v (modPortDac n (fun d => { d with code := v.extractLsb' 0 14 }) s)
         else emit .busError s)
      else cpuPort n v s
    | .flip c =>
      if frozen then s
      else if byJet then
        (if !(flipOf s c).own then emit .busError s else if frozenCell s c then s
         else levelState c (v.getLsbD 8) (signFlip c (v.getLsbD 8) s))
      else cpuFlip c v s

/-- RANGE_CHANGE_END (R79): RC_BUSY clears, and a RANGE_SET that waited answers. What the ladder puts out from then to its first write R79
does not say: it returns to its stored CODE, in the new range (DESIGN CHOICE, log entry 110). A heater A that heater B has replaced
meanwhile goes to code 0, where it stays (R34, R336). -/
def rangeEnd (n : Nat) (s : State) : State :=
  let h := htrOf s n
  if h.rcBusy then
    let left := decide (n % 2 = 0) && (loopOf s (n / 2)).desc.htrB
    let s := modHtr n (fun h => { h with rcBusy := false, rcSlot := none, code := if left then 0 else h.code }) s
    match h.rcSlot with
    | some k => finishSlot k 0 [] s
    | none => s
  else s

end Sys2Proof.Machine
end

