-- ==== Sys2Proof/Machine/Hardware.lean ====
section
/-! DEFINITION. Commands of the wells, ladders, Jets, sequencers and Sluice: what happens inside the device as time passes. -/

namespace Sys2Proof.Machine

/-- A happening inside the device: nothing happens in Reset (R14, R395; log entry 32). -/
def live (dt : Nat) (s : State) (f : State → State) : Host.Outcome State Fault Refusal :=
  run dt s fun a => if a.sys.mode = .reset then a else f a

/-! ### Wells (R55 to R74) -/

/-- WELL_SCHED_WRITE (R56). -/
def execWellSchedWrite (dt well entry : Nat) (value : W32) (late : Bool) (s : State) : Host.Outcome State Fault Refusal :=
  live dt s (wellSchedWrite well entry value late)

/-- WELL_CHAN_WRITE (R70). -/
def execWellChanWrite (dt well chan : Nat) (value : W32) (late : Bool) (s : State) : Host.Outcome State Fault Refusal :=
  live dt s (wellChanWrite well chan value late)

/-- WELL_TAKEOVER (R74). -/
def execWellTakeover (dt well : Nat) (s : State) : Host.Outcome State Fault Refusal := live dt s (wellTakeover well)

/-- WELL_FRAME (R55). -/
def execWellFrame (dt well : Nat) (raw : List Nat) (s : State) : Host.Outcome State Fault Refusal := live dt s (wellFrame well raw)

/-- WELL_WAKE_END (R71). -/
def execWellWakeEnd (dt well : Nat) (s : State) : Host.Outcome State Fault Refusal := live dt s (wellWakeEnd well)

/-- RANGE_STEP_DOWN (R61). -/
def execRangeStepDown (dt well chan : Nat) (s : State) : Host.Outcome State Fault Refusal := live dt s (rangeStepDown well chan)

/-- RANGE_STEP_UP (R61). -/
def execRangeStepUp (dt well chan : Nat) (s : State) : Host.Outcome State Fault Refusal := live dt s (rangeStepUp well chan)

/-- WELL_SLICE_FAIL (R59). -/
def execWellSliceFail (dt well : Nat) (s : State) : Host.Outcome State Fault Refusal := live dt s (wellSliceFail well)

/-! ### Ladders and Jets (R75 to R124) -/

/-- DAC_WRITE (R76). -/
def execDacWrite (dt : Nat) (out : DacOut) (byJet : Bool) (value : W32) (s : State) : Host.Outcome State Fault Refusal :=
  live dt s (dacWriteNow out byJet value)

/-- RANGE_CHANGE_END (R79). -/
def execRangeChangeEnd (dt heater : Nat) (s : State) : Host.Outcome State Fault Refusal := live dt s (rangeEnd heater)

/-- JET_SWAP_WRITE (R108). -/
def execJetSwapWrite (dt jet : Nat) (hi : Bool) (value : W32) (s : State) : Host.Outcome State Fault Refusal :=
  live dt s (swapWrite jet hi value)

/-- ROUND_START (R91). -/
def execRoundStart (dt : Nat) (lateFetch : List Nat) (s : State) : Host.Outcome State Fault Refusal := live dt s (startRound lateFetch)

/-- SKIP_LIMIT_EXCEEDED (R114). -/
def execSkipLimitExceeded (dt jet : Nat) (s : State) : Host.Outcome State Fault Refusal := live dt s (skipLimit jet)

/-- SKIP_WINDOW_END (R114). -/
def execSkipWindowEnd (dt jet : Nat) (s : State) : Host.Outcome State Fault Refusal := live dt s (skipEnd jet)

/-- LOCK_LOSS_TIMEOUT (R117). -/
def execLockLossTimeout (dt cell : Nat) (s : State) : Host.Outcome State Fault Refusal := live dt s (lockLost cell)

/-- DRIFT_SCAN (R106). -/
def execDriftScan (dt : Nat) (s : State) : Host.Outcome State Fault Refusal := live dt s scanDrift

/-- SRAM_COPY_REFRESH (R121). -/
def execSramCopyRefresh (dt : Nat) (s : State) : Host.Outcome State Fault Refusal := live dt s refreshSram

/-- JET_TAKEOVER (R121). -/
def execJetTakeover (dt jet : Nat) (s : State) : Host.Outcome State Fault Refusal := live dt s (takeJet jet true)

/-! ### The reconfiguration sequence (R129 to R143) -/

/-- Tag stages of a sequence (R371): T_close, T_open and the settle deadline reached by the tagged reconfiguration. -/
def taggedIn (ph : Phase) (k : Nat) (f : State → State) (s : State) : State :=
  match firstIn ph s.fab with
  | some r => tagStage (tagOfSeq r.seq) k (f s)
  | none => f s

/-- The report of an entry that a follow's reconfiguration has fired (R251). -/
def postFollowed (n : Nat) (tClose : Time) (seq : W32) (s : State) : State :=
  let e : TEntry := sget {} s.slc.entries n
  postEntry { tracked := true, domain := e.domain, entry := n, config := e.config, cycle := 0, wanted := e.tFire, seqUsed := e.seqUsed,
              train := e.train } (if e.tFire < tClose then 3 else 0) (some tClose) seq s

/-- An entry mirrored as ARMED becomes FIRED with the unit's own T_close of the follow that carries it (R251): reported now by a unit
that lets light out, else noted for the report after promotion. -/
def fireFollowed (n : Nat) (tClose : Time) (seq : W32) (s : State) : State :=
  let s := setEntryState n .fired s
  if roleLit s.sys.role then postFollowed n tClose seq s
  else { s with pair := { s.pair with selfFired := s.pair.selfFired ++ [(n, tClose, seq)] } }

/-- What the T_close of a follow's reconfiguration does beside its writes (R251). -/
def followClosed (r : Reconf) (s : State) : State :=
  match r.origin with
  | .follow _ f =>
    let note := fun n : Newer => if n.reconf = f.reconf then { n with close := some (r.tClose, r.seq) } else n
    let s := { s with pair := { s.pair with newer := s.pair.newer.map note } }
    let mine := (committed s).filter fun e => decide (e.2.state = .armed ∧ e.2.reconf = some f.reconf)
    forEach mine s fun s e => fireFollowed e.1 r.tClose r.seq s
  | _ => s

/-- The T_close of the first armed reconfiguration, with what it brings for a follow. -/
def closeNow (s : State) : State :=
  match firstIn .armed s.fab with
  | some r => followClosed r (doClose s)
  | none => s

/-- T_CLOSE (R129). -/
def execTClose (s : State) : Host.Outcome State Fault Refusal := live 0 s (taggedIn .armed 3 closeNow)

/-- The T_dark of the first closed reconfiguration, with the heat words of the cells that it flips (R135). -/
def darkNow (s : State) : State :=
  match firstIn .closed s.fab with
  | some r => reheat r.flips (doDark s)
  | none => s

/-- T_DARK (R132). -/
def execTDark (s : State) : Host.Outcome State Fault Refusal := live 0 s darkNow

/-- LEVEL_READBACK (R149). -/
def execLevelReadback (mismatch : List Nat) (s : State) : Host.Outcome State Fault Refusal := live 0 s (doReadback mismatch)

/-- T_OPEN (R130). -/
def execTOpen (s : State) : Host.Outcome State Fault Refusal := live 0 s (taggedIn .dark 4 doOpen)

/-- SETTLE_DEADLINE (R143). -/
def execSettleDeadline (s : State) : Host.Outcome State Fault Refusal := live 0 s (taggedIn .opened 5 doDeadline)

/-! ### Sluice (R187 to R200) -/

/-- ENTRY_PREPARE (R199). -/
def execEntryPrepare (dt : Nat) (tracked : Bool) (domain entry : Nat) (s : State) : Host.Outcome State Fault Refusal :=
  live dt s (prepareEntry tracked domain entry)

/-- ENTRY_ARM (R199). -/
def execEntryArm (dt : Nat) (tracked : Bool) (domain entry : Nat) (s : State) : Host.Outcome State Fault Refusal :=
  live dt s (entryArmNow tracked domain entry)

/-- RECHECK_DONE (R200). -/
def execRecheckDone (dt : Nat) (s : State) : Host.Outcome State Fault Refusal := live dt s recheckOver

/-- CALENDAR_START (R192). -/
def execCalendarStart (domain : Nat) (s : State) : Host.Outcome State Fault Refusal := live 0 s (startCalendar domain)

/-- CALENDAR_WINDOW (R190). -/
def execCalendarWindow (domain : Nat) (s : State) : Host.Outcome State Fault Refusal := live 0 s (passWindow domain)

/-- CALENDAR_RESUME (R194). -/
def execCalendarResume (domain : Nat) (s : State) : Host.Outcome State Fault Refusal := live 0 s (resumeCalendar domain)

end Sys2Proof.Machine
end

