-- ==== Sys2Proof/Machine/Operands.lean ====
section
/-! DEFINITION. Host commands as firmware takes them from the slots: the order in which they may run (R274, R284), the checks that
every command passes (R282 to R285), and the payload forms that several commands share. -/

namespace Sys2Proof.Machine

/-! ### Kinds of command -/

/-- Read commands: they change no device state but what a read clears, and proceed beside a deferred command (R274). -/
def isRead (op : Nat) : Bool :=
  [0x0100, 0x0101, 0x0201, 0x0205, 0x0208, 0x0300, 0x0403, 0x0404, 0x0501, 0x0505, 0x0603, 0x0701, 0x0801, 0x0900, 0x0A02, 0x0A04,
   0x0A06, 0x0A08, 0x0B01, 0x0B02].contains op

/-- Routing commands (R284). -/
def isRouting (op : Nat) : Bool := [0x0200, 0x0202, 0x0203, 0x0204, 0x0206, 0x0207, 0x0401, 0x0503].contains op

/-- Commands whose effect is not over when they have begun: a later state-changing command of their group waits for their final
status. -/
def isLong (op : Nat) : Bool := [0x0202, 0x0203, 0x0206, 0x0207, 0x0301, 0x0303, 0x0304, 0x0305, 0x0307, 0x0402, 0x0703, 0x0802,
   0x0903].contains op

/-- The opcodes of interface revision 3. -/
def isOpcode (op : Nat) : Bool :=
  let n := op % 256
  match op / 256 with
  | 1 => decide (n ≤ 4) | 2 => decide (n ≤ 9) | 3 => decide (n ≤ 7) | 4 => decide (n ≤ 4) | 5 => decide (n ≤ 7)
  | 6 => decide (n ≤ 3) | 7 => decide (n ≤ 4) | 8 => decide (n ≤ 3) | 9 => decide (n ≤ 3) | 10 => decide (n ≤ 8)
  | 11 => decide (n ≤ 5) | _ => false

/-- An accepted command may begin (R274, R284): no barrier holds it, and no earlier command that it must follow is still due. One that
a barrier holds makes only its own group wait. RESET waits for none, and one HEATER_B does not wait for another: they are made in
acceptance order all the same, and a repeated one completes with the first (R338). -/
def mayBegin (s : State) (c : SlotCmd) : Bool :=
  let earlier := s.mbx.cmds.takeWhile (· != c)
  !c.barrier && !c.started && (decide (c.opcode = 0x0102) || earlier.all fun b =>
    let same := decide (group b.opcode = group c.opcode)
    b.deferred || !((same && (!b.started || (isLong b.opcode && !isRead c.opcode && !decide (b.opcode = 0x0307 ∧ c.opcode = 0x0307)))) ||
      (isRouting b.opcode && isRouting c.opcode && (same || !b.barrier))))

/-- The command of a slot, where its opcode is the one named and it may begin now. -/
def readyCmd (s : State) (slot opcode : Nat) : Option SlotCmd :=
  (cmdAt s slot).filter fun c => decide (c.opcode = opcode) && mayBegin s c

/-- BUSY of check 4 of R285: a deferred command of the group runs, a routing command is deferred, or a mode transition is in
progress (R17). RESET is never BUSY. -/
def busyNow (s : State) (op : Nat) : Bool :=
  let deferred := s.mbx.cmds.filter (·.deferred)
  !decide (op = 0x0102) &&
    ((!isRead op && deferred.any fun c => decide (group c.opcode = group op)) ||
     (isRouting op && deferred.any fun c => isRouting c.opcode) ||
     (decide (op = 0x0103 ∨ op = 0x0104) && s.sys.trans.isSome))

/-- Eight commands are deferred already (R274). -/
def noDefer (s : State) : Bool := decide (8 ≤ (s.mbx.cmds.filter (·.deferred)).length)

/-! ### Life cycle (R386) -/

/-- Bits of a life-cycle state, 1 to 5, that are set: three each. -/
def lcCount (b : BitVec 15) (k : Nat) : Nat := ((List.range 3).filter fun i => b.getLsbD (3 * (k - 1) + i)).length

/-- The highest state for which at least two bits are set. -/
def lcOf (b : BitVec 15) : Lc :=
  if 2 ≤ lcCount b 5 then .decommissioned else if 2 ≤ lcCount b 4 then .returned else if 2 ≤ lcCount b 3 then .deployed
  else if 2 ≤ lcCount b 2 then .provisioned else if 2 ≤ lcCount b 1 then .factory else .blank

/-- The unit's life-cycle state. -/
abbrev lcNow (s : State) : Lc := lcOf s.pld.lcBits

/-! ### Serving a command -/

/-- Modes in which a command of the set *any* is accepted. -/
def anyMode : Mode → Bool
  | .reset => false
  | _ => true

/-- The set *run + Safe*. -/
def runOrSafe (m : Mode) : Bool := inRun m || decide (m = .safe)

/-- One mode. -/
abbrev onlyMode (a m : Mode) : Bool := decide (m = a)

/-- What decides whether a command is taken: opcode, modes (R282), roles (R283), the life-cycle restriction of its payload, and its
own checks in order, each with the low byte of the status given where it fails. -/
structure Req where
  opcode : Nat
  modes  : Mode → Bool
  roles  : Role → Bool := fun _ => true
  lcBad  : State → List Byte → Bool := fun _ _ => false
  checks : State → List Byte → List (Bool × Nat) := fun _ _ => []

/-- The first failed check of R285; none where all pass. -/
def Req.fails (q : Req) (s : State) (p : List Byte) : Option Nat :=
  let common : List (Bool × Nat) :=
    [(!q.modes s.sys.mode, 3), (q.lcBad s p, 7), (!q.roles s.sys.role, 4), (busyNow s q.opcode, 5)]
  ((common ++ q.checks s p).find? fun x => x.1).map fun x => x.2

/-- The slots are served: by firmware, or by the boot ROM, which has identity and status only (R272); a stopped clock or halted cores
serve none (R318, R376). -/
def served (s : State) (op : Nat) : Bool :=
  fwLive s || (!s.sys.fwRun && s.pwr.wiped && s.pwr.refclk && decide (op = 0x0100 ∨ op = 0x0101))

/-- A slot's command is checked and takes effect, at the instant firmware comes to it. With no such command in the slot, or none that
may begin, nothing happens (log entry 3). -/
def serve (q : Req) (slot : Nat) (effect : SlotCmd → List Byte → State → State) (s : State) : State :=
  if !served s q.opcode then s
  else
    match readyCmd s slot q.opcode with
    | some c =>
      let p := slotPayload s slot
      match q.fails s p with
      | some code => tagDrop (tagOfSlot slot) (failCmd c code s)
      | none => effect c p s
    | none => s

/-- The row of a host command. -/
def hostCmd (q : Req) (dt slot : Nat) (effect : SlotCmd → List Byte → State → State) (s : State) :
    Host.Outcome State Fault Refusal :=
  live dt s (serve q slot effect)

/-- A command begins and its final status comes later. -/
def hold (c : SlotCmd) (s : State) : State :=
  withMbx (fun m => { m with cmds := m.cmds.map fun x => if x = c then { x with started := true } else x }) s

/-- A command completes with OK. -/
abbrev okCmd (c : SlotCmd) (payload : List Byte) (s : State) : State := finish c 0 payload s

/-! ### Payload checks (R281, R285) -/

/-- FORMAT where LENGTH differs. -/
abbrev lenIs (p : List Byte) (n : Nat) : Bool × Nat := (decide (p.length ≠ n), 1)

/-- FORMAT where a condition holds. -/
abbrev fmt (b : Bool) : Bool × Nat := (b, 1)

/-- RANGE where a condition holds. -/
abbrev rng (b : Bool) : Bool × Nat := (b, 2)

/-- `n` bytes at `off` are not all 0. -/
def rsvd (p : List Byte) (off n : Nat) : Bool := decide (fld p off n ≠ 0)

/-- Bytes at `off` reserved. -/
abbrev zeroAt (p : List Byte) (off n : Nat) : Bool × Nat := fmt (rsvd p off n)

/-! ### Connection maps (R291, R292) -/

/-- A map's entries are 0xFFFE exactly for ports outside the named domains or above P - 1. -/
def mapForm (s : State) (mask : BitVec 16) (map : List Byte) : Bool :=
  (List.range 256).all fun n =>
    let inside := decide (n < s.part.ports) && mask.getLsbD (domOf s.fab n)
    if inside then decide (mapEntry map n ≠ 0xFFFE) else decide (mapEntry map n = 0xFFFE)

/-- A map's entries name egress ports that the part has, or none (log entry 33). -/
def mapRange (s : State) (map : List Byte) : Bool :=
  (List.range 256).all fun n => let v := mapEntry map n; decide (v < s.part.ports ∨ v = 0xFFFE ∨ v = 0xFFFF)

/-- The bytes of a map of connections: 0xFFFE outside the named domains. -/
def mapBytes (s : State) (inside : Nat → Bool) (m : ConnMap) : List Byte :=
  connBytes (fun n => decide (n < s.part.ports) && inside n) m

/-- The connections of a map in the named domains replaced by those of another. -/
def replaceIn (s : State) (mask : BitVec 16) (old new : ConnMap) : ConnMap :=
  ((old.filter fun e => !mask.getLsbD (domOf s.fab e.1)) ++ new).mergeSort fun a b => decide (a.1 ≤ b.1)

/-- Domains of a mask that are not static. -/
def notStatic (s : State) (mask : BitVec 16) : Bool := (ones 16 mask).any fun d => decide (discOf s.fab.dom d ≠ .static)

end Sys2Proof.Machine
end

