-- ==== Sys2Proof/Machine/Tap.lean ====
section
/-! DEFINITION. The two blocks beside the window that no row of the table reaches: the PCIe endpoint's configuration space (R262,
R278) and the test access port (R419). Their own protocols are PCI Express 4.0's and IEEE 1149.1's, which the spec names and does not
set out; what it says of this device in them stands here (log entry 98). -/

namespace Sys2Proof.Machine

/-! ### PCIe endpoint (R262, R278) -/

/-- Device ID, above the vendor ID 0x1F6A. -/
def pcieId : Part → W32
  | .kx064 => 0x6B401F6A | .kx128 => 0x6B411F6A | .kx256 => 0x6B421F6A

/-- Class code. -/
abbrev pcieClass : BitVec 24 := 0xFF0000

/-- Only the selected port responds (R261). -/
def pcieSelected (s : State) : Bool := !s.sys.spi

/-- BAR0 written: 64 KiB, 32-bit, non-prefetchable, so its low 16 bits read 0. The other BARs are absent. -/
def writeBar0 (v : W32) (s : State) : State :=
  if pcieSelected s then { s with pcie := { s.pcie with bar0 := v &&& 0xFFFF0000 } } else s

/-- The window offset of a memory address: BAR0 decodes 64 KiB from its base. -/
def bar0Offset (s : State) (a : Nat) : Option Nat :=
  if s.pcie.bar0.toNat ≤ a ∧ a < s.pcie.bar0.toNat + 0x10000 then some (a - s.pcie.bar0.toNat) else none

/-- The messages that are pending and no longer held back are sent. -/
def sendPending (s : State) : State :=
  if s.mbx.msixOn then
    forEach ((List.range 32).filter fun v => s.pcie.pend.getLsbD v && !s.pcie.holds v) s fun s v =>
      emit (.msix v) { s with pcie := { s.pcie with pend := setBit s.pcie.pend v false } }
  else s

/-- A change of the endpoint's configuration space, where it is the port selected, with the messages that it sets free. -/
def withPcie (f : Pcie → Pcie) (s : State) : State := if pcieSelected s then sendPending { s with pcie := f s.pcie } else s

/-- The power state written: D0 or D3hot, the two that the endpoint has. In D3hot it takes and sends no memory request. -/
def writePower (d3hot : Bool) (s : State) : State := withPcie (fun p => { p with d3hot := d3hot }) s

/-- The link enters or leaves L1. -/
def linkPower (l1 : Bool) (s : State) : State := withPcie (fun p => { p with l1 := l1 }) s

/-- Device Control's payload size, 128 or 256 bytes, and read request size, up to 512 bytes: a size that the endpoint has not is not
taken. -/
def writeSizes (payload readReq : Nat) (s : State) : State :=
  withPcie (fun p => { p with payload := if payload ≤ 1 then payload else p.payload, readReq := if readReq ≤ 2 then readReq else p.readReq }) s

/-- AER's status bit of an Unsupported Request cleared by writing 1. -/
def clearAer (s : State) : State := withPcie (fun p => { p with urSeen := false }) s

/-- The words of the configuration header that the spec gives: identity, class code above the revision, BAR0; the others' places are PCI
Express 4.0's. -/
def configWord (s : State) : Nat → Option W32
  | 0x00 => some (pcieId s.part)
  | 0x08 => some (pcieClass.zeroExtend 32 <<< 8)
  | 0x10 => some s.pcie.bar0
  | 0x14 | 0x18 | 0x1C | 0x20 | 0x24 => some 0
  | _ => none

/-- MSI-X enabled or disabled in configuration space; enabling it sends the messages that are pending (R278). -/
def writeMsix (on : Bool) (s : State) : State :=
  if pcieSelected s then sendPending { s with mbx := { s.mbx with msixOn := on } } else s

/-- MSI-X's function mask. -/
def writeFunMask (masked : Bool) (s : State) : State := withPcie (fun p => { p with funMask := masked }) s

/-- A vector of the MSI-X table, 0 to 31, masked or unmasked: unmasking sends a message that is pending. -/
def writeVector (v : Nat) (masked : Bool) (s : State) : State :=
  if 32 ≤ v then s else withPcie (fun p => { p with tableMask := setBit p.tableMask v masked }) s

/-! ### Test access port (R419) -/

/-- IDCODE by part. -/
def tapIdcode : Part → W32
  | .kx064 => 0x1B40A2D3 | .kx128 => 0x1B41A2D3 | .kx256 => 0x1B42A2D3

/-- What the port opens beyond boundary scan: debug in BLANK, FACTORY and RETURNED (*Table — Life-cycle states*). -/
def tapDebug : Lc → Bool
  | .blank | .factory | .returned => true
  | _ => false

/-- OTP programming is open in BLANK and FACTORY, where the port is full. -/
def tapOtp : Lc → Bool
  | .blank | .factory => true
  | _ => false

/-- The boundary register, in the order of *Table — Signal list*. Its order on the scan chain is the BSDL file's, which the spec does
not give (log entry 98). -/
def boundaryBalls : List Ball :=
  [.perstN, .spiSck, .spiCsN, .spiSdi, .spiSdo, .qspiSck, .qspiCsN, .qspiIo 0, .qspiIo 1, .qspiIo 2, .qspiIo 3, .ppsIn, .ppsOut,
   .roleOutA, .roleOutB, .roleInA, .roleInB, .presentOut, .presentIn, .pairSide, .hostSel, .resetN, .intN]

/-- The ball drives: an output, or QSPI data, which goes both ways. -/
def ballDrives : Ball → Bool
  | .spiSdo | .qspiSck | .qspiCsN | .qspiIo _ | .ppsOut | .roleOutA | .roleOutB | .presentOut | .intN => true
  | _ => false

/-- The level that the device itself puts on a ball, where State holds it; INT_N is open-drain (R279). -/
def ballOwn (s : State) : Ball → Option Bool
  | .roleOutA | .roleOutB => some (roleOut s)
  | .presentOut => some (presentOut s)
  | .ppsOut => some s.servo.ppsHigh
  | .intN => if intAsserted s then some false else none
  | _ => none

/-- A ball of the 3.3 V bank (*Table — Signal list*); the others of the boundary register are of the 1.8 V bank. -/
def ball33 : Ball → Bool
  | .perstN | .ppsIn | .ppsOut | .roleOutA | .roleOutB | .roleInA | .roleInB | .presentOut | .presentIn | .pairSide | .hostSel
  | .resetN | .intN => true
  | _ => false

/-- The supply of a ball's bank is good; the 3.3 V bank's outputs are high-impedance while VDD_33 is not (R410). -/
def bankGood (s : State) (b : Ball) : Bool :=
  s.pwr.powered && !(if ball33 b then s.pwr.tripped.contains .vdd33 else s.pwr.tripped.contains .vdd18)

/-- What a ball puts out: EXTEST and CLAMP drive the boundary register's value, INT_N as an open drain, which only pulls low (R407), and HIGHZ
nothing. -/
def ballOut (s : State) (b : Ball) : Option Bool :=
  if !ballDrives b || !bankGood s b then none
  else match s.tap.instr with
    | .extest | .clamp =>
      let v := s.tap.boundary.contains b
      if b = .intN ∧ v then none else some v
    | .highz => none
    | _ => ballOwn s b

/-- The level at a ball that a boundary capture takes: a pin that State holds, the straps as they were sampled (R408), SPI_CS_N high
between transactions, the ball's own output, else a free value of the ball's own. -/
def ballIn (s : State) (b : Ball) : Bool :=
  match b with
  | .roleInA => s.cld.roleInA
  | .roleInB => s.cld.roleInB
  | .presentIn => s.cld.present
  | .resetN => !s.pwr.resetLow
  | .pairSide => s.sys.sideB
  | .hostSel => s.sys.spi
  | .spiCsN => true
  | b => (ballOut s b).getD (bit (Config.free s.draws) (boundaryBalls.idxOf b))

/-- TRST_N low, or Test-Logic-Reset: the IDCODE instruction is in force. -/
def tapReset (s : State) : State := { s with tap := { s.tap with instr := .idcode, shift := [] } }

/-- An instruction brought into force. -/
def tapInstruction (i : TapInstr) (s : State) : State := { s with tap := { s.tap with instr := i } }

/-- The data register of the instruction in force, captured. -/
def tapCapture (s : State) : State :=
  let v := match s.tap.instr with
    | .idcode => (List.range 32).map fun i => (tapIdcode s.part).getLsbD i
    | .sample | .extest => boundaryBalls.map (ballIn s)
    | .bypass | .clamp | .highz => [false]
  { s with tap := { s.tap with shift := v }, draws := s.draws + 1 }

/-- One bit shifted: out of the register's first place, in at its last. -/
def tapShift (tdi : Bool) (s : State) : Bool × State :=
  (s.tap.shift.headD false, { s with tap := { s.tap with shift := s.tap.shift.drop 1 ++ [tdi] } })

/-- The boundary register updated from what was shifted in, under SAMPLE/PRELOAD and EXTEST. -/
def tapUpdate (s : State) : State :=
  match s.tap.instr with
  | .sample | .extest =>
    { s with tap := { s.tap with boundary := ((boundaryBalls.zip s.tap.shift).filter (·.2)).map (·.1) } }
  | _ => s

end Sys2Proof.Machine
end

