-- ==== Sys2Proof/Machine/Polder.lean ====
section
/-! DEFINITION. The Polder and what it trusts: life-cycle bits, image checks, the slot control record, the measurement log, and the
calibration store's records (R377 to R389). -/

namespace Sys2Proof.Machine

/-- A change of the Polder. -/
def withPld (f : Pld → Pld) (s : State) : State := { s with pld := f s.pld }

/-! ### Life cycle (R386 to R388) -/

/-- The code of a state, as a number of LC_BITS' group. -/
abbrev lcGroup : Lc → Nat := lcCode

/-- The three bits of a state set. -/
def lcSet (b : BitVec 15) (l : Lc) : BitVec 15 :=
  if lcGroup l = 0 then b else (List.range 3).foldl (fun v i => v ||| bitAt 15 (3 * (lcGroup l - 1) + i)) b

/-- CAL_KEY, ATT_SEED and ATT_ID destroyed: all of their bits set (R378, R388). -/
def destroy (p : Pld) : Pld := { p with calKey := BitVec.allOnes 256, attSeed := BitVec.allOnes 256, attId := BitVec.allOnes 128 }

/-- A state in which the secrets are destroyed (R388). -/
def secretless (l : Lc) : Bool := decide (l = .returned ∨ l = .decommissioned)

/-- What the boot ROM does as it reads the state: it completes a destruction (R388) and sets the state's remaining bits (R386). -/
def readLc (p : Pld) : Pld :=
  let l := lcOf p.lcBits
  let p := if secretless l then destroy p else p
  { p with lcBits := lcSet p.lcBits l }

/-- A transition written: secrets destroyed first, then LC_BITS (R388). -/
def writeLc (l : Lc) (p : Pld) : Pld :=
  let p := if secretless l then destroy p else p
  { p with lcBits := lcSet p.lcBits l }

/-! ### OTP through JTAG (R377, R386, R387) -/

/-- The OTP fields that Destoeri writes through JTAG, by the state in which each is written (*Table — OTP fields*). -/
inductive OtpField where
  | serial | macBase | rootHash0 | rootHash1 | facHash | retHash | calKey | attSeed | attId
  deriving DecidableEq, Repr

/-- A secret field, written in FACTORY; the others are written in BLANK. -/
def OtpField.secret : OtpField → Bool
  | .calKey | .attSeed | .attId => true
  | _ => false

/-- Bits of a field set; none is ever cleared (R378). -/
def otpSet (f : OtpField) (v : BitVec 256) (p : Pld) : Pld :=
  match f with
  | .serial => { p with serial := p.serial ||| v.setWidth 64 }
  | .macBase => { p with macBase := p.macBase ||| v.setWidth 48 }
  | .rootHash0 => { p with rootHash0 := p.rootHash0 ||| v }
  | .rootHash1 => { p with rootHash1 := p.rootHash1 ||| v }
  | .facHash => { p with facHash := p.facHash ||| v }
  | .retHash => { p with retHash := p.retHash ||| v }
  | .calKey => { p with calKey := p.calKey ||| v }
  | .attSeed => { p with attSeed := p.attSeed ||| v }
  | .attId => { p with attId := p.attId ||| v.setWidth 128 }

/-- A field programmed through JTAG, where the port is open for it (*Table — Life-cycle states*). -/
def tapProgram (f : OtpField) (v : BitVec 256) (s : State) : State :=
  if tapOtp (lcNow s) && decide (lcNow s = if f.secret then .factory else .blank) then withPld (otpSet f v) s else s

/-- BLANK to FACTORY, which Destoeri makes through JTAG (*Table — Life-cycle transitions*). -/
def tapFactory (s : State) : State := if tapOtp (lcNow s) && decide (lcNow s = .blank) then withPld (writeLc .factory) s else s

/-! ### Images (R379, R380) -/

/-- BODY_LEN of an image. -/
def bodyLen (b : List Byte) : Nat := fld b 16 4

/-- The image proper: header and body. -/
def imageBytes (b : List Byte) : List Byte := b.take (4096 + bodyLen b)

/-- SHA-256 as it is held. -/
abbrev digestNat (p : List Byte) : BitVec 256 := digestOf (sha256 p)

/-- SIG verifies under PUBKEY over bytes 0 to 87 and the body (check 5: LMS_SHA256_M32_H15 with LMOTS_SHA256_N32_W4). -/
def imageSigned (b : List Byte) : Bool := lmsVerify 15 (sub b 32 56) (sub b 88 2668) (sub b 0 88 ++ sub b 4096 (bodyLen b))

/-- An image passes *Table — Image checks*. -/
def imageOk (part : Part) (p : Pld) (b : List Byte) : Bool :=
  let l := lcOf p.lcBits
  let slot := fld b 11 1
  decide (4096 ≤ b.length ∧ fld b 0 4 = 0x46584B4F ∧ fld b 4 2 = 1 ∧ fld b 6 1 = 3 ∧ fld b 10 1 < 8 ∧ fld b 24 1 < 2) &&
    !rsvd b 25 7 && !rsvd b 2756 1340 &&
    decide (4096 + bodyLen b ≤ 0x400000 ∧ 4096 + bodyLen b ≤ b.length ∧ fld b 20 4 < bodyLen b) &&
    bit (fld b 10 1) (part.code - 1) &&
    decide (slot < 2) && !p.rootRevoke.getLsbD slot &&
    decide (digestNat (sub b 32 56) = if slot = 0 then p.rootHash0 else p.rootHash1) &&
    imageSigned b &&
    !(decide (l = .deployed ∨ l = .returned) && decide (fld b 12 4 < p.svnFloor))

/-- A copy of the slot control record whose CRC is valid (R380). -/
def ctlOk (r : List Byte) : Bool := decide (r.length = 32) && decide (fld r 28 4 = (crc32c (sub r 0 28)).toNat)

/-- SEQ and PREFERRED of a copy: slot 1 where PREFERRED is 1. -/
def ctlSeq (r : List Byte) : Nat := fld r 8 4

/-- PREFERRED of a copy. -/
def ctlPrefers (r : List Byte) : Bool := decide (fld r 4 1 = 1)

/-- A copy of the record as firmware writes it. -/
def ctlBytes (one : Bool) (seq : Nat) : List Byte :=
  let b := le 4 Config.slotMagic.toNat ++ le 1 (flag one) ++ zeros 3 ++ le 4 seq ++ zeros 16
  b ++ le 4 (crc32c b).toNat

/-- The record of the two copies that counts: valid, and of the higher SEQ. -/
def slotRecord (p : Pld) : Option (List Byte) :=
  match ctlOk p.ctl0, ctlOk p.ctl1 with
  | true, true => some (if ctlSeq p.ctl0 < ctlSeq p.ctl1 then p.ctl1 else p.ctl0)
  | true, false => some p.ctl0
  | false, true => some p.ctl1
  | false, false => none

/-- The image in a flash slot. -/
def slotImage (p : Pld) (one : Bool) : List Byte := if one then p.image1 else p.image0

/-- The first valid image that the boot ROM finds, with its slot; none in BLANK, which has no root hash, and in DECOMMISSIONED
(R380, R386). -/
def bootChoice (part : Part) (p : Pld) : Option (Bool × List Byte) :=
  let l := lcOf p.lcBits
  if l = .blank ∨ l = .decommissioned then none
  else
    (slotRecord p).bind fun r => [ctlPrefers r, !ctlPrefers r].findSome? fun k =>
      if imageOk part p (slotImage p k) then some (k, slotImage p k) else none

/-- Bytes written to the slot that does not run (R381, step 1). -/
def writeSlot (b : List Byte) (p : Pld) : Pld := if p.slotUsed then { p with image0 := b } else { p with image1 := b }

/-- The older copy of the control record, or one that is not valid, written to prefer the new slot (R381, step 3), with a SEQ one above the
other's, up to its maximum (R9). -/
def preferNew (p : Pld) : Pld :=
  let older0 := !ctlOk p.ctl0 || (ctlOk p.ctl1 && decide (ctlSeq p.ctl0 ≤ ctlSeq p.ctl1))
  let other := if older0 then p.ctl1 else p.ctl0
  let r := ctlBytes (!p.slotUsed) (min 0xFFFFFFFF ((if ctlOk other then ctlSeq other else 0) + 1))
  if older0 then { p with ctl0 := r } else { p with ctl1 := r }

/-- A valid image stored (R381): written, read back as `back`, and made preferred only where that is the staged copy. -/
def storeImage (b back : List Byte) (p : Pld) : Pld × Bool :=
  let p := writeSlot back p
  if slotImage p (!p.slotUsed) = b then (preferNew p, true) else (p, false)

/-! ### Measurement log (R382) -/

/-- An entry appended; ignored once the log is frozen, or beyond its eight entries. -/
def measure (d : BitVec 256) (p : Pld) : Pld := if p.frozen ∨ 8 ≤ p.log.length then p else { p with log := p.log ++ [d] }

/-- Entry 1: OTP as read at this boot. -/
def otpEntry (p : Pld) : BitVec 256 :=
  Config.otpDigest p.lcBits.toNat p.serial.toNat p.rootHash0.toNat p.rootHash1.toNat p.rootRevoke.toNat p.svnFloor

/-- The log's bytes. -/
def logBytes (p : Pld) : List Byte := p.log.flatMap digestBytes

/-! ### Calibration store (R332) -/

/-- A cell's record at the start of a save interval. -/
def wearBase (w : Wear) : Wear := { w with baseFlips := w.flips.toNat, baseA := w.wearA.toNat, baseB := w.wearB.toNat }

/-- A cell's record as the hourly save leaves it: with the increments of the interval that it completes (R332). -/
def wearAtSave (w : Wear) : Wear :=
  wearBase { w with savedFlips := w.flips.toNat - w.baseFlips, savedA := w.wearA.toNat - w.baseA, savedB := w.wearB.toNat - w.baseB }

/-- The wear table saved to the calibration store, each record changed by `f`; a unit that has not loaded its table since Reset has none to
save (R329). -/
def saveTable (f : Wear → Wear) (s : State) : State :=
  let t := s.wear.map fun e => (e.1, f e.2)
  if s.sys.wearLoaded then withPld (storeWear t) { s with wear := t } else s

/-- The hourly save, which completes a save interval (R332). -/
abbrev saveWear (s : State) : State := saveTable wearAtSave s

/-- The save before a Reset that a command orders: the interval is not complete, so the increments recorded stay (R332). -/
abbrev keepWear (s : State) : State :=
  withPld (fun v => { v with wearSafe := v.wearSafe || s.sys.wearLoaded }) (saveTable wearBase s)

/-- A cell's counts after a loss: the increments of the last complete save interval are added (R332). -/
def wearAfterLoss (w : Wear) : Wear :=
  { w with flips := satAdd w.flips w.savedFlips, wearA := satAdd w.wearA w.savedA, wearB := satAdd w.wearB w.savedB }

end Sys2Proof.Machine
end

