-- ==== Sys2Proof/Machine/Window.lean ====
section
/-! DEFINITION. The host's register window (R261 to R279): reads and writes over PCIe and SPI, doorbells, acceptance, completions,
masks and the ring. -/

namespace Sys2Proof.Machine

/-! ### Registers (R266) -/

/-- The window answers: not in Reset, and not before the wipe is complete (R263, R396). -/
def windowLive (s : State) : Bool := s.pwr.wiped && !decide (s.sys.mode = .reset)

/-- The word at a register offset; offsets that are not listed read 0 (R264). -/
def windowWord (s : State) (off : Nat) : W32 :=
  match off with
  | 0x0000 => idWord s.part
  | 0x0004 => versionWord s.mbx
  | 0x0008 => statusWord s
  | 0x000C => summaryWord s.dike
  | 0x0014 => s.mbx.done.zeroExtend 32
  | 0x0018 => s.mbx.irqMask.zeroExtend 32
  | 0x001C => s.mbx.busy.zeroExtend 32
  | 0x0020 => s.mbx.prod
  | 0x0024 => s.mbx.cons
  | 0x0028 => s.mbx.lost.zeroExtend 32
  | _ => 0

/-- The slot that an offset of the window lies in. -/
def slotAt (off : Nat) : Option Nat := if 0x1000 ≤ off ∧ off < 0x9000 then some ((off - 0x1000) / 0x1000) else none

/-- MBX_DOORBELL: BUSY is set for each slot rung, or HOST_ERR for one that is BUSY already (R273, R276). -/
def ringSlots (v : W32) (s : State) : State :=
  withMbx (fun m =>
    let bits : BitVec 8 := v.extractLsb' 0 8
    { m with hostErr := m.hostErr || decide (bits &&& m.busy ≠ 0)
             rung := m.rung ||| (bits &&& ~~~m.busy)
             busy := m.busy ||| bits }) s

/-- MBX_COMPLETE: DONE bits written 1 clear. -/
def clearDone (v : W32) (s : State) : State := withMbx (fun m => { m with done := m.done &&& ~~~(v.extractLsb' 0 8) }) s

/-- Vectors whose condition is present (*Table — Interrupt conditions*). -/
def presentVectors (m : Mbx) : List Nat :=
  (ones 8 m.done) ++ (if m.prod ≠ m.cons then [8] else []) ++ (if m.faultChg then [9] else []) ++ (if m.statChg then [10] else [])

/-- MBX_IRQ_MASK: unmasking a condition that is present sends its message; the ring's is then its last message (R278). -/
def writeMask (v : W32) (s : State) : State :=
  let old := s.mbx.irqMask
  let s := withMbx (fun m => { m with irqMask := v.extractLsb' 0 11 }) s
  forEach ((presentVectors s.mbx).filter fun k => old.getLsbD k) s fun s k =>
    let s := if k = 8 && tells s 8 then withMbx (fun m => { m with ringArmed := false }) s else s
    signal k s

/-- MBX_RING_CONS: refused with HOST_ERR where the unread count would leave 0 to 96 (R276); freed space may post LOST (R275). -/
def writeCons (v : W32) (s : State) : State :=
  if 96 < (s.mbx.prod - v).toNat then withMbx (fun m => { m with hostErr := true }) s
  else flushLost (withMbx (fun m => { m with cons := v, ringArmed := true }) s)

/-- The pending bits of vectors whose condition is no longer present clear, as PCI Express has it of an interrupt that is served (R278). -/
def servePend (s : State) : State :=
  { s with pcie := { s.pcie with pend := s.pcie.pend &&& mapOf 32 (presentVectors s.mbx) } }

/-- A word written to a register; RO and unlisted ones ignore it (R264). -/
def windowWrite (off : Nat) (v : W32) (s : State) : State :=
  servePend <| match off with
  | 0x0008 => withMbx (fun m => { m with statChg := m.statChg && !v.getLsbD 0, faultChg := m.faultChg && !v.getLsbD 1,
                                         ringOvf := m.ringOvf && !v.getLsbD 2, hostErr := m.hostErr && !v.getLsbD 3 }) s
  | 0x0010 => ringSlots v (ev 292 s)
  | 0x0014 => clearDone v s
  | 0x0018 => writeMask v s
  | 0x0024 => writeCons v s
  | _ => s

/-- One byte written to slot or ring memory: a BUSY slot discards it with HOST_ERR; the ring and the rest ignore it. -/
def memoryWrite (off : Nat) (b : Byte) (s : State) : State :=
  match slotAt off with
  | some n =>
    if s.mbx.busy.getLsbD n then withMbx (fun m => { m with hostErr := true }) s
    else withMbx (fun m => { m with mem := sset 0 m.mem off b }) s
  | none => s

/-- Bytes written from an offset of slot memory on. -/
def memoryWrites (off : Nat) : List Byte → State → State
  | [], s => s
  | b :: t, s => memoryWrites (off + 1) t (memoryWrite off b s)

/-! ### Commands of the window -/

/-- The selected port is a PCIe endpoint in D3hot. -/
def portAsleep (s : State) : Bool := !s.sys.spi && s.pcie.d3hot

/-- An access answered with Unsupported Request, which AER's status shows (R262): an uncorrectable error that the endpoint logs, so source
187 occurs (R311). -/
def refuseAccess (s : State) : State := raise 187 (emit .unsupported { s with pcie := { s.pcie with urSeen := true } })

/-- HOST_WINDOW_WRITE over PCIe (R264): a register takes naturally aligned words only, and answers any other access with Unsupported
Request, as the function does in D3hot with every one (R262; log entry 98). -/
def hostWrite (off : Nat) (data : List Byte) (s : State) : State :=
  if s.sys.spi || 0x10000 < off + data.length then s
  else if portAsleep s then refuseAccess s
  else if !windowLive s then s
  else if off < 0x1000 then
    (if data.length = 4 ∧ off % 4 = 0 then windowWrite off (BitVec.ofNat 32 (leNat data)) s else refuseAccess s)
  else memoryWrites off data s

/-- A read of one byte of the window outside the registers. -/
def memoryByte (s : State) (off : Nat) : Byte := if 0x1000 ≤ off ∧ off < 0xC000 then sget 0 s.mbx.mem off else 0

/-- Byte k of a word. -/
abbrev byteOf (v : W32) (k : Nat) : Byte := v.extractLsb' (8 * k) 8

/-- The data of an SPI write from an address on (R265): a register word takes effect on its fourth byte, and only when its four bytes
come in order from its first; `part` holds those that have come. -/
def spiWrite : Nat → List Byte → List Byte → State → State
  | _, _, [], s => s
  | a, part, b :: t, s =>
    let a := a % 0x10000
    if a < 0x1000 then
      let part := if a % 4 = 0 then [b] else if part.length = a % 4 then part ++ [b] else []
      if part.length = 4 then spiWrite (a + 1) [] t (windowWrite (a - 3) (BitVec.ofNat 32 (leNat part)) s)
      else spiWrite (a + 1) part t s
    else spiWrite (a + 1) [] t (memoryWrite a b s)

/-- The data of an SPI read of `n` bytes: a register word is latched at the first byte transferred from it, and LOST clears at the
fourth of a whole word. -/
def spiRead : Nat → Nat → Option (Nat × W32) → List Byte → State → List Byte × State
  | 0, _, _, acc, s => (acc, s)
  | n + 1, a, latch, acc, s =>
    let a := a % 0x10000
    if a < 0x1000 then
      let (from_, w) : Nat × W32 := if a % 4 = 0 then (0, windowWord s a) else latch.getD (a % 4, windowWord s (a - a % 4))
      let s := if a = 0x002B ∧ from_ = 0 then withMbx (fun m => { m with lost := 0 }) s else s
      spiRead n (a + 1) (if a % 4 = 3 then none else some (from_, w)) (acc ++ [byteOf w (a % 4)]) s
    else spiRead n (a + 1) none (acc ++ [memoryByte s a]) s

/-- SPI_TRANSACTION (R265): command byte, address, for a read one dummy byte, then the data bytes clocked. -/
def spiTake (bytes : List Byte) (s : State) : State :=
  if !s.sys.spi then s
  else
    match bytes with
    | c :: hi :: lo :: rest =>
      let a := hi.toNat * 256 + lo.toNat
      if c = 0x02 then (if windowLive s then spiWrite a [] rest s else s)
      else if c = 0x03 then
        let n := rest.length - 1
        if windowLive s then
          let (d, s) := spiRead n a none [] s
          emit (.spi d) s
        else emit (.spi (List.replicate n 0xFF)) s
      else s
    | _ => s

/-- MBX_RING_LOST_READ: LOST returned and cleared. -/
def readLost (s : State) : State :=
  if portAsleep s then refuseAccess s
  else if windowLive s then withMbx (fun m => { m with lost := 0 }) (emit (.readData (s.mbx.lost.zeroExtend 32)) s)
  else emit (.readData 0xFFFFFFFF) s

/-! ### Acceptance (R270 to R274) -/

/-- The frame check that a slot's frame fails (*Table — Frame checks*), or the boot ROM's answer to a command that it does not have
(R272); none where the command is accepted. -/
def frameFails (s : State) (h : List Byte) (payload : List Byte) : Option Nat :=
  let op := fld h 0 2
  let g := op / 256
  if 4080 < fld h 4 4 then some 0x10
  else if fld h 12 4 ≠ (crc32c (sub h 0 12 ++ payload)).toNat then some 0x11
  else if 4 ≤ fld h 8 4 then some 0x12
  else if !s.sys.fwRun then
    (if op = 0x0100 ∨ op = 0x0101 then none else if 1 ≤ g ∧ g ≤ 11 then some (g * 256 + 3) else some 0x13)
  else if isOpcode op then none else some 0x13

/-- One slot's frame accepted, or answered at once (R270). MBX_STATUS names HOST_ERR an error under R268 or R276, and R270 gives a failing frame
no effect but its status: R276's breaches alone set it (DESIGN CHOICE, log entry 142). -/
def acceptSlot (n : Nat) (s : State) : State :=
  let h := slotHeader s n
  let payload := if 4080 < fld h 4 4 then [] else slotPayload s n
  let op := fld h 0 2
  let s := withMbx (fun m => { m with rung := setBit m.rung n false }) s
  match frameFails s h payload with
  | some code => respond n op (fld h 2 2) code [] s
  | none =>
    let flags := fld h 8 4
    let c : SlotCmd := { slot := n, opcode := op, seq := BitVec.ofNat 16 (fld h 2 2), notify := bit flags 0,
                         barrier := bit flags 1 && !s.mbx.cmds.isEmpty, acc := s.tb.now }
    let s := withMbx (fun m => { m with cmds := m.cmds ++ [c] }) s
    if op = 0x0202 ∨ op = 0x0206 then tagEnter (some n) none s else s

/-- COMMAND_ACCEPTANCE (R274): the doorbells found are accepted in ascending slot number. -/
def acceptAll (s : State) : State :=
  if served s 0x0100 then forEach (ones 8 s.mbx.rung) s fun s n => acceptSlot n s else s

/-- BARRIER_START (R274): every command accepted before it has reached its final status. -/
def startBarrier (slot : Nat) (s : State) : State :=
  match cmdAt s slot with
  | some c =>
    if c.barrier && (s.mbx.cmds.takeWhile (· != c)).isEmpty then
      withMbx (fun m => { m with cmds := m.cmds.map fun x => if x = c then { x with barrier := false } else x }) s
    else s
  | none => s

/-- A write of one of the window's registers by either port. -/
def registerWord (off : Nat) (v : W32) (s : State) : State :=
  if portAsleep s then refuseAccess s else if windowLive s then windowWrite off v s else s

/-! ### The rows -/

/-- SPI_TRANSACTION (R265). -/
def execSpiTransaction (dt : Nat) (bytes : List Byte) (s : State) : Host.Outcome State Fault Refusal := run dt s (spiTake bytes)

/-- HOST_WINDOW_WRITE (R264). -/
def execHostWindowWrite (dt : Nat) (offset : BitVec 16) (data : List Byte) (s : State) : Host.Outcome State Fault Refusal :=
  run dt s (hostWrite offset.toNat data)

/-- MBX_DOORBELL (R273). -/
def execMbxDoorbell (dt : Nat) (value : W32) (s : State) : Host.Outcome State Fault Refusal := run dt s (registerWord 0x0010 value)

/-- COMMAND_ACCEPTANCE (R274). -/
def execCommandAcceptance (dt : Nat) (s : State) : Host.Outcome State Fault Refusal := live dt s acceptAll

/-- BARRIER_START (R274). -/
def execBarrierStart (dt slot : Nat) (s : State) : Host.Outcome State Fault Refusal := live dt s (startBarrier slot)

/-- MBX_COMPLETE_CLEAR (R273). -/
def execMbxCompleteClear (dt : Nat) (value : W32) (s : State) : Host.Outcome State Fault Refusal :=
  run dt s (registerWord 0x0014 value)

/-- MBX_IRQ_MASK_WRITE (R278). -/
def execMbxIrqMaskWrite (dt : Nat) (value : W32) (s : State) : Host.Outcome State Fault Refusal :=
  run dt s (registerWord 0x0018 value)

/-- MBX_RING_CONS_WRITE (R276). -/
def execMbxRingConsWrite (dt : Nat) (value : W32) (s : State) : Host.Outcome State Fault Refusal :=
  run dt s (registerWord 0x0024 value)

/-- MBX_RING_LOST_READ (R275). -/
def execMbxRingLostRead (dt : Nat) (s : State) : Host.Outcome State Fault Refusal := run dt s readLost

end Sys2Proof.Machine
end

