-- ==== Sys2Proof/Machine/Boot.lean ====
section
/-! DEFINITION. Power, Reset and Boot (R391 to R404, R339, R353, R361): the triggers, the boot timeline's events, and the entry into
Dark. -/

namespace Sys2Proof.Machine

/-- A change of the power and reset sequencer. -/
def withPwr (f : Pwr → Pwr) (s : State) : State := { s with pwr := f s.pwr }

/-! ### Reset triggers (R392 to R395) -/

/-- A trigger that a latched FATAL fault makes the device ignore (R15, R16). -/
def softReset (s : State) : State := if resetIgnored s then s else intoReset s

/-- POWER_REMOVED (R393): no rail is good. -/
def removePower (s : State) : State :=
  withPwr (fun p => { p with powered := false, tripped := [.vddCore, .vddIo, .vdd18, .vdd33, .vmem, .vhtr, .vpin] }) (intoReset s)

/-- POWER_ON (R393): all rails have risen through their good levels, as the command's row says; the latch and the Dike's own sources are
cleared. -/
def applyPower (s : State) : State :=
  if s.pwr.powered then s
  else
    let s := intoReset s
    { s with pwr := { s.pwr with powered := true, tripped := [] }, dike := {}, mbx := {}, pcie := {}, tap := {} }

/-- SUPPLY_TRIP (R392): a Reset trigger that a latched FATAL fault does not stop. -/
def tripRail (r : Rail) (s : State) : State :=
  if s.pwr.tripped.contains r || !s.pwr.powered then s
  else intoReset (withPwr (fun p => { p with tripped := r :: p.tripped }) s)

/-- RAIL_GOOD (R395). -/
def goodRail (r : Rail) (s : State) : State :=
  if s.pwr.powered then withPwr (fun p => { p with tripped := p.tripped.filter (· ≠ r) }) s else s

/-- SUPPLY_WARN (R392): source 19 is asserted while any rail is out of its operating range. -/
def warnRail (r : Rail) (s : State) : State :=
  let s := if s.pwr.warned.contains r then s else withPwr (fun p => { p with warned := r :: p.warned }) s
  setLevel 19 true s

/-- SUPPLY_IN_RANGE (R392). -/
def inRangeRail (r : Rail) (s : State) : State :=
  let s := withPwr (fun p => { p with warned := p.warned.filter (· ≠ r) }) s
  if s.pwr.warned.isEmpty then setLevel 19 false s else s

/-- RESET_N_LOW (R395): under a latched FATAL fault the level alone counts (R15). -/
def resetNLow (s : State) : State :=
  let t := withPwr (fun p => { p with resetLow := true }) s
  if resetIgnored s then t else intoReset t

/-- RESET_N_HIGH (R395). -/
def resetNHigh (s : State) : State := withPwr (fun p => { p with resetLow := false }) s

/-- RESET_RELEASE (R395 to R397): with every rail good and no trigger left (RESET_N is none while a FATAL fault is latched, R15), t0: outputs at code 0, straps sampled, the first role. A
partner that asserts its role is seen at once (R257). -/
def releaseReset (pairSide hostSel : Bool) (s : State) : State :=
  if s.sys.mode = .reset && s.pwr.powered && s.pwr.tripped.isEmpty && !(s.pwr.resetLow && !s.dike.fatal) then
    let on := s.cld.roleInA || s.cld.roleInB
    let s := { s with
      pwr := { s.pwr with hiZ := false, t0 := s.tb.now, watchdog := s.tb.now }
      sys := { s.sys with mode := .boot, sideB := pairSide, spi := hostSel,
                          role := if s.cld.present then .standby else .solo }
      cld := { s.cld with asserted := on, resyncWait := on && s.cld.present } }
    if s.pwr.warned.isEmpty then s else setLevel 19 true s
  else s

/-- WATCHDOG_RESTART (R353): by cores that run (R318, R376). -/
def restartWatchdog (s : State) : State := if answers s then withPwr (fun p => { p with watchdog := s.tb.now }) s else s

/-- PLL_LOCK (R396): the reference clock runs, and the PLLs are locked. -/
def lockPlls (s : State) : State := if s.sys.mode = .boot then withPwr (fun p => { p with refclk := true, plls := true }) s else s

/-- BASIN_TRAINED (R396). -/
def trainBasin (s : State) : State := if s.sys.mode = .boot && s.pwr.plls then withPwr (fun p => { p with basin := true }) s else s

/-- WIPE_COMPLETE (R390, R267): the window is cleared, no message of it stays pending, and it answers from now on. The boot ROM starts, and first of all reads the life cycle
and completes a destruction that was interrupted (R386, R388). -/
def completeWipe (s : State) : State :=
  if s.sys.mode = .boot && s.pwr.plls && s.pwr.basin && !s.pwr.wiped then
    { s with mbx := { msixOn := s.mbx.msixOn }, pcie := { s.pcie with pend := 0 }, pwr := { s.pwr with wiped := true }, pld := readLc s.pld }
  else s

/-- REFCLK_LOSS (R248, R376): clocks and firmware stop, the valves go to SAFE_CODE, the role is released, source 14 occurs. -/
def loseRefclk (s : State) : State :=
  if s.pwr.refclk then
    raise 14 (releaseRole (safeValves (withPwr (fun p => { p with refclk := false, plls := false }) s)))
  else s

/-! ### Handover (R380, R398, R339) -/

/-- A valve's OPEN_CODE and BLOCK_CODE in its descriptor, BLOCK_CODE at its ladder and as SAFE_CODE (R398, R81). -/
def setValve (n : Nat) (c : BitVec 14 × BitVec 14) (s : State) : State :=
  let word := BitVec.ofNat 32 (c.1.toNat + c.2.toNat * 65536)
  let s := modLoop (valveLoop s.part n) (fun l => { l with desc := { l.desc with kind := .valve, setpt := word } }) s
  writeValve n false (modPortDac (256 + n) (fun d => { d with safeCode := c.2 }) s)

/-- Every valve blocked: codes as firmware measured them, in port order (R398). -/
def setValves (codes : List (BitVec 14 × BitVec 14)) (s : State) : State :=
  let s := forEach (List.range s.part.ports) s fun s n => setValve n (nth (0, 0) codes n) s
  withPwr (fun p => { p with blocked := true }) s

/-- A Jet that failed the test of R339: its group's spare takes its loops from the start; where none is left, its source occurs. -/
def testJet (j : Nat) (s : State) : State :=
  let g := spareGroup s.part j
  let s := modJet j (fun x => { x with failed := true }) s
  if s.part.jets ≤ j then { s with dike := { s.dike with jetSpare := (g :: s.dike.jetSpare).eraseDups } }
  else if s.dike.jetSpare.contains g then raise (20 + j) s
  else
    let sp := s.part.jets + g
    let s := modJet j (fun x => { x with takenBy := some sp }) s
    let s := modJet sp (fun y => { y with takeIdx := BitVec.ofNat 4 (j % 16), takeEn := true, wellSel := some j }) s
    { s with dike := { s.dike with jetSpare := g :: s.dike.jetSpare } }

/-- A well that failed it. -/
def testWell (w : Nat) (s : State) : State :=
  let g := spareGroup s.part w
  let s := modWell w (fun x => { x with failed := true }) s
  if s.part.jets ≤ w then { s with dike := { s.dike with wellSpare := (g :: s.dike.wellSpare).eraseDups } }
  else if s.dike.wellSpare.contains g then raise (88 + w) s
  else
    let sp := spareWell s.part w
    let s := modWell sp (takeTaps (w % 16) (wellOf s w)) (modWell w (fun x => { x with away := true }) s)
    let s := modJet w (fun x => { x with wellSel := some sp }) s
    let s := match (jetOf s w).takenBy with
      | some k => modJet k (fun x => { x with wellSel := some sp }) s
      | none => s
    { s with dike := { s.dike with wellSpare := g :: s.dike.wellSpare } }

/-- Spares first, then the units in service, each in rising order. -/
def testOrder (p : Part) (l : List Nat) : List Nat :=
  ((List.range p.spares).map (p.jets + ·) ++ List.range p.jets).filter l.contains

/-- Firmware's start: it serves the slots, reports what is sticky (R272), blocks the valves, tests Jets and wells, and meets a FATAL
latch with Safe (R15), whose entry posts the sources of class MAJOR and above, once each (R323). -/
def startFirmware (img : List Byte) (codes : List (BitVec 14 × BitVec 14)) (jets wells : List Nat) (s : State) : State :=
  let s := { s with
    sys := { s.sys with fwRun := true }
    mbx := { s.mbx with ifMinor := BitVec.ofNat 8 (fld img 7 1), fwBuild := BitVec.ofNat 16 (fld img 8 2) }
    plat := { s.plat with remap := true, chan := chanTable } }
  let low := if s.dike.fatal then 2 else 4
  let s := forEach ((stickies s.dike).filter fun n =>
      let c := classCode (src s.dike n).applied
      decide (1 ≤ c ∧ c < low)) s fun s n => notifyFault n s
  let s := setValves codes s
  let s := forEach (List.range s.part.spares) s fun s k => modWell (s.part.jets + k) (setPdAuto false) s
  if s.dike.fatal then enterSafe 192 s
  else
    let s := forEach (testOrder s.part jets) s fun s j => testJet j s
    forEach (testOrder s.part wells) s fun s w => testWell w s

/-- FIRMWARE_HANDOVER (R380, R382): the boot ROM measures, and hands over to the first valid image;
with none the device stays in Boot. -/
def handOver (codes : List (BitVec 14 × BitVec 14)) (jets wells : List Nat) (s : State) : State :=
  if s.sys.mode = .boot && s.pwr.wiped && s.pwr.refclk && !s.sys.fwRun && !s.pwr.stopped then
    let s := if s.pld.log.isEmpty then withPld (fun p => measure (otpEntry p) (measure Config.romDigest p)) s else s
    match bootChoice s.part s.pld with
    | none => s
    | some (k, img) =>
      let d := digestNat (imageBytes img)
      let s := withPld (fun p =>
        { measure d p with fwDigest := d, slotUsed := k, keyUsed := bit (fld img 11 1) 0, imgSvn := fld img 12 4,
                           imgRevoke := bit (fld img 24 1) 0 }) s
      startFirmware img codes jets wells s
  else s

/-! ### Into Dark (R399, R400) -/

/-- A loop enabled (R110): the outputs go to the Jet, which starts from the code it reads there, its channels average over a round, and
LOCK clears with the entry into soft-start (R63, R116). An OPAQUE cell's loop stays as it is, its heaters frozen (R42, log entry 115), and
so does one with a channel in forerunner mode (R69). -/
def startLoop (l : Nat) (s : State) : State :=
  if (decide (l < s.part.cells) && frozenCell s l) || forerunnerOn s l then s
  else modLoop l (fun v => { unlock v with enabled := true, ramp := .starting, ramping := true, desc := { v.desc with en := true } })
    (roundAvg l (setOwn l true (lockEvent l s)))

/-- Heater B of a cell is in use, as its condition byte says (R34, R43). -/
def onHeaterB (c : CalData) (n : Nat) : Bool := (sget 0 c.cond n).getLsbD 2

/-- A loop's descriptor and banks loaded; a valve keeps the codes of R398. -/
def loadLoop (p : Part) (c : CalData) (n : Nat) (v : Loop) : Loop :=
  let d : Desc := sget {} c.desc n
  let b : Bank := sget {} c.bank n
  { v with desc := { d with kind := kindOf p n, en := false, st := false, abank := false,
                            htrB := decide (kindOf p n = .cell) && onHeaterB c n,
                            setpt := if kindOf p n = .valve then v.desc.setpt else d.setpt }
           bank0 := b, bank1 := b }

/-- The key of the Fountain slot of a Jet's slot that holds no loop in service. -/
def spareFnt (j k : Nat) : Nat := 0x10000 + 64 * j + k

/-- The Fountain's slot of a loop: its frequency slot, and dither for cells alone (R84, R85, R98). -/
def loadFnt (p : Part) (rate : BitVec 2) (n : Nat) : Fnt :=
  let k := slotOf p n
  { slot := BitVec.ofNat 6 k, inc := slotInc k rate, en := decide (kindOf p n = .cell) }

/-- A well's schedule, gains and slice corrections loaded: the channels of the slots it serves convert from the next frame start, with
the taint of a changed gain (R66, R71; log entry 35). -/
def loadWell (p : Part) (c : CalData) (w : Nat) (v : Well) : Well :=
  let j := jetOfWell p w v
  let serves := decide (w < p.jets) || v.takeEn
  let v := { v with slice := stab {} 8 fun i => sget {} c.slice (8 * w + i) }
  if serves then
    { v with sched := (List.range 72).filterMap fun e =>
               if (loopAt p j (slotOfChan e)).isSome then some (e, { en := true, chan := BitVec.ofNat 7 e }) else none
             chan := smap {} 72 v.chan fun ch x => { x with gain := sget 0 c.gain (128 * j + ch) }
             win := smap {} 74 v.win fun ch x => if (chanOf v ch).gain = sget 0 c.gain (128 * j + ch) then x else { x with taint := 4 }
             wakeDue := v.pdState }
  else v

/-- The drive outputs at Boot: every heater's range, the calibrated code of each heater in use, flip currents, equalisers at 15.0 dB
(R399). -/
def loadDac (p : Part) (c : CalData) (d : Dac) : Dac :=
  { htr := stab {} (2 * p.cells) fun n =>
      let q : HtrCal := sget {} c.htr n
      { range := q.range, code := if onHeaterB c (n / 2) = decide (n % 2 = 1) then q.opCode else 0 }
    port := smap {} 512 d.port fun n v => if n < p.ports then { v with code := (sget {} c.eq n : EqCal).codeMax } else v
    flip := stab {} p.cells fun n =>
      let q : FlipCal := sget {} c.flip n
      { preemph := q.preemph, iset := q.iset } }

/-- The Fountain's slots of every loop at a loop rate; those of slots that hold no loop in service stay. -/
def loadFnts (s : State) : Sparse Fnt :=
  stab {} s.part.loops (loadFnt s.part s.jets.rate) ++ s.jets.fnt.filter fun e => decide (spareFnt 0 0 ≤ e.1)

/-- Every sound Jet that holds loops computes. -/
def runJets (s : State) : State :=
  let s := forEach (List.range s.part.jets) s fun s j =>
    if (jetOf s j).failed then s else modJet j (fun x => { x with run := true }) s
  { s with jets := { s.jets with regs := s.jets.regs.map fun e =>
      if e.2.takeEn && !e.2.failed then (e.1, { e.2 with run := true }) else e } }

/-- The fabric prepared at Boot from a CAL record (R399); no OPAQUE cell's loop is enabled (R42, log entry 115). -/
def prepareFabric (band : Option Bool) (c : CalData) (s : State) : State :=
  let p := s.part
  let wells := smap {} (p.jets + p.spares) s.wells fun w v => loadWell p c w v
  let s := { s with
    cal := c
    dac := loadDac p c s.dac
    wells := wells
    jets := { s.jets with loops := smap {} p.loops s.jets.loops (loadLoop p c), fnt := loadFnts s }
    fab := { s.fab with cond := c.cond
                        cells := mapOf 2048 ((c.cond.filter fun e => e.2.toNat % 4 = 2).map (·.1)) }
    sys := { s.sys with calValid := true, uncal := [], band := band } }
  forEach (List.range p.loops) (runJets s) fun s l => startLoop l s

/-- The wear table loaded, with the increments of a lost interval; without an authentic copy a new history begins (R332, R385). -/
def loadWear (s : State) : State :=
  let s := { s with sys := { s.sys with wearLoaded := true } }
  match wearRecord s.pld with
  | some r => { s with wear := r.table.map fun e => (e.1, wearBase (if s.pld.wearSafe then e.2 else wearAfterLoss e.2)) }
  | none => raise 190 { s with wear := [] }

/-- What firmware asks of the Polder once it has reached Dark (R381, R382); SVN_FLOOR is a thermometer of 64 bits. -/
def settlePolder (p : Pld) : Pld :=
  let p := if lcOf p.lcBits = .deployed then { p with svnFloor := min 64 (max p.svnFloor p.imgSvn) } else p
  let p := if p.imgRevoke then { p with rootRevoke := setBit p.rootRevoke (flag (!p.keyUsed)) true } else p
  { p with frozen := true, wearSafe := false }

/-- STORE_LOADED (R385, R399, R400): the records are loaded, the fabric is prepared, and the unit enters Dark; one temperature
measurement comes before it (R344). -/
def loadStore (s : State) : State :=
  if s.sys.mode = .boot && fwLive s && s.temp.measured then
    let s := match calRecord s.pld with
      | some r => prepareFabric (some (decide (r.hdr.band = 1))) r.data (withPld (measure (digestNat (calBytes r))) s)
      | none => raise 190 (withPld (measure 0) s)
    let s := loadWear s
    let s := { s with plat := { s.plat with lock := true } }
    let s := withPld (measure (digestNat (chanBytes s.plat))) s
    if s.sys.mode = .boot then enterMode .dark (withPld settlePolder s) else s
  else s

/-! ### The rows -/

/-- POWER_ON (R393). -/
def execPowerOn (dt : Nat) (s : State) : Host.Outcome State Fault Refusal := run dt s applyPower

/-- POWER_REMOVED (R393). -/
def execPowerRemoved (dt : Nat) (s : State) : Host.Outcome State Fault Refusal := run dt s removePower

/-- SUPPLY_TRIP (R392). -/
def execSupplyTrip (dt : Nat) (rail : Rail) (s : State) : Host.Outcome State Fault Refusal := run dt s (tripRail rail)

/-- SUPPLY_WARN (R392). -/
def execSupplyWarn (dt : Nat) (rail : Rail) (s : State) : Host.Outcome State Fault Refusal := run dt s (warnRail rail)

/-- RESET_N_LOW (R395). -/
def execResetNLow (dt : Nat) (s : State) : Host.Outcome State Fault Refusal := run dt s resetNLow

/-- RESET_RELEASE (R395). -/
def execResetRelease (dt : Nat) (pairSide hostSel : Bool) (s : State) : Host.Outcome State Fault Refusal :=
  run dt s (releaseReset pairSide hostSel)

/-- WATCHDOG_EXPIRY (R353). -/
def execWatchdogExpiry (dt : Nat) (s : State) : Host.Outcome State Fault Refusal := run dt s softReset

/-- WATCHDOG_RESTART (R353). -/
def execWatchdogRestart (dt : Nat) (s : State) : Host.Outcome State Fault Refusal := live dt s restartWatchdog

/-- PLL_LOCK (R396). -/
def execPllLock (dt : Nat) (s : State) : Host.Outcome State Fault Refusal := live dt s lockPlls

/-- BASIN_TRAINED (R396). -/
def execBasinTrained (dt : Nat) (s : State) : Host.Outcome State Fault Refusal := live dt s trainBasin

/-- WIPE_COMPLETE (R390). -/
def execWipeComplete (dt : Nat) (s : State) : Host.Outcome State Fault Refusal := live dt s completeWipe

/-- FIRMWARE_HANDOVER (R380). -/
def execFirmwareHandover (dt : Nat) (valveCodes : List (BitVec 14 × BitVec 14)) (failedJets failedWells : List Nat) (s : State) :
    Host.Outcome State Fault Refusal := live dt s (handOver valveCodes failedJets failedWells)

/-- STORE_LOADED (R385). -/
def execStoreLoaded (dt : Nat) (s : State) : Host.Outcome State Fault Refusal := live dt s loadStore

/-- REFCLK_LOSS (R248). -/
def execRefclkLoss (dt : Nat) (s : State) : Host.Outcome State Fault Refusal := live dt s loseRefclk

/-- The endpoint's configuration space and MSI-X table at reset: no slot, ring or register of the window changes (R262). -/
def resetEndpoint (s : State) : State := { withMbx (fun m => { m with msixOn := false }) s with pcie := {} }

/-- PERST (R262). -/
def execPerst (dt : Nat) (s : State) : Host.Outcome State Fault Refusal := run dt s resetEndpoint

/-- RAIL_GOOD (R395). -/
def execRailGood (dt : Nat) (rail : Rail) (s : State) : Host.Outcome State Fault Refusal := run dt s (goodRail rail)

/-- RESET_N_HIGH (R395). -/
def execResetNHigh (dt : Nat) (s : State) : Host.Outcome State Fault Refusal := run dt s resetNHigh

/-- SUPPLY_IN_RANGE (R392). -/
def execSupplyInRange (dt : Nat) (rail : Rail) (s : State) : Host.Outcome State Fault Refusal := run dt s (inRangeRail rail)

end Sys2Proof.Machine
end

