-- ==== Sys2Proof/Machine/Thermal.lean ====
section
/-! DEFINITION. Wear, heater B and temperature (R329 to R350): the timed happenings and the commands HEATER_B, TEMP_READ, TEMP_CFG
and WEAR_READ. -/

namespace Sys2Proof.Machine

/-! ### Temperature (R343 to R349) -/

/-- A group at reset (*Table — Sensor groups*). -/
def groupReset (g : Nat) : TGroup :=
  if g < 3 then { warn := 110 * 256, thr := 118 * 256 } else { warn := 105 * 256, thr := 110 * 256 }

/-- A sensor group. -/
def tgroup (t : Temp) (g : Nat) : TGroup := sget (groupReset g) t.groups g

/-- A sensor group changed. -/
def modGroup (g : Nat) (f : TGroup → TGroup) (s : State) : State :=
  { s with temp := { s.temp with groups := smod (groupReset g) s.temp.groups g f } }

/-- Shutdown level of a group. -/
def shutLevel (g : Nat) : Int := if g < 3 then 125 * 256 else 115 * 256

/-- A reading as a signed number. -/
def readingOf (l : List (BitVec 16)) (n : Nat) : Int := (nth 0 l n).toInt

/-- A group's value: the greatest of its eight readings. -/
def groupValue (l : List (BitVec 16)) (g : Nat) : Int :=
  (List.range 7).foldl (fun m i => max m (readingOf l (8 * g + i + 1))) (readingOf l (8 * g))

/-- A condition with hysteresis: it holds from `th` on, and until the value falls below `th` less `hyst`. -/
def holdsOn (on : Bool) (v th hyst : Int) : Bool := if on then decide (th - hyst ≤ v) else decide (th ≤ v)

/-- The same for a rate of `dv` in sQ8.8 K over `dt` of device time, exact. -/
def rateOn (on : Bool) (dv : Int) (dt : Nat) (th hyst : Int) : Bool :=
  if on then decide ((th - hyst) * dt ≤ dv * sec) else decide (th * dt ≤ dv * sec)

/-- The measurement that a group's rate compares with: the latest that is INTERVAL_MS old and not older than the entry to RATE. -/
def rateBase (t : Temp) (now : Time) (g : TGroup) : Option (Time × List Int) :=
  t.history.find? fun m => decide (m.1 + ns (g.interval * 1000000) ≤ now ∧ g.since ≤ m.1)

/-- A group evaluated at a completed measurement (R346, R348). -/
def evalGroup (t : Temp) (now : Time) (vals : List Int) (n : Nat) (g : TGroup) : TGroup :=
  let v := nth 0 vals n
  let g := if g.fresh then { g with fresh := false, warnOn := false, thrOn := false } else g
  let g := { g with shutOn := holdsOn g.shutOn v (shutLevel n) (if g.rateMode then 768 else g.hyst) }
  if g.rateMode then
    match rateBase t now g with
    | some m =>
      let dv := v - nth 0 m.2 n
      { g with warnOn := rateOn g.warnOn dv (now - m.1) g.warn g.hyst, thrOn := rateOn g.thrOn dv (now - m.1) g.thr g.hyst }
    | none => g
  else { g with warnOn := holdsOn g.warnOn v g.warn g.hyst, thrOn := holdsOn g.thrOn v g.thr g.hyst }

/-- Some group's condition holds. -/
def anyGroup (t : Temp) (f : TGroup → Bool) : Bool := (List.range 7).any fun g => f (tgroup t g)

/-- CAP of every Jet in service. -/
def setCaps (v : BitVec 8) (s : State) : State :=
  let s := forEach (List.range s.part.jets) s fun s j => modJet j (fun x => { x with cap := v }) s
  { s with jets := { s.jets with regs := s.jets.regs.map fun e => if e.2.takeEn then (e.1, { e.2 with cap := v }) else e } }

/-- Throttling begins or ends with THERM_THROTTLE (R349). -/
def throttle (on : Bool) (s : State) : State :=
  if on == s.sys.throttle then s
  else
    let s := { s with sys := { s.sys with throttle := on } }
    if on then setCaps 16 (ev 297 (if s.plat.capture.running || s.plat.capture.waiting then stopCapture s else s))
    else setCaps 255 (ev 298 s)

/-- A measurement starts, where none is in progress. -/
def startMeasure (s : State) : State := { s with temp := { s.temp with busy := true } }

/-- The readings' bytes. -/
def readingBytes (l : List (BitVec 16)) : List Byte := (List.range 56).flatMap fun n => le 2 (nth 0 l n).toNat

/-- TEMP_MEASUREMENT_DONE (R346, R347, R349, R307). -/
def measureDone (readings : List (BitVec 16)) (s : State) : State :=
  if !s.temp.busy || !fwLive s then s
  else
    let now := s.tb.now
    let vals := (List.range 7).map (groupValue readings)
    let s := forEach (List.range 7) s fun s g => modGroup g (evalGroup s.temp now vals g) s
    let kept := s.temp.history.filter fun m => decide (now ≤ m.1 + ns (61000 * 1000000))
    let waiting := s.temp.waiting
    let s := { s with temp := { s.temp with busy := false, waiting := [], last := readings, history := (now, vals) :: kept, measured := true } }
    let s := ev 296 s
    let s := throttle (anyGroup s.temp (·.thrOn)) s
    let s := setLevel 18 (anyGroup s.temp (·.warnOn)) s
    let s := setLevel 17 (anyGroup s.temp (·.thrOn)) s
    let s := setLevel 16 (anyGroup s.temp (·.shutOn)) s
    forEach waiting s fun s k => finishSlot k 0 (readingBytes readings) s

/-! ### Wear (R329 to R333, R341) -/

/-- A WEAR notification. -/
def notifyWear (event flags item value : Nat) (s : State) : State := notify 0xF (wearBody event flags item value) s

/-- The cell carries a connection of the applied set. -/
def carries (s : State) (c : Nat) : Bool := !(connsThrough s.part s.fab.cells s.fab.conns c).isEmpty

/-- A cell's limits after a fold (R333): an insertion becomes pending on a cell that is not OPAQUE and still uses heater A. -/
def wearLimits (c : Nat) (s : State) : State :=
  let w : Wear := sget {} s.wear c
  let a := decide (1800000000 ≤ w.wearA.toNat) && !w.aLimit
  let b := decide (1800000000 ≤ w.wearB.toNat) && !w.bLimit
  let f := decide (10000000000 ≤ w.flips.toNat) && !w.flipLimit
  let lit := flag (carries s c)
  let due := a && !(loopOf s c).desc.htrB && condAt s.fab c != .opaqueCell
  let s := { s with wear := smod {} s.wear c fun w =>
      { w with aLimit := w.aLimit || a, bLimit := w.bLimit || b, flipLimit := w.flipLimit || f, pending := w.pending || due } }
  let s := if a then raise 167 (notifyWear 0 lit c w.wearA.toNat s) else s
  let s := if b then notifyWear 2 lit c w.wearB.toNat s else s
  if f then notifyWear 3 lit c w.flips.toNat s else s

/-- WEAR_FOLD (R329). -/
def foldAll (s : State) : State :=
  if fwLive s then
    let cells := skeys s.wear
    let s := { s with wear := s.wear.map fun e => (e.1, foldWear (loopOf s e.1).desc.htrB e.2) }
    forEach cells s fun s c => wearLimits c s
  else s

/-- WEAR_SAVE (R332). -/
def saveHour (s : State) : State := if fwLive s then saveWear s else s

/-- Whole days left: a count to go at a rate per day, none at rate 0. -/
def daysLeft (left : Int) (rate : Nat) : Option Nat := if rate = 0 then none else some ((max 0 left).toNat / rate)

/-- EOL_DAYS of a cell (R341). -/
def eolOf (onB : Bool) (w : Wear) : BitVec 16 :=
  let flips := daysLeft (10000000000 - (w.flips.toNat : Int)) (w.flips.toNat - w.dayFlips)
  let heat := if onB then daysLeft (2000000000 - (w.wearB.toNat : Int)) (w.wearB.toNat - w.dayB)
    else daysLeft (3800000000 - (w.wearA.toNat : Int)) (w.wearA.toNat - w.dayA)
  match flips, heat with
  | some a, some b => BitVec.ofNat 16 (min 65534 (min a b))
  | some a, none | none, some a => BitVec.ofNat 16 (min 65534 a)
  | none, none => 0xFFFF

/-- A cell's prediction, and EOL_DUE where it is due: at first, and every 30 days. -/
def predictCell (c : Nat) (s : State) : State :=
  let w : Wear := sget {} s.wear c
  let eol := eolOf (loopOf s c).desc.htrB w
  let due := decide (eol.toNat ≤ 365)
  let post := due && decide (30 ≤ w.eolDays + 1)
  let days := if !due then 30 else if post then 0 else w.eolDays + 1
  let s := { s with wear := smod {} s.wear c fun w =>
      { w with eol := eol, dayFlips := w.flips.toNat, dayA := w.wearA.toNat, dayB := w.wearB.toNat, eolDays := days } }
  if post then notifyWear 4 (flag (carries s c)) c eol.toNat s else s

/-- EOL_PREDICTION (R341). -/
def predictAll (s : State) : State := if fwLive s then forEach (skeys s.wear) s fun s c => predictCell c s else s

/-- A cell wear record's 16 bytes (*Table — Cell wear record*). -/
def wearBytes (s : State) (c : Nat) : List Byte :=
  let w : Wear := sget {} s.wear c
  le 5 w.flips.toNat ++ le 1 (flag ((sget 0 s.fab.cond c).getLsbD 2) + flag w.pending * 2 + flag w.aLimit * 4 + flag w.bLimit * 8 +
    flag w.flipLimit * 16) ++ le 2 w.eol.toNat ++ le 4 w.wearA.toNat ++ le 4 w.wearB.toNat

/-! ### Heater B (R334 to R338) -/

/-- The insertion of a cell. -/
def insertOf (f : Fab) (c : Nat) : Option Insert := f.inserts.find? fun i => i.cell == c

/-- The insertion of a cell changed. -/
def modInsert (c : Nat) (f : Insert → Insert) (s : State) : State :=
  { s with fab := { s.fab with inserts := s.fab.inserts.map fun i => if i.cell = c then f i else i } }

/-- An armed or running reconfiguration routes a connection through a cell. -/
def routedThrough (s : State) (c : Nat) : Bool :=
  s.fab.recon.any fun r => decide (r.phase = .armed ∨ r.phase = .closed ∨ r.phase = .dark ∨ r.phase = .opened) &&
    !(connsThrough s.part r.cells r.conns c).isEmpty

/-- The valves are blocked by Dark or by the role. -/
def unlit (s : State) : Bool := decide (s.sys.mode = .dark ∨ s.sys.role = .standby ∨ s.sys.role = .resync)

/-- An insertion made at once, without valve action (R334); in a Jet whose takeover is in progress it waits (R338). -/
def insertNow (c : Nat) (slots : List Nat) (s : State) : State :=
  { s with fab := { s.fab with inserts := s.fab.inserts ++
      [{ cell := c, tIns := s.tb.now, running := !(jetOf s (jetOfLoop s.part c)).remap, slots := slots, carried := carries s c }] } }

/-- HEATER_B_PENDING_INSERT (R334). -/
def pendingInsert (c : Nat) (s : State) : State :=
  let w : Wear := sget {} s.wear c
  let free := !carries s c && !routedThrough s c
  if fwLive s && inSvc s.sys.mode && w.pending && condAt s.fab c != .opaqueCell && (insertOf s.fab c).isNone && (unlit s || free) &&
      !(jetOf s (jetOfLoop s.part c)).remap then insertNow c [] s
  else s

/-- The insertions of HEATER_B commands that have not begun: they wait for T_ins or for a Jet takeover. -/
def unbegun (l : List Insert) : List Insert := l.filter fun i => !i.running && !i.slots.isEmpty

/-- HEATER_B accepted (R335, R338): with the insertion that runs, at once, or at T_ins with its blackout handed to the Weir. One that could be
made at once begins no sooner than those of earlier HEATER_B commands, which take effect in acceptance order (R274). The heaters of an
OPAQUE cell are frozen (R42): no insertion begins there, and the command ends PREEMPTED (DESIGN CHOICE, log entry 134). -/
def heaterBNow (c : SlotCmd) (cell : Nat) (s : State) : State :=
  let s := hold c s
  let before := unbegun s.fab.inserts
  if (insertOf s.fab cell).isSome then modInsert cell (fun i => { i with slots := i.slots ++ [c.slot] }) s
  else if frozenCell s cell then failCmd c 6 s
  else if unlit s || (!carries s cell && !routedThrough s cell) then
    if before.isEmpty then insertNow cell [c.slot] s
    else { s with fab := { s.fab with inserts := s.fab.inserts ++
      [{ cell := cell, tIns := before.foldl (fun t i => max t i.tIns) s.tb.now, slots := [c.slot], carried := carries s cell }] } }
  else
    let t := c.acc + ns 50000
    let ports := ingPorts (connsThrough s.part s.fab.cells s.fab.conns cell)
    { s with
      fab := { s.fab with inserts := s.fab.inserts ++ [{ cell := cell, tIns := t, slots := [c.slot], carried := carries s cell }] }
      weir := { s.weir with blackouts := s.weir.blackouts ++ [⟨t, t + ns 200240, ports⟩] } }

/-- HEATER_B_T_INS (R335): the open valves of the connections through the cell close; one that waited for a Jet takeover begins now
(R338), and none before that of an earlier HEATER_B (R274). A valve that another insertion has closed is held by both, and reopens with the
later. -/
def heaterBClose (c : Nat) (s : State) : State :=
  match insertOf s.fab c with
  | some i =>
    let first := (unbegun (s.fab.inserts.takeWhile fun x => x.cell != c)).isEmpty
    if i.running || !first || (jetOf s (jetOfLoop s.part c)).remap then s
    else
      let s := reach i.tIns s
      let through := egrPorts (connsThrough s.part s.fab.cells s.fab.conns c)
      let ports := through &&& (s.fab.openPorts ||| insertBlocked s)
      let s := forEach (ones s.part.ports (through &&& s.fab.openPorts)) s fun s n => jetValve n false s
      modInsert c (fun i => { i with running := true, tIns := s.tb.now, closed := ports, carried := i.carried || decide (ports ≠ 0) }) s
  | none => s

/-- HEATER_B_REOPEN (R337): the valves blocked reopen where nothing else holds them; the insertion is complete. -/
def heaterBReopen (c : Nat) (s : State) : State :=
  match insertOf s.fab c with
  | some i =>
    if !i.running || !i.remapped then s
    else
      let s := reach (i.tIns + ns 200120) s
      let s := { s with fab := { s.fab with inserts := s.fab.inserts.filter fun x => x.cell != c } }
      let s := if valvesLive s.sys then openValves (i.closed &&& openPortsOf s) s else s
      let s := { s with wear := smod {} s.wear c fun w => { w with pending := false } }
      let s := notifyInsert i.slots.head? (insertFlags i) c (framesLost s i) s
      forEach i.slots s fun s k => finishSlot k 0 [] s
  | none => s

/-! ### The rows -/

/-- TEMP_MEASUREMENT_START (R344). -/
def execTempMeasurementStart (dt : Nat) (s : State) : Host.Outcome State Fault Refusal :=
  live dt s fun s => if fwLive s then startMeasure s else s

/-- TEMP_MEASUREMENT_DONE (R346). -/
def execTempMeasurementDone (dt : Nat) (readings : List (BitVec 16)) (s : State) : Host.Outcome State Fault Refusal :=
  live dt s (measureDone readings)

/-- WEAR_FOLD (R329). -/
def execWearFold (dt : Nat) (s : State) : Host.Outcome State Fault Refusal := live dt s foldAll

/-- WEAR_SAVE (R332). -/
def execWearSave (dt : Nat) (s : State) : Host.Outcome State Fault Refusal := live dt s saveHour

/-- EOL_PREDICTION (R341). -/
def execEolPrediction (dt : Nat) (s : State) : Host.Outcome State Fault Refusal := live dt s predictAll

/-- HEATER_B_PENDING_INSERT (R334). -/
def execHeaterBPendingInsert (dt cell : Nat) (s : State) : Host.Outcome State Fault Refusal := live dt s (pendingInsert cell)

/-- HEATER_B_T_INS (R335). -/
def execHeaterBTIns (cell : Nat) (s : State) : Host.Outcome State Fault Refusal := live 0 s (heaterBClose cell)

/-- HEATER_B_REOPEN (R337). -/
def execHeaterBReopen (cell : Nat) (s : State) : Host.Outcome State Fault Refusal := live 0 s (heaterBReopen cell)

/-- HEATER_B, opcode 0x0307 (R335): for a cell whose insertion runs it completes with that insertion (R338). -/
def execHeaterB (dt slot : Nat) (s : State) : Host.Outcome State Fault Refusal :=
  hostCmd { opcode := 0x0307, modes := inSvc,
            checks := fun s p => [lenIs p 4, zeroAt p 2 2, rng (decide (s.part.cells ≤ fld p 0 2)),
                                  ((loopOf s (fld p 0 2)).desc.htrB && (insertOf s.fab (fld p 0 2)).isNone, 0x24)] }
    dt slot (fun c p s => heaterBNow c (fld p 0 2) s) s

/-- TEMP_READ, opcode 0x0A04 (R307): a measurement starts, or the one in progress answers. -/
def execTempRead (dt slot : Nat) (s : State) : Host.Outcome State Fault Refusal :=
  hostCmd { opcode := 0x0A04, modes := runOrSafe, checks := fun _ p => [lenIs p 0] } dt slot
    (fun c _ s => let s := hold c s
      { s with temp := { s.temp with busy := true, waiting := s.temp.waiting ++ [slot] } }) s

/-- TEMP_CFG's ranges (*Table — TEMP_CFG request*). -/
def tempCfgBad (p : List Byte) : Bool :=
  let g := fld p 0 1
  let rate := fld p 1 1 = 1
  let iv := fld p 2 2
  let warn := sgn 16 (fld p 4 2)
  let thr := sgn 16 (fld p 6 2)
  let hyst := sgn 16 (fld p 8 2)
  let period := fld p 10 2
  decide (6 < g ∨ 1 < fld p 1 1 ∨ period < 10 ∨ 1000 < period ∨ thr < warn ∨ hyst < 0) ||
    (if rate then decide (iv < 100 ∨ 60000 < iv ∨ iv < 2 * period ∨ warn < 26 ∨ 2560 < thr ∨ 256 < hyst)
     else decide (iv ≠ 0 ∨ warn < -10240 ∨ shutLevel g < thr ∨ 2560 < hyst))

/-- TEMP_CFG, opcode 0x0A05 (R348). -/
def execTempCfg (dt slot : Nat) (s : State) : Host.Outcome State Fault Refusal :=
  hostCmd { opcode := 0x0A05, modes := inRun, checks := fun _ p => [lenIs p 12, rng (tempCfgBad p)] } dt slot
    (fun c p s =>
      let rate := decide (fld p 1 1 = 1)
      okCmd c [] (modGroup (fld p 0 1) (fun g =>
        { g with rateMode := rate, interval := fld p 2 2, warn := sgn 16 (fld p 4 2), thr := sgn 16 (fld p 6 2),
                 hyst := sgn 16 (fld p 8 2), period := fld p 10 2, fresh := g.fresh || g.rateMode != rate,
                 since := if rate && !g.rateMode then s.tb.now else g.since }) s)) s

/-- WEAR_READ, opcode 0x0A06 (R332). -/
def execWearRead (dt slot : Nat) (s : State) : Host.Outcome State Fault Refusal :=
  hostCmd { opcode := 0x0A06, modes := runOrSafe,
            checks := fun s p => [lenIs p 4, rng (decide (fld p 2 2 < 1 ∨ 254 < fld p 2 2 ∨ s.part.cells < fld p 0 2 + fld p 2 2))] }
    dt slot (fun c p s => okCmd c ((List.range (fld p 2 2)).flatMap fun i => wearBytes s (fld p 0 2 + i)) s) s

end Sys2Proof.Machine
end

