-- ==== Sys2Proof/Machine/Engine.lean ====
section
/-! DEFINITION. Route requests at work: what the engine starts from, entry routing, the completion of a route for each of its origins,
arming, a cell's failure, background re-routing, and the report of a reconfiguration (R45 to R54, R126, R127, R146, R150, R184, R291,
R430, R432). -/

namespace Sys2Proof.Machine

/-- A change of the fabric. -/
def withFab (f : Fab → Fab) (s : State) : State := { s with fab := f s.fab }

/-! ### What a route starts from -/

/-- Reconfigurations that a reroute does not displace: those whose T_close is past and whose writes at T_dark are due (R146). -/
def closedOnly (f : Fab) : List Reconf := f.recon.filter fun r => decide (r.phase = .closed)

/-- The states and connections that a request starts from: the target of the last reconfiguration armed, and for a reroute, which goes
ahead of those not yet closed, the applied ones (R126, R146). -/
def basisOf (f : Fab) (o : Origin) : CellMap × ConnMap :=
  match o with
  | .reroute _ _ =>
    match (closedOnly f).getLast? with
    | some r => (r.cells, r.conns)
    | none => (f.cells, f.conns)
  | _ => (effCells f, effConns f)

/-- A route of a connection set from given states, with no constraint beyond the conditions (R42, R47, R48). -/
def plainRoute (s : State) (base : CellMap) (before after : ConnMap) (forced : PortMap) : RouteIn :=
  { part := s.part, base := base, before := before, after := after, fixed := condFixed s.fab, fixVal := base, bad := opaqueCells s.fab,
    dom := s.fab.dom, forced := forced }

/-! ### Entry routing (R184) -/

/-- The configurations that entries of a domain name: of its active and waiting calendars and of its committed tracked entries. -/
def namedBy (s : State) (d : Nat) : List Nat :=
  let v := slcDom s d
  ((((calActive v).toList ++ (calWaiting v).toList).flatMap Cal.names) ++
    ((committed s).filter fun e => e.2.domain == d).map fun e => e.2.config).eraseDups

/-- Every configuration that an entry or calendar names. -/
def namedConfigs (s : State) : List Nat := ((List.range 16).flatMap (namedBy s)).eraseDups

/-- Cells held for others while a configuration of some domains is routed: the cells, their states, and those wanted at different
states, which no connection in SCOPE may use. -/
structure Held where
  fixed : CellMap
  val   : CellMap
  clash : CellMap
  deriving DecidableEq, Repr

/-- One more set of cells held at states. A cell held already keeps its state. -/
def Held.add (h : Held) (cells val : CellMap) : Held :=
  { fixed := h.fixed ||| cells
    val := (h.val &&& h.fixed) ||| (val &&& cells &&& ~~~h.fixed)
    clash := h.clash ||| (cells &&& h.fixed &&& (h.val ^^^ val)) }

/-- The cells held by *Table — Entry routing* for a configuration of the domains in SCOPE. -/
def heldFor (s : State) (scope : BitVec 16) : Held :=
  let v := effCells s.fab
  let m := effConns s.fab
  let kept := m.filter fun e =>
    let d := domOf s.fab e.1
    !scope.getLsbD d && !(decide (discOf s.fab.dom d = .static) && !s.fab.dom.prot.getLsbD d)
  let h0 : Held := { fixed := condFixed s.fab, val := v &&& condFixed s.fab, clash := 0 }
  let h1 := h0.add (cellsOf s.part v kept) v
  ((List.range 16).filter fun d => !scope.getLsbD d).foldl (fun h d =>
    (namedBy s d).foldl (fun h n => let r := cfgOf s.fab n; if r.valid && r.entryRouted then h.add r.claim r.cells else h) h) h1

/-- The request of a configuration named by an entry: its connections in SCOPE against the applied states (R184). A cell wanted at
different states keeps its applied one. -/
def entryRequest (s : State) (scope : BitVec 16) (want : ConnMap) : RouteIn :=
  let h := heldFor s scope
  let v := effCells s.fab
  let before := effConns s.fab
  { part := s.part, base := v, before := before, after := replaceIn s scope before want,
    fixed := h.fixed, fixVal := (h.val &&& ~~~h.clash) ||| (v &&& h.clash), bad := opaqueCells s.fab, ownBad := h.clash,
    dom := s.fab.dom, scope := scope }

/-- A record from a route (R182): the connections of SCOPE and of the domains moved, and the cells on them. -/
def recordOf (s : State) (old : CfgRec) (scope : BitVec 16) (entry : Bool) (d : Disturb) (v : CellMap) (after : ConnMap) : CfgRec :=
  let moved := d.domains &&& ~~~scope
  let ports := mapOf 256 ((List.range s.part.ports).filter (inDomains s.fab (scope ||| moved)))
  let conn := after.filter fun e => ports.getLsbD e.1
  let claim := cellsOf s.part v conn
  { valid := true, entryRouted := entry, reroute := false, scope := scope, movedDom := moved, gen := satInc old.gen,
    routedAt := s.tb.now, report := d, ports := ports, conn := conn, claim := claim, cells := v &&& claim }

/-- The connections of SCOPE that a record gives. -/
def wantedOf (f : Fab) (r : CfgRec) : ConnMap := r.conn.filter fun e => r.scope.getLsbD (domOf f e.1)

/-- The unit with no domain protected. -/
def unprotected (s : State) : State := { s with fab := { s.fab with dom := { s.fab.dom with prot := 0 } } }

/-- A record routed again, as an entry's or against the applied states: the engine's answer and the new record. -/
def rerouteRecord (s : State) (n : Nat) (entry : Bool) : Disturb × CfgRec :=
  let old := cfgOf s.fab n
  let want := wantedOf s.fab old
  let ask := fun s => if entry then entryRequest s old.scope want
    else let before := effConns s.fab
      plainRoute s (effCells s.fab) before (replaceIn s old.scope before want) 0
  let q := ask s
  let (d, v) := routeEngine s.fab.routes q (ask (unprotected s))
  (d, recordOf s old old.scope entry d v q.after)

/-- A record written, with the notes of R54 on the old one dropped. -/
def putRecord (n : Nat) (r : CfgRec) (s : State) : State :=
  withFab (fun f => { f with configs := sset {} f.configs n r, cellPend := sset [] f.cellPend n [], fired := sset 0 f.fired n 0 }) s

/-- A configuration as the mirror carries it (R242). -/
def configItem (s : State) (n : Nat) : Item :=
  let r := cfgOf s.fab n
  .config n r.scope r.ports r.conn (!r.valid)

/-! ### ROUTE_REQUEST (R45 to R51) -/

/-- A request put behind the others (R52). -/
def enqueueRoute (q : RouteReq) (s : State) : State := withFab (fun f => { f with queue := f.queue ++ [q] }) s

/-- The origin is a reroute after a cell failure. -/
def Origin.isReroute : Origin → Bool
  | .reroute _ _ => true
  | _ => false

/-- The connections that a pending follow brings about (R246): of its own reconfiguration once it is armed, else of its map or of its
stored configuration. -/
def followWant (s : State) (p : PFollow) : ConnMap :=
  match p.armed.bind fun q => s.fab.recon.find? fun r => decide (r.seq = q) with
  | some r => r.conns
  | none =>
    if p.f.config = 0xFFFFFFFF then p.f.map
    else let r := cfgOf s.fab p.f.config.toNat; replaceIn s r.scope (effConns s.fab) (wantedOf s.fab r)

/-- The map that the last APPLIED item and the follows after it stand for: the item's connections, but in the domains of follows armed
since, and of reconfigurations of the unit's own since it promoted, those that the unit has (R250, R255). -/
def expectedConns (s : State) (m : ConnMap) : ConnMap :=
  let keep := s.pair.newer.foldl (fun k n => k ||| n.domains) s.pair.own
  replaceIn s (~~~keep) (effConns s.fab) (m.filter fun e => !keep.getLsbD (domOf s.fab e.1))

/-- The connections of the last APPLIED item that a Standby's own map lacks and that no pending follow brings, put in place of those
that they displace (R435). -/
def lackedConns (s : State) (m : ConnMap) : ConnMap :=
  let coming := (s.pair.follows.filter fun p => !p.noTarget).flatMap (followWant s)
  let add := m.filter fun e => !s.fab.conns.contains e && !coming.contains e
  (((effConns s.fab).filter fun e => !add.any fun x => x.1 == e.1 || x.2 == e.2) ++ add).mergeSort fun a b => decide (a.1 ≤ b.1)

/-- What a catch-up aims at. -/
def catchUpWant (s : State) : ConnMap :=
  match s.pair.lastApplied with
  | some (m, _) => if s.sys.role = .standby then lackedConns s m else expectedConns s m
  | none => effConns s.fab

/-- What the engine is asked for a request. -/
def requestOf (s : State) (q : RouteReq) : RouteIn :=
  if q.forEntry then entryRequest s q.scope q.want
  else if q.origin = .catchUp then plainRoute s (effCells s.fab) (effConns s.fab) (catchUpWant s) 0
  else
    let (v, m) := basisOf s.fab q.origin
    let forced := match q.origin with
      | .reroute c _ => ingPorts (connsThrough s.part v m c)
      | _ => 0
    plainRoute s v m (replaceIn s q.scope m q.want) forced

/-- The engine begins the first request that waits. -/
def beginRoute (s : State) : State :=
  match s.fab.active, s.fab.queue with
  | none, q :: rest =>
    if slcClock s then
      let r := requestOf s q
      let (d, v) := routeEngine s.fab.routes r (requestOf (unprotected s) q)
      withFab (fun f => { f with queue := rest, routes := f.routes + 1,
                                 active := some { req := q, report := d, cells := v, conns := r.after, armSeq := f.seq } }) s
    else s
  | _, _ => s

/-! ### ROUTE_COMPLETE (R52) -/

/-- A completed route on its way to be armed; a reroute goes ahead. -/
def makeReady (r : Routed) (s : State) : State :=
  withFab (fun f => { f with ready := if r.req.origin.isReroute then r :: f.ready else f.ready ++ [r] }) s

/-- The egress ports whose connections differ between two maps. -/
def changedPorts (a b : ConnMap) : PortMap :=
  egrPorts (a.filter fun e => !b.contains e) ||| egrPorts (b.filter fun e => !a.contains e)

/-- A follow or an APPLIED item that cannot be routed (R246): FOLLOW_FAIL, and the ports it would affect are held. -/
def followFails (want : ConnMap) (s : State) : State :=
  raise 180 { s with
    cld := { s.cld with followFail := true }
    pair := { s.pair with held := s.pair.held ||| changedPorts (effConns s.fab) want } }

/-- The egress ports that a follow gives: those of the domains it sets. -/
def givenPorts (f : Fab) (scope : BitVec 16) : PortMap := mapOf 256 ((List.range 256).filter fun n => scope.getLsbD (sget 0 f.dom.egr n))

/-- The end of a reroute's route: the REROUTE notification, the command behind it, and the failure of a rejected one (R53, R50). -/
def rerouteRouted (r : Routed) (cell : Nat) (slot : Option Nat) (s : State) : State :=
  let status := if Disturb.rejected r.report then 0x0220 else 0
  let s := notifyAt s.tb.now 5 (aboutSlot s slot status) false (disturbBytes r.report ++ le 4 cell) s
  let s := if Disturb.rejected r.report then raise 165 s else makeReady r s
  match slot with
  | some k => finishSlot k status (disturbBytes r.report) s
  | none => s

/-- The states that a route started from are no longer those that count as applied: a reconfiguration was armed while it was computed.
The engine begins the request again; R291 counts only what is armed after completion (DESIGN CHOICE, log entry 121). -/
def Routed.outdated (s : State) (r : Routed) : Bool :=
  decide (s.fab.seq ≠ r.armSeq) && match r.req.origin with
    | .connect _ _ _ | .follow _ _ | .catchUp => true
    | _ => false

/-- ROUTE_COMPLETE: the request in the engine ends with its report. -/
def completeRoute (s : State) : State :=
  match s.fab.active.filter fun _ => slcClock s with
  | none => s
  | some r =>
    let s := withFab (fun f => { f with active := none }) s
    if r.outdated s then withFab (fun f => { f with queue := r.req :: f.queue }) s else
    let bad := Disturb.rejected r.report
    match r.req.origin with
    | .connect k _ check =>
      if bad then tagDrop (tagOfSlot k) (finishSlot k 0x0220 (disturbBytes r.report) s)
      else if check then tagDrop (tagOfSlot k) (finishSlot k 0 (disturbBytes r.report) s)
      else tagStage (tagOfSlot k) 1 (makeReady r s)
    | .define k n scope =>
      if bad then finishSlot k 0x0220 (disturbBytes r.report) s
      else
        let v := recordOf s (cfgOf s.fab n) scope r.req.forEntry r.report r.cells r.conns
        let s := putRecord n v s
        finishSlot k 0 (disturbBytes r.report ++ le 4 v.gen.toNat ++ zeros 4) (mirror (configItem s n) s)
    | .reroute c k => rerouteRouted r c k s
    | .follow q _ =>
      if bad then
        let s := followFails r.conns s
        { s with pair := { s.pair with follows := s.pair.follows.filter fun x => x.seq ≠ q } }
      else makeReady r s
    | .catchUp => if bad then followFails r.conns s else makeReady r s
    | _ => s

/-! ### RECONF_ARM (R126, R127, R146) -/

/-- The source of an origin's reconfiguration (R150): a catch-up made as Standby counts as a follow (R435). -/
def sourceOf (s : State) : Origin → Nat
  | .connect _ _ _ | .define _ _ _ | .apply _ _ _ => 0
  | .calendar => 1
  | .tracked => 2
  | .reroute _ _ => 3
  | .follow _ _ => 4
  | .catchUp => if roleLit s.sys.role then 5 else 4

/-- The target of a completed route. -/
def Routed.target (s : State) (r : Routed) (wanted : Time) (config : W32) : Target :=
  { source := sourceOf s r.req.origin, origin := r.req.origin, config := config, cells := r.cells, conns := r.conns, wanted := wanted,
    report := r.report }

/-- The target of a stored configuration applied now (R185, R54). -/
def applyTarget (s : State) (o : Origin) (n : Nat) (wanted : Time) : Target :=
  let r := cfgOf s.fab n
  let (v, m) := targetOf s.fab r (effCells s.fab) (effConns s.fab)
  { source := sourceOf s o, origin := o, config := BitVec.ofNat 32 n, cells := v, conns := m, wanted := wanted, report := r.report,
    hidden := hiddenPorts s.part s.fab n r, stored := some n }

/-- A stored configuration compatible with what counts as applied (R185, R22). -/
def compatibleNow (s : State) (n : Nat) : Bool :=
  let r := cfgOf s.fab n
  r.valid && compatible s.part s.fab r (effCells s.fab) (effConns s.fab)

/-- A request of CONFIG_APPLY in the arming queue. -/
def applyReady (slot n tries : Nat) (s : State) : State :=
  withFab (fun f => { f with ready := f.ready ++
    [{ req := { origin := .apply slot n tries, want := [] }, report := {}, cells := 0, conns := [], armSeq := f.seq }] }) s

/-- The ports held for follows without a target, until the APPLIED item of each one's own reconfiguration (R246). -/
def noTargetPorts (s : State) : PortMap :=
  (s.pair.follows.filter (·.noTarget)).foldl (fun m p => m ||| givenPorts s.fab p.f.domains) 0

/-- The held ports that a routed follow, or a catch-up, sets right (R246). -/
def releaseHeld (scope : BitVec 16) (s : State) : State :=
  { s with pair := { s.pair with held := s.pair.held &&& (~~~(givenPorts s.fab scope) ||| noTargetPorts s) } }

/-- A follow armed under a target: it is armed for its T_CLOSE or, at the earliest, 1,000 ns after its receipt (R246). One that
makes no writes is over at once (R126). -/
def armFollow (q : W32) (f : Follow) (scope : BitVec 16) (t : Target) (s : State) : State :=
  let receipt := ((s.pair.follows.find? fun x => x.seq = q).map (·.receipt)).getD 0
  let seq := s.fab.seq
  let s := arm (max (receipt + ns 1000) (s.tb.now + armLead)) { t with wanted := f.tClose } (releaseHeld scope s)
  let gone := s.fab.recon.find? fun r => decide (r.seq = seq) && r.noWrites
  let follows := if gone.isSome then s.pair.follows.filter fun x => x.seq ≠ q
    else s.pair.follows.map fun x => if x.seq = q then { x with armed := some seq, routing := false } else x
  let s := { s with pair := { s.pair with follows := follows, newer := s.pair.newer ++ [{ reconf := f.reconf, domains := f.domains }] } }
  match gone with
  | some r => followClosed r s
  | none => s

/-- The displaced reconfigurations and the states that the ones before them leave, as they are formed again (R146). -/
structure Reform where
  kept   : List Reconf
  cells  : CellMap
  conns  : ConnMap
  oCells : CellMap                 -- the states that the next one was formed against
  oConns : ConnMap
  refused : List (W32 × Applied × CfgRec) := []   -- entries found incompatible, with their reconfiguration's number
  failed : List (W32 × Nat) := []   -- slots of CONFIG_APPLY commands found incompatible
  again  : List (W32 × Follow) := []   -- follows whose stored configuration is no longer compatible, to be routed afresh (R246)

/-- An entry that a reconfiguration applies, as it is reported. -/
def Applied.due (a : Applied) : Due :=
  { tracked := a.tracked, domain := a.domain, entry := a.entry, config := a.config, cycle := a.cycle.toNat, wanted := a.wanted,
    seqUsed := a.seqUsed, train := a.train, short := a.short, overtaken := a.overtaken }

/-- The entries of a displaced reconfiguration checked again, in domain order (R146, R201). -/
def recheckEntries (s : State) (es : List Applied) (v : CellMap) (m : ConnMap) :
    List Applied × List (Applied × CfgRec) × CellMap × ConnMap :=
  es.foldl (fun (a : List Applied × List (Applied × CfgRec) × CellMap × ConnMap) e =>
    let (ok, bad, v, m) := a
    let r := cfgOf s.fab e.config
    if r.valid && compatible s.part s.fab r v m then
      let (v', m') := targetOf s.fab r v m
      (ok ++ [e], bad, v', m')
    else (ok, bad ++ [(e, r)], v, m)) ([], [], v, m)

/-- A change carried over to other states: what it changed is changed, the rest stays. -/
def carryCells (old target base : CellMap) : CellMap :=
  let d := old ^^^ target
  (base &&& ~~~d) ||| (target &&& d)

/-- The same for connections, by ingress port. -/
def carryConns (old target base : ConnMap) : ConnMap :=
  let d := ((old ++ target).map (·.1)).eraseDups.filter fun n => egOf old n ≠ egOf target n
  ((base.filter fun e => !d.contains e.1) ++ (target.filter fun e => d.contains e.1)).mergeSort fun a b => decide (a.1 ≤ b.1)

/-- One displaced reconfiguration formed again behind the others (R146). -/
def reformOne (s : State) (a : Reform) (r : Reconf) : Reform :=
  let next := { a with oCells := r.cells, oConns := r.conns }
  let place := fun (es : List Applied) (v : CellMap) (m : ConnMap) (hidden : PortMap) =>
    let (source, origin) := match es with
      | [] => (r.source, r.origin)
      | e :: _ => if e.tracked then (2, Origin.tracked) else (1, Origin.calendar)
    let t : Target :=
      { source := source, origin := origin,
        config := if r.entries.isEmpty then r.config else match es with
          | [e] => BitVec.ofNat 32 e.config
          | _ => 0xFFFFFFFF,
        entries := es, cells := v, conns := m, wanted := r.wanted, report := r.report, forced := r.forced, hidden := hidden, stored := r.stored }
    let op := effOpen (valvesLive s.sys) s.fab.openPorts a.kept
    let tc := max r.tClose (earliestClose s a.kept r.origin.isReroute)
    let n := (formed s a.cells a.conns op t r.seq tc).counted s
    { next with kept := a.kept ++ [n], cells := v, conns := m }
  if !r.entries.isEmpty then
    let (ok, bad, v, m) := recheckEntries s r.entries a.cells a.conns
    let hidden := ok.foldl (fun h e => h ||| hiddenPorts s.part s.fab e.config (cfgOf s.fab e.config)) 0
    let next := if ok.isEmpty then next else place ok v m hidden
    { next with refused := next.refused ++ bad.map (r.seq, ·) }
  else
    match r.stored with
    | some n =>
      let c := cfgOf s.fab n
      if c.valid && compatible s.part s.fab c a.cells a.conns then
        let (v, m) := targetOf s.fab c a.cells a.conns
        place [] v m (hiddenPorts s.part s.fab n c)
      else match r.origin with
        | .apply k _ _ => { next with failed := next.failed ++ [(r.seq, k)] }
        | .follow q f => { next with again := next.again ++ [(q, f)] }
        | _ => next
    | none => place [] (carryCells a.oCells r.cells a.cells) (carryConns a.oConns r.conns a.conns) 0

/-- A follow whose stored configuration is to be routed afresh against the applied states (R246). -/
def routeFollow (q : W32) (f : Follow) (s : State) : State :=
  let r := cfgOf s.fab f.config.toNat
  let s := { s with pair := { s.pair with follows := s.pair.follows.map fun x => if x.seq = q then { x with routing := true, armed := none } else x } }
  enqueueRoute { origin := .follow q f, want := wantedOf s.fab r, scope := r.scope } s

/-- A displaced reconfiguration that is left without writes is over (R126): its tracked entries have fired (R197), and its follow stops
being pending (R247). -/
def reconfOver (r : Reconf) (s : State) : State :=
  let s := forEach (r.entries.filter (·.tracked)) s fun s e => fireEntry e.entry s
  match r.origin with
  | .follow q _ => followClosed r { s with pair := { s.pair with follows := s.pair.follows.filter fun x => x.seq ≠ q } }
  | _ => s

/-- Grants that fall into the gap of a reconfiguration formed again, and did not fall into its old one. -/
def grantsNew (w : Weir) (r old : Reconf) : Nat :=
  let inGapOf := fun (x : Reconf) (n : Nat) (g : Time × Time) =>
    !x.noWrites && x.affected.getLsbD n && decide (g.1 < x.freeAt ∧ x.tClose < g.2)
  (w.port.map fun e => (e.2.sent.filter fun g => inGapOf r e.1 g && !inGapOf old e.1 g).length).sum

/-- A reroute armed ahead of every reconfiguration not yet closed; the displaced ones are formed again behind it, and their blackouts
follow (R146, R147). A grant that falls into the new gap of one of these is counted there, and its event is raised (R226, R362). -/
def armReroute (r : Routed) (cell : Nat) (s : State) : State :=
  let (v, m) := basisOf s.fab r.req.origin
  let ahead := s.fab.recon.filter fun x => decide (x.phase ≠ .armed)
  let behind := s.fab.recon.filter fun x => decide (x.phase = .armed)
  let wanted := s.tb.now + armLead
  let t := { r.target s wanted 0xFFFFFFFF with forced := ingPorts (connsThrough s.part v m cell) }
  let op := effOpen (valvesLive s.sys) s.fab.openPorts ahead
  let n := (formed s v m op t s.fab.seq (max wanted (earliestClose s ahead true))).counted s
  if n.noWrites then ev 272 (withFab (fun f => { f with recon := ahead ++ [n] ++ behind, seq := f.seq + 1 }) s)
  else
    let a : Reform := behind.foldl (reformOne s)
      { kept := ahead ++ [n], cells := n.cells, conns := n.conns, oCells := v, oConns := m }
    let old := behind.map Reconf.blackout
    let formedAgain := a.kept.drop (ahead.length + 1)
    let again := formedAgain.filter fun x => !x.noWrites
    let more := (formedAgain.map fun x => ((behind.find? fun y => y.seq == x.seq).map (grantsNew s.weir x)).getD 0).sum
    let s := ev 272 (withFab (fun f => { f with recon := a.kept, seq := f.seq + 1 }) s)
    let s := (List.range more).foldl (fun s _ => ev 284 s) s
    let s := withWeir (fun w => { w with blackouts := (w.blackouts.filter fun b => !old.contains b) ++ again.map Reconf.blackout }) s
    let s := announce n s
    let s := forEach (formedAgain.filter (·.noWrites)) s fun s x => reconfOver x s
    let s := forEach a.refused s fun s x => refuseEntry x.2.1.due x.2.2 (tagDrop (tagOfArmed x.1 x.2.1) s)
    let s := forEach a.again s fun s x => routeFollow x.1 x.2 s
    forEach a.failed s fun s x => tagDrop (tagOfSeq x.1) (failSlot x.2 0x25 s)

/-- A completed route armed, or sent round again when another reconfiguration has been armed since the engine began it (R291, R293). -/
def armRouted (r : Routed) (s : State) : State :=
  let stale := decide (s.fab.seq ≠ r.armSeq)
  let soon := s.tb.now + armLead
  let seq := s.fab.seq
  match r.req.origin with
  | .connect k tries check =>
    if stale then
      (if tries = 0 then enqueueRoute { r.req with origin := .connect k 1 check } s
       else tagDrop (tagOfSlot k) (failSlot k 0x22 s))
    else tagArm (tagOfSlot k) seq (arm soon (r.target s soon 0xFFFFFFFF) s)
  | .apply k n tries =>
    if stale && tries ≠ 0 then tagDrop (tagOfSlot k) (failSlot k 0x22 s)
    else if stale && !compatibleNow s n then tagDrop (tagOfSlot k) (failSlot k 0x25 s)
    else if stale then applyReady k n 1 s
    else countFired n (tagArm (tagOfSlot k) seq (arm soon (applyTarget s r.req.origin n soon) s))
  | .reroute c _ => armReroute r c s
  | .follow q f =>
    if stale then enqueueRoute r.req s else armFollow q f r.req.scope (r.target s f.tClose f.config) s
  | .catchUp =>
    if stale then enqueueRoute r.req s else arm soon (r.target s soon 0xFFFFFFFF) (releaseHeld r.req.scope s)
  | _ => s

/-- RECONF_ARM: the first completed route; a reroute goes first. -/
def armReady (s : State) : State :=
  match ((s.fab.ready.find? fun r => r.req.origin.isReroute).or s.fab.ready.head?).filter fun _ => slcClock s with
  | some r => armRouted r (withFab (fun f => { f with ready := f.ready.erase r }) s)
  | none => s

/-! ### A cell's failure (R42, R43, R53, R54, R430) -/

/-- A condition byte with its condition replaced. -/
def condByte (b : BitVec 3) (c : Cond) : BitVec 3 := (b &&& 4) ||| BitVec.ofNat 3 (condCode c)

/-- What a reconfiguration not yet open keeps of a failed cell: its states at that cell, no flip there, and no valve opened on a
connection through it. -/
def Reconf.without (p : Part) (c : Nat) (state : Bool) (r : Reconf) : Reconf :=
  if r.phase = .armed ∨ r.phase = .closed ∨ r.phase = .dark then
    let v := setBit r.cells c state
    { r with cells := v, flips := setBit r.flips c false, opening := r.opening &&& ~~~(egrPorts (connsThrough p v r.conns c)) }
  else r

/-- A heater B insertion of a cell that has become OPAQUE, pending or short of its remap round, is cancelled (R334): its heaters are frozen
(R42). A HEATER_B that waits for it ends PREEMPTED (DESIGN CHOICE, log entry 134). -/
def cancelInsert (c : Nat) (s : State) : State :=
  let i := (insertOf s.fab c).filter fun i => !i.remapped
  if (sget {} s.wear c : Wear).pending && (insertOf s.fab c).isNone || i.isSome then
    let slots := (i.map (·.slots)).getD []
    let s := { s with
      wear := smod {} s.wear c fun w => { w with pending := false }
      fab := { s.fab with inserts := s.fab.inserts.filter fun x => x.cell != c } }
    let s := notifyAt s.tb.now 0xF (aboutSlot s slots.head? 0x0306) false
      (wearBody 7 (flag (carries s c) + flag (!slots.isEmpty) * 4) c 0) s
    forEach slots s fun s k => failSlot k 6 s
  else s

/-- A reroute goes ahead of the requests that wait and of the one in the engine, which begins again when it is done (R52). Of two
reroutes the later goes ahead of the earlier, as of any other request: R52 gives no order among them (DESIGN CHOICE, log entry 121). -/
def enqueueReroute (c : Nat) (slot : Option Nat) (s : State) : State :=
  let q : RouteReq := { origin := .reroute c slot, want := [] }
  withFab (fun f =>
    { f with queue := q :: (f.active.toList.map (·.req) ++ f.queue), active := none }) s

/-- A cell's condition changes in service: both copies, its applied state, the valves of its connections, the configurations that use
it, and the reroute. A cell becomes GOOD only by calibration (R293). -/
def markCell (c : Nat) (cond : Cond) (slot : Option Nat) (s : State) : State :=
  if cond = .good ∨ s.part.cells ≤ c then s
  else
    let p := s.part
    let state := match cond with
      | .stuckBar => false
      | .stuckCross => true
      | _ => (sget {} s.dac.flip c : Flip).level
    let s := withFab (fun f =>
      { f with cells := setBit f.cells c state
               ready := f.ready.map fun r => { r with cells := setBit r.cells c state }
               recon := f.recon.map (Reconf.without p c state)
               bgTried := []
               cellPend := f.configs.foldl (fun m e =>
                 if e.2.valid && e.2.claim.getLsbD c then smod [] m e.1 fun l => if l.contains c then l else l ++ [c] else m) f.cellPend })
      (changeCond c (condByte · cond) s)
    let (v, m) := basisOf s.fab (.reroute c slot)
    let ports := egrPorts (connsThrough p s.fab.cells s.fab.conns c) ||| egrPorts (connsThrough p v m c)
    let s := withFab (fun f => { f with failed := f.failed ||| ports }) s
    let s := forEach (ones p.ports (ports &&& s.fab.openPorts)) s fun s n => writeValve n false s
    let s := if cond = .opaqueCell then cancelInsert c (freezeLoop c s) else s
    enqueueReroute c slot (raise 166 s)

/-! ### Background re-routing (R54, R432) -/

/-- The firings of a configuration: of scheduled and armed tracked entries that name it, and of calendar entries by their next window starts,
whether their calendar is running, waiting or suspended (R54, R432). -/
def firingTimes (s : State) (n : Nat) : List Time :=
  let starts := fun (c : Cal) (t : Time) =>
    ((List.range c.count).filter fun i => c.cfg i == some n).map fun i => (c.nextOf i t).2
  let cal := (List.range 16).flatMap fun d =>
    let v := slcDom s d
    (((calActive v).map fun c => starts c s.tb.now).getD []) ++ (((calWaiting v).map fun c => starts c (max v.start s.tb.now)).getD [])
  let trk := ((committed s).filter fun e => decide (e.2.config = n ∧ (e.2.state = .scheduled ∨ e.2.state = .armed))).map fun e => e.2.tFire
  cal ++ trk

/-- The first of them. -/
def firesAt (s : State) (n : Nat) : Option Time := (firingTimes s n).min?

/-- An instant lies within the next 10 s (R432). -/
def dueSoon (now t : Time) : Bool := decide (now ≤ t ∧ t ≤ now + 10 * sec)

/-- Configurations that wait for a background re-route. -/
def bgWaiting (s : State) : List Nat :=
  ((s.fab.configs.filter fun e => e.2.valid && (e.2.reroute || !(sget [] s.fab.cellPend e.1).isEmpty)).map (·.1)).filter
    fun n => !s.fab.bgTried.contains n

/-- The firing by which a configuration takes its turn: its next one where a cell that it uses has failed (R54), else one within 10 s
(R432). -/
def bgDue (s : State) (n : Nat) : Option Time :=
  if (sget [] s.fab.cellPend n).isEmpty then ((firingTimes s n).filter (dueSoon s.tb.now)).min? else firesAt s n

/-- `a` is re-routed before `b`: by the firings that give them their turns, then by number. -/
def bgBefore (s : State) (a b : Nat) : Bool :=
  match bgDue s a, bgDue s b with
  | some x, some y => decide (x < y ∨ (x = y ∧ a ≤ b))
  | some _, none => true
  | none, some _ => false
  | none, none => decide (a ≤ b)

/-- A request that a command made at an instant may have the engine: it is free, and no reroute and no request that came before waits for
it (R52, log entry 121). -/
def engineTurn (s : State) (acc : Time) : Bool :=
  s.fab.active.isNone && !s.fab.queue.any fun q =>
    match q.origin with
    | .connect k _ _ | .define k _ _ | .apply k _ _ => ((cmdAt s k).map fun c => decide (c.acc ≤ acc)).getD true
    | _ => true

/-- The configuration that is re-routed next. -/
def bgNext (s : State) : Option Nat :=
  (bgWaiting s).foldl (fun m n => match m with
    | none => some n
    | some k => if bgBefore s k n then some k else some n) none

/-- BACKGROUND_REROUTE_DONE: the record is replaced, or stays as it was with its re-route rejected. The engine serves one request at a
time: none of these ends while another is in it or a reroute waits (R52; log entry 121). -/
def backgroundDone (s : State) : State :=
  if !fwLive s || s.sys.mode = .safe || s.fab.active.isSome || s.fab.queue.any (·.origin.isReroute) then s
  else
    match bgNext s with
    | some n =>
      let (d, r) := rerouteRecord s n ((cfgOf s.fab n).entryRouted || (namedConfigs s).contains n)
      let k := sget 0 s.fab.fired n
      let s := withFab (fun f => { f with routes := f.routes + 1 }) s
      if Disturb.rejected d then
        notify 0xE (le 2 n ++ le 1 1 ++ zeros 1 ++ le 4 k) (withFab (fun f =>
          { f with bgTried := n :: f.bgTried, configs := smod {} f.configs n fun c => { c with reroute := true } }) s)
      else notify 0xE (le 2 n ++ le 1 0 ++ zeros 1 ++ le 4 k) (putRecord n r s)
    | none => s

/-- The check of R432 after a reconfiguration: every configuration that an entry names and that is incompatible waits for a
re-route. -/
def recheckConfigs (s : State) : State :=
  let bad := (namedConfigs s).filter fun n => (cfgOf s.fab n).valid && !compatibleNow s n
  withFab (fun f => { f with bgTried := [], configs := bad.foldl (fun m n => smod {} m n fun r => { r with reroute := true }) f.configs }) s

/-! ### RECONF_REPORT (R150, R205) -/

/-- OUTCOME of an entry that fired (*Table — Entry report*). -/
def firedOutcome (r : Reconf) (e : Applied) : Nat :=
  if e.overtaken then 4 else if e.short then 1 else if e.advanced then 2 else if e.wanted < r.tClose then 3 else 0

/-- An applied entry counted as late or advanced, and its report: of a calendar entry only when it is late or applied together with
entries of other domains. -/
def reportEntry (r : Reconf) (s : State) (e : Applied) : State :=
  let s := modDom e.domain (fun v =>
    { v with late := if e.wanted < r.tClose then satInc v.late else v.late
             advanced := if e.advanced then satInc v.advanced else v.advanced }) s
  if e.tracked || decide (e.wanted < r.tClose) || decide (1 < r.entries.length) then
    postEntry e.due (firedOutcome r e) (some r.tClose) r.seq s
  else s

/-- The command behind a reconfiguration answered with both reports (R291, R293). -/
def answerOrigin (r : Reconf) (bytes : List Byte) (s : State) : State :=
  match r.origin with
  | .connect k _ _ | .apply k _ _ => finishSlot k 0 (disturbBytes r.report ++ bytes) s
  | _ => s

/-- The slot of the command behind a reconfiguration of the host's. -/
def originSlot : Origin → Option Nat
  | .connect k _ _ => some k
  | .apply k _ _ => some k
  | _ => none

/-- A catch-up towards the last APPLIED item, where a difference remains (R250, R255, R435); without one only the ports of follows without a
target are held still. -/
def catchUp (s : State) : State :=
  if s.pair.lastApplied.isNone then s
  else if catchUpWant s = effConns s.fab then releaseHeld 0xFFFF s
  else if s.fab.queue.any fun q => decide (q.origin = .catchUp) then s
  else enqueueRoute { origin := .catchUp, want := [], scope := 0xFFFF } s

/-- RECONF_REPORT of the reconfiguration of a number, where it is the one whose report is due, with the path power check's mismatches
(R149); loops still late are watched to 100 us after T_open (R143). -/
def reportReconf (seq : W32) (s : State) : State :=
  match if fwLive s then (s.fab.recon.find? fun r => decide (r.phase = .judged ∨ r.phase = .abandoned)).filter (·.seq == seq) else none with
  | none => s
  | some r =>
    let bad := if r.noWrites || decide (r.phase = .abandoned) then 0 else (powerFails s r).length
    let overdue := !r.todo.isEmpty && decide (tOpenOf r.tClose r.gap + ns 100000 < s.tb.now)
    let bytes := reconfBytes s.part r bad overdue
    let late := if r.phase = .judged then (r.todo.filter r.late.contains).map (⟨·, tOpenOf r.tClose r.gap⟩) else []
    let s := withFab (fun f => { f with recon := f.recon.filter fun x => x.seq ≠ r.seq
                                        lateLoops := (f.lateLoops.filter fun x => !late.any fun y => y.loop == x.loop) ++ late }) s
    let s := ev 275 (notifyAt s.tb.now 2 (aboutSlot s (originSlot r.origin) 0) false bytes s)
    let s := if r.late.isEmpty then s else ev 276 s
    let s := if bad = 0 then s else ev 277 s
    let s := r.entries.foldl (reportEntry r) s
    let s := mirror (.applied s.fab.conns r.seq) s
    let s := recheckConfigs s
    let s := answerOrigin r bytes s
    let s := if decide (r.source = 4 ∨ r.source = 5) && decide (s.sys.role ≠ .standby) && s.pair.follows.isEmpty then catchUp s else s
    if r.phase ≠ .abandoned then tagStage (tagOfSeq r.seq) 6 s
    else if s.plat.tag.any (tagOfSeq r.seq) then tagDrop (tagOfSeq r.seq) (count 0x0218 1 s) else s

/-! ### The rows -/

/-- ROUTE_REQUEST (R48). -/
def execRouteRequest (dt : Nat) (s : State) : Host.Outcome State Fault Refusal := live dt s beginRoute

/-- ROUTE_COMPLETE (R52). -/
def execRouteComplete (dt : Nat) (s : State) : Host.Outcome State Fault Refusal := live dt s completeRoute

/-- CELL_FAILURE_REROUTE (R53): firmware finds a cell failed in service. -/
def execCellFailureReroute (dt cell : Nat) (cond : Cond) (s : State) : Host.Outcome State Fault Refusal :=
  live dt s fun s => if fwLive s && inSvc s.sys.mode then markCell cell cond none s else s

/-- BACKGROUND_REROUTE_DONE (R432). -/
def execBackgroundRerouteDone (dt : Nat) (s : State) : Host.Outcome State Fault Refusal := live dt s backgroundDone

/-- RECONF_ARM (R126). -/
def execReconfArm (dt : Nat) (s : State) : Host.Outcome State Fault Refusal := live dt s armReady

/-- RECONF_REPORT (R150). -/
def execReconfReport (dt : Nat) (seq : W32) (s : State) : Host.Outcome State Fault Refusal := live dt s (reportReconf seq)

end Sys2Proof.Machine
end

