-- ==== Sys2Proof/Machine/Fabric.lean ====
section
/-! DEFINITION. Fabric and connection commands, group 0x02 (R24, R182, R290 to R293). -/

namespace Sys2Proof.Machine

/-! ### Domains (R21 to R24) -/

/-- *Table — Domain definition*. -/
def domainBytes (m : Domains) : List Byte :=
  ((List.range 256).flatMap fun n => le 1 (sget 0 m.ing n)) ++ ((List.range 256).flatMap fun n => le 1 (sget 0 m.egr n)) ++
    ((List.range 16).flatMap fun d => le 1 (discCode (discOf m d))) ++ le 2 m.prot.toNat ++ zeros 2

/-- The definitions that 532 bytes give. -/
def domainsOf (p : Part) (b : List Byte) : Domains :=
  { ing := stab 0 p.ports fun n => fld b n 1
    egr := stab 0 p.ports fun n => fld b (256 + n) 1
    disc := stab .static 16 fun d => match fld b (512 + d) 1 with
      | 1 => .calendar
      | 2 => .tracked
      | _ => .static
    prot := BitVec.ofNat 16 (fld b 528 2) }

/-- Domains whose membership or discipline differs. -/
def changedDomains (p : Part) (a b : Domains) : List Nat :=
  (List.range 16).filter fun d =>
    decide (discOf a d ≠ discOf b d) || (List.range p.ports).any fun n =>
      (sget 0 a.ing n == d) != (sget 0 b.ing n == d) || (sget 0 a.egr n == d) != (sget 0 b.egr n == d)

/-- Calendars and tracked entries of a domain cleared (R24). -/
def clearDomain (d : Nat) (s : State) : State :=
  let mine := ((committed s).filter fun e => e.2.domain == d).map (·.1)
  let s := modDom d (fun v => { v with bank0 := {}, bank1 := {}, state := .none, waiting := false, resume := none, armedTo := none }) s
  let s := withSlc (fun v => { v with
    entries := mine.foldl (fun m n => sset {} m n {}) v.entries
    staged := v.staged.filter fun e => fld e.2 1 1 ≠ d
    prep := v.prep.filter fun p => p.domain != d
    prepWait := v.prepWait.filter fun x => x.2.1 != d }) s
  forEach mine s fun s n => mirror (.entry n none) s

/-- Definitions put in force (R24, R227, R242). -/
def setDomains (m : Domains) (s : State) : State :=
  let old := s.fab.dom
  let ds := changedDomains s.part old m
  let redone := fun d => ds.contains d || old.prot.getLsbD d != m.prot.getLsbD d
  let ports := (List.range s.part.ports).filter fun n => redone (sget 0 old.ing n) || redone (sget 0 m.ing n)
  let s := withFab (fun f => { f with dom := m }) s
  let s := forEach ds s fun s d => clearDomain d s
  mirror (.domains m) (forEach ports s fun s n => clearPort n s)

/-- DOMAIN_SET, opcode 0x0200 (R290). -/
def execDomainSet (dt slot : Nat) (s : State) : Host.Outcome State Fault Refusal :=
  hostCmd { opcode := 0x0200, modes := onlyMode .dark, roles := roleLit,
            checks := fun s p =>
              [lenIs p 532, zeroAt p 530 2,
               fmt ((List.range 256).any fun n => decide (s.part.ports ≤ n ∧ (fld p n 1 ≠ 0 ∨ fld p (256 + n) 1 ≠ 0))),
               rng ((sub p 0 512).any fun b => decide (15 < b.toNat)), rng ((sub p 512 16).any fun b => decide (2 < b.toNat)),
               (crossDomain (domainsOf s.part p) s.fab.conns, 0x27)] }
    dt slot (fun c p s => okCmd c [] (setDomains (domainsOf s.part p) s)) s

/-- DOMAIN_GET, opcode 0x0201. -/
def execDomainGet (dt slot : Nat) (s : State) : Host.Outcome State Fault Refusal :=
  hostCmd { opcode := 0x0201, modes := inRun, checks := fun _ p => [lenIs p 0] } dt slot
    (fun c _ s => okCmd c (domainBytes s.fab.dom) s) s

/-! ### Connections and configurations -/

/-- CONNECT, opcode 0x0202 (R291). -/
def execConnect (dt slot : Nat) (s : State) : Host.Outcome State Fault Refusal :=
  hostCmd { opcode := 0x0202, modes := inSvc, roles := roleLit,
            checks := fun s p =>
              let mask := BitVec.ofNat 16 (fld p 0 2)
              let map := sub p 4 512
              [lenIs p 516, fmt (decide (1 < fld p 2 1)), zeroAt p 3 1, fmt (!mapForm s mask map), rng (!mapRange s map),
               (notStatic s mask, 0x21)] }
    dt slot (fun c p s =>
      enqueueRoute { origin := .connect c.slot 0 (bit (fld p 2 1) 0), want := mapConns (sub p 4 512),
                     scope := BitVec.ofNat 16 (fld p 0 2) } (hold c s)) s

/-- The domains whose entries and calendars name a configuration. -/
def namers (s : State) (n : Nat) : List Nat := (List.range 16).filter fun d => (namedBy s d).contains n

/-- CONFIG_DEFINE, opcode 0x0203 (R292, R183). -/
def execConfigDefine (dt slot : Nat) (s : State) : Host.Outcome State Fault Refusal :=
  hostCmd { opcode := 0x0203, modes := inSvc, roles := roleLit,
            checks := fun s p =>
              let n := fld p 0 2
              let scope := BitVec.ofNat 16 (fld p 2 2)
              let map := sub p 8 512
              [lenIs p 520, fmt (decide (1 < fld p 4 1)), zeroAt p 5 3, fmt (!mapForm s scope map), rng (!mapRange s map),
               ((cfgOf s.fab n).valid && !bit (fld p 4 1) 0, 0x26),
               ((namers s n).any fun d => decide (scope ≠ bitAt 16 d), 0x21)] }
    dt slot (fun c p s =>
      let n := fld p 0 2
      let scope := BitVec.ofNat 16 (fld p 2 2)
      enqueueRoute { origin := .define c.slot n scope, want := mapConns (sub p 8 512), scope := scope,
                     forEntry := !(namers s n).isEmpty } (hold c s)) s

/-- CONFIG_DELETE, opcode 0x0204 (R292). -/
def execConfigDelete (dt slot : Nat) (s : State) : Host.Outcome State Fault Refusal :=
  hostCmd { opcode := 0x0204, modes := inSvc, roles := roleLit,
            checks := fun s p => [lenIs p 4, zeroAt p 2 2, (!(cfgOf s.fab (fld p 0 2)).valid, 0x24),
                                  (!(namers s (fld p 0 2)).isEmpty, 0x23)] }
    dt slot (fun c p s =>
      let n := fld p 0 2
      let s := withFab (fun f => { f with configs := smod {} f.configs n fun r => { r with valid := false } }) s
      okCmd c [] (mirror (configItem s n) s)) s

/-- The first 1,152 bytes of record n (R182). -/
def cfgBytes (s : State) (n : Nat) (r : CfgRec) : List Byte :=
  le 2 n ++ le 2 r.scope.toNat ++ le 2 r.movedDom.toNat ++ le 1 (flag r.valid + flag r.entryRouted * 2 + flag r.reroute * 4) ++
    zeros 1 ++ le 4 r.gen.toNat ++ timeBytes r.routedAt ++ disturbBytes r.report ++ zeros 24 ++
    mapBytes s (fun k => r.ports.getLsbD k) r.conn ++ le 256 r.claim.toNat ++ le 256 r.cells.toNat

/-- The same as CONFIG_READ gives them: a record never defined is as the wipe left it. -/
def recordBytes (s : State) (n : Nat) : List Byte :=
  let r := cfgOf s.fab n
  if r.gen = 0 ∧ !r.valid then zeros 1152 else cfgBytes s n r

/-- CONFIG_READ, opcode 0x0205 (R292). -/
def execConfigRead (dt slot : Nat) (s : State) : Host.Outcome State Fault Refusal :=
  hostCmd { opcode := 0x0205, modes := inRun, checks := fun _ p => [lenIs p 4, zeroAt p 2 2] } dt slot
    (fun c p s => okCmd c (recordBytes s (fld p 0 2)) s) s

/-- CONFIG_APPLY, opcode 0x0206 (R293). -/
def execConfigApply (dt slot : Nat) (s : State) : Host.Outcome State Fault Refusal :=
  hostCmd { opcode := 0x0206, modes := inSvc, roles := roleLit,
            checks := fun s p =>
              let n := fld p 0 2
              [lenIs p 4, zeroAt p 2 2, (!(cfgOf s.fab n).valid, 0x24), (notStatic s (cfgOf s.fab n).scope, 0x21),
               (!compatibleNow s n, 0x25)] }
    dt slot (fun c p s => tagStage (tagOfSlot c.slot) 1 (applyReady c.slot (fld p 0 2) 0 (hold c s))) s

/-! ### Cells and the gap -/

/-- CELL_MARK, opcode 0x0207 (R293, R53, R54). -/
def execCellMark (dt slot : Nat) (s : State) : Host.Outcome State Fault Refusal :=
  hostCmd { opcode := 0x0207, modes := inSvc,
            checks := fun s p => [lenIs p 4, zeroAt p 3 1, rng (decide (s.part.cells ≤ fld p 0 2 ∨ fld p 2 1 < 1 ∨ 3 < fld p 2 1))] }
    dt slot (fun c p s => markCell (fld p 0 2) (condOf (fld p 2 1)) (some c.slot) (hold c s)) s

/-- CELL_READ, opcode 0x0208. -/
def execCellRead (dt slot : Nat) (s : State) : Host.Outcome State Fault Refusal :=
  hostCmd { opcode := 0x0208, modes := inRun,
            checks := fun s p => [lenIs p 4, rng (decide (fld p 2 2 < 1 ∨ 2048 < fld p 2 2 ∨ s.part.cells < fld p 0 2 + fld p 2 2))] }
    dt slot (fun c p s =>
      okCmd c ((List.range (fld p 2 2)).flatMap fun i => le 1 (sget 0 s.fab.cond (fld p 0 2 + i)).toNat) s) s

/-- SET_GAP, opcode 0x0209 (R139). -/
def execSetGap (dt slot : Nat) (s : State) : Host.Outcome State Fault Refusal :=
  hostCmd { opcode := 0x0209, modes := onlyMode .dark,
            checks := fun _ p => [lenIs p 4, zeroAt p 2 2, rng (decide (fld p 0 2 < 600 ∨ 10000 < fld p 0 2))] }
    dt slot (fun c p s => okCmd c [] { s with jets := { s.jets with gap := BitVec.ofNat 14 (fld p 0 2) } }) s

end Sys2Proof.Machine
end

