-- ==== Sys2Proof/Machine/System.lean ====
section
/-! DEFINITION. System commands, group 0x01: identity, status, reset, modes and calibration (R14, R17, R287 to R289). -/

namespace Sys2Proof.Machine

/-! ### IDENTIFY and STATUS -/

/-- Six bytes of a MAC address, first transmitted first. -/
def macBytes (m : BitVec 48) : List Byte := (List.range 6).map fun i => BitVec.ofNat 8 (m.toNat / 256 ^ (5 - i))

/-- The MAC address in use on a management port (R414). -/
def macOf (s : State) (k : Nat) : BitVec 48 :=
  let m := if k = 0 then s.tb.p0 else s.tb.p1
  if m.mac = 0 then s.pld.macBase + BitVec.ofNat 48 k else m.mac

/-- FW_DIGEST: 0 while the boot ROM serves the slots. -/
def runningDigest (s : State) : BitVec 256 := if s.sys.fwRun then s.pld.fwDigest else 0

/-- *Table — IDENTIFY response*. -/
def identifyBytes (s : State) : List Byte :=
  le 4 (idWord s.part).toNat ++ le 4 (versionWord s.mbx).toNat ++ le 8 s.pld.serial.toNat ++ le 1 (lcCode (lcNow s)) ++
    le 1 (match s.sys.band with | some b => flag b | none => 0xFF) ++ le 1 (flag s.sys.sideB) ++ le 1 (flag s.sys.spi) ++
    digestBytes (runningDigest s) ++ macBytes (macOf s 0) ++ macBytes (macOf s 1)

/-- A spare Jet or well is in service. -/
def spareInService (s : State) : Bool := (s.jets.regs.any fun e => e.2.takeEn) || s.wells.any fun e => e.2.takeEn

/-- *Table — STATUS response*. -/
def statusBytes (s : State) : List Byte :=
  le 4 (statusWord s).toNat ++ le 4 (summaryWord s.dike).toNat ++ timeBytes s.tb.now ++
    le 4 (flag (maskedSticky s.dike) + flag (insertPending s.wear) * 2 + flag (spareInService s) * 4) ++
    le 2 (s.fab.cond.filter fun e => decide (e.2.toNat % 4 ≠ 0)).length ++
    le 2 (s.jets.loops.filter fun e => e.2.lock).length ++
    le 2 (s.jets.loops.filter fun e => decide (e.1 < s.part.cells) && e.2.dark).length ++ zeros 2

/-- IDENTIFY, opcode 0x0100. -/
def execIdentify (dt slot : Nat) (s : State) : Host.Outcome State Fault Refusal :=
  hostCmd { opcode := 0x0100, modes := anyMode, checks := fun _ p => [lenIs p 0] } dt slot
    (fun c _ s => okCmd c (identifyBytes s) s) s

/-- STATUS, opcode 0x0101. -/
def execStatus (dt slot : Nat) (s : State) : Host.Outcome State Fault Refusal :=
  hostCmd { opcode := 0x0101, modes := anyMode, checks := fun _ p => [lenIs p 0] } dt slot
    (fun c _ s => okCmd c (statusBytes s) s) s

/-! ### RESET (R288) -/

/-- Every command not yet complete is lost without a response, with the transition or the routes it waits for, and so is one rung and not
yet accepted (R267, R274). -/
def loseCommands (s : State) : State :=
  { s with
    mbx := { s.mbx with cmds := [], rung := 0 }
    sys := { s.sys with trans := none }
    plat := { s.plat with tag := s.plat.tag.filter fun t => t.slot.isNone || t.seq.isSome }
    fab := { s.fab with queue := [], active := none, ready := [] } }

/-- RESET, opcode 0x0102: firmware saves the wear table first (R332). -/
def execReset (dt slot : Nat) (s : State) : Host.Outcome State Fault Refusal :=
  hostCmd { opcode := 0x0102, modes := runOrSafe,
            checks := fun s p => [lenIs p 4, zeroAt p 1 3, rng (decide (fld p 0 1 ≠ 0)), (s.dike.fatal, 0x21)] } dt slot
    (fun c _ s => orderReset (loseCommands (okCmd c [] (keepWear s)))) s

/-! ### Modes (R14, R17, R287) -/

/-- TARGET reaches a mode from the present one (R14). -/
def reachable (m : Mode) (target : Nat) : Bool :=
  match m with
  | .dark => decide (target = 1 ∨ target = 2)
  | .operate | .degraded => decide (target = 0 ∨ target = 2)
  | .maintenance => decide (target = 3)
  | _ => false

/-- The mode of a TARGET; leaving Maintenance is decided when it happens. -/
def targetMode (target : Nat) : Mode :=
  if target = 0 then .dark else if target = 1 then .operate else if target = 2 then .maintenance else .operate

/-- A valid calibration for every cell not in condition OPAQUE (R14, R286). -/
def calibrated (s : State) : Bool := s.sys.calValid && s.sys.uncal.all fun c => condAt s.fab c == .opaqueCell

/-- SET_MODE, opcode 0x0103 (R287). Operate is refused in RETURNED (R386). -/
def execSetMode (dt slot : Nat) (s : State) : Host.Outcome State Fault Refusal :=
  hostCmd { opcode := 0x0103, modes := inRun, lcBad := fun s p => decide (lcNow s = .returned ∧ fld p 0 1 = 1),
            checks := fun s p => [lenIs p 4, zeroAt p 1 3, rng (decide (3 < fld p 0 1)), (!reachable s.sys.mode (fld p 0 1), 3),
                                  (decide (fld p 0 1 = 1) && !calibrated s, 0x20)] } dt slot
    (fun c p s => let s := hold c s
      { s with sys := { s.sys with trans := some ⟨targetMode (fld p 0 1), slot, s.jets.round, false⟩ } }) s

/-- The mode that a transition enters: out of Maintenance, Dark where it was entered from there, and else Operate, which a degraded
condition makes Degraded at once (R14). -/
def nextMode (y : Sys) (t : Trans) : Mode := if y.mode = .maintenance then (if y.fromDark then .dark else .operate) else t.target

/-- MODE_CHANGE: the transition in progress is made. It is not made in the Jet round in which it was ordered, and it is in progress until its
response is written in a later round than its own, within R17's 10 us, so that a Reset, a FATAL or a MAJOR fault of either round goes
before it (R16; DEDUCED, log entry 124). -/
def changeMode (s : State) : State :=
  match if fwLive s then s.sys.trans.filter fun t => !t.made && decide (t.round ≠ s.jets.round) else none with
  | some t =>
    let m := nextMode s.sys t
    let from_ := if m = .maintenance then decide (s.sys.mode = .dark) else s.sys.fromDark
    let done : Trans := { t with round := s.jets.round, made := true }
    settleDegraded (enterMode m { s with sys := { s.sys with trans := some done, fromDark := from_ } })
  | none => s

/-- MODE_CHANGE (R17). -/
def execModeChange (dt : Nat) (s : State) : Host.Outcome State Fault Refusal := live dt s changeMode

/-! ### Calibration (R289, R136, R137) -/

/-- Cells that CALIBRATE names. -/
def calCellsOf (p : List Byte) : List Nat := (List.range (fld p 2 2)).map fun i => fld p (4 + 2 * i) 2

/-- A combination of KIND, BAND and COUNT that R289 does not give. -/
def calBad (p : List Byte) : Bool :=
  let band := fld p 1 1
  let n := fld p 2 2
  if fld p 0 1 = 0 then decide (n ≠ 0 ∨ 1 < band)
  else if fld p 0 1 = 1 then decide (n < 1 ∨ 2038 < n ∨ band ≠ 0xFF)
  else true

/-- Every ingress equaliser at 0.5 dB, as firmware holds it in Calibrate: firmware writes those that the processor owns, and a loop that owns
its output writes that code in its rounds (R77). -/
def openEqualisers (s : State) : State :=
  forEach ((List.range s.part.ports).filter fun n => !(sget {} s.dac.port n : PortDac).own) s fun s n =>
    modPortDac n (fun d => { d with code := (sget {} s.cal.eq n : EqCal).codeMin }) s

/-- The equalisers as the applied connections require them (R131): firmware writes those that the processor owns, and the rounds of a loop
that owns its output the others (R77). -/
def restoreEqualisers (s : State) : State :=
  forEach (List.range s.part.ports) s fun s n =>
    let on := (egOf s.fab.conns n).isSome
    if (sget {} s.dac.port n : PortDac).own then modLoop (eqLoop s.part n) (fun l => { l with levelled := on }) s else writeEq n on s

/-- CALIBRATE, opcode 0x0104: Calibrate is entered on acceptance. -/
def execCalibrate (dt slot : Nat) (s : State) : Host.Outcome State Fault Refusal :=
  hostCmd { opcode := 0x0104, modes := onlyMode .dark,
            checks := fun s p => [fmt (decide (p.length < 4)), lenIs p (4 + 2 * fld p 2 2), fmt (calBad p),
                                  rng ((calCellsOf p).any fun c => decide (s.part.cells ≤ c)), (noDefer s, 5)] } dt slot
    (fun c p s =>
      let s := deferCmd c s
      let s := { s with sys := { s.sys with calFull := decide (fld p 0 1 = 0), calBand := bit (fld p 1 1) 0, calCells := calCellsOf p } }
      openEqualisers (enterMode .calibrate s)) s

/-- The places of one array replaced by those of another where asked. -/
def mergeAt {α : Type} [DecidableEq α] (d : α) (n : Nat) (take : Nat → Bool) (old new : Sparse α) : Sparse α :=
  stab d n fun i => if take i then sget d new i else sget d old i

/-- Calibration after a measurement of some loops: their own data from it, the rest as before. HTR_SEL is never measured: it stays
(R34). A condition changes only where `conds` asks: `fresh` makes it GOOD, else the measured COND (*Table — Cell condition byte*, R43). Of
the loops `touched` the neighbours and coefficients are new. -/
def mergeCal (p : Part) (take conds : Nat → Bool) (touched : List Nat) (fresh : Bool) (old new : CalData) : CalData :=
  let row := fun l => take l || touched.contains l
  { old with
    desc := mergeAt {} p.loops row old.desc new.desc
    bank := mergeAt {} p.loops row old.bank new.bank
    rows := mergeAt [] p.loops take old.rows new.rows
    htr := mergeAt {} (2 * p.cells) (fun n => take (n / 2)) old.htr new.htr
    flip := mergeAt {} p.cells take old.flip new.flip
    cond := stab 0 p.cells fun c =>
      let b := sget 0 old.cond c
      if conds c then (b &&& 4) ||| (if fresh then 0 else sget 0 new.cond c &&& 3) else b }

/-! #### The coupling matrix (R136, R137) -/

/-- What a source may disturb: |a_k| times its largest change of heat. -/
def coefWeight (c : Coef) : Nat := c.a.toInt.natAbs * c.dh

/-- The eight sources of the largest weight; of equal ones the first measured (log entry 116). -/
def eightLargest (l : List Coef) : List Coef :=
  ((l.filter fun c => decide (c.a ≠ 0)).mergeSort fun x y => decide (coefWeight y ≤ coefWeight x)).take 8

/-- A source that a loop's row is measured for (R136): it gives off heat (R134), and lies within three stages and eight rows. -/
def coupled (p : Part) (l k : Nat) : Bool := decide (kindOf p k = .cell ∨ kindOf p k = .valve) && near p 3 8 l k

/-- The steady-state coefficient of a response (R136): the change in BASE + INTEG + p, averaged over rounds 256 to 511, by the change in the
source's heat word; free where it does not fit its 16 bits (log entry 18). -/
def coefOf (r : Response) : Coef :=
  let l := (r.after.drop 256).take 256
  let v := quot (l.map fun x => x - r.before).sum (l.length * r.heat)
  ⟨r.source, if -32768 ≤ v ∧ v < 32768 then BitVec.ofInt 16 v else BitVec.ofNat 16 (Config.outside 16 v), r.dh⟩

/-- The responses of a loop that count (R136): to sources near enough. -/
def stepsOf (p : Part) (r : CalResult) (l : Nat) : List Response := (sget [] r.steps l).filter fun x => coupled p l x.source.toNat

/-- Loops measured whose row could not be: a cell concerned lacked light, or a loop other than the source was not enabled and in lock
(R136). -/
def unmeasured (p : Part) (take : Nat → Bool) (r : CalResult) : List Nat :=
  (List.range p.loops).filter fun l => take l && (stepsOf p r l).any fun x => !x.able

/-- A calibration's results with the coupling rows that its steps give: the coefficients, and the TAU_SH that rounds 0 to 31 choose. -/
def stepRows (p : Part) (r : CalResult) : CalData :=
  let seen := fun l => (stepsOf p r l).filter (·.able)
  { r.data with
    rows := stab [] p.loops fun l => (seen l).map coefOf
    bank := stab {} p.loops fun l =>
      let b : Bank := sget {} r.data.bank l
      let x := seen l
      if x.isEmpty then b else { b with tauSh := BitVec.ofNat 8 (Config.fitTau (x.map fun v => v.after.take 32) % 16) } }

/-- The measured row of a loop. -/
abbrev measuredRow (r : CalData) (l : Nat) : List Coef := sget [] r.rows l

/-- The coefficients in a descriptor and a bank. -/
def inUse (d : Desc) (b : Bank) : List Coef :=
  (List.range 8).filterMap fun k =>
    let a := nth 0 b.a k
    if nbAt d k = 0xFFFF ∨ a = 0 then none else some ⟨nbAt d k, a, 0⟩

/-- A loop's row as pruning finds it: its loop, its load over all measured sources, the eight largest of them, those that are kept, and the
coefficients in use that no measurement speaks of, which are not pruned. -/
structure FitRow where
  loop  : Nat
  load  : Nat
  best  : List Coef
  kept  : List Coef
  fixed : List Coef
  deriving DecidableEq, Repr

/-- The row of a loop: of one that this calibration measures the eight largest sources, and of any other what it has in use. -/
def fitRow (s : State) (take : Nat → Bool) (r : CalData) (l : Nat) : FitRow :=
  let m := measuredRow (if take l then r else s.cal) l
  let best := eightLargest m
  let load := (m.map coefWeight).sum
  if take l && !m.isEmpty then ⟨l, load, best, best, []⟩
  else
    let v := loopOf s l
    let used := if take l then inUse (sget {} r.desc l) (sget {} r.bank l) else inUse v.desc v.coming
    let same := fun (x y : Coef) => decide (x.source = y.source ∧ x.a = y.a)
    ⟨l, load, best, best.filter fun c => used.any (same c), used.filter fun u => !best.any (same u)⟩

/-- The coefficients of a row. -/
def FitRow.all (f : FitRow) : List Coef := f.fixed ++ f.kept

/-- The coefficient of the smallest weight among rows; of equal ones that of the first loop. -/
def smallest (rows : List FitRow) : Option (Nat × Coef) :=
  (rows.flatMap fun r => r.kept.map fun c => (r.loop, c)).foldl (fun m x => match m with
    | none => some x
    | some y => if coefWeight x.2 < coefWeight y.2 then some x else some y) none

/-- `k` coefficients pruned, the smallest first, whatever its cell's load: one that takes a cell past R137's limit is not passed over, and
fails the Jet (R136, R137; DESIGN CHOICE, log entry 116). -/
def prune : Nat → List FitRow → List FitRow
  | 0, rows => rows
  | k + 1, rows =>
    match smallest rows with
    | none => rows
    | some (l, c) => prune k (rows.map fun r => if r.loop = l then { r with kept := r.kept.erase c } else r)

/-- A row put into the calibration: neighbours and coefficients. A loop that is not measured keeps the rest of what it has. -/
def putRow (s : State) (take : Nat → Bool) (r : CalData) (f : FitRow) : CalData :=
  let l := f.loop
  let d : Desc := if take l then sget {} r.desc l else sget {} s.cal.desc l
  let b : Bank := if take l then sget {} r.bank l else (loopOf s l).coming
  { r with desc := sset {} r.desc l { d with nb := f.all.map (·.source) }
           bank := sset {} r.bank l { b with a := f.all.map (·.a) } }

/-- Cycles that a Jet needs with rows (R93). -/
def fitCycles (s : State) (rows : List FitRow) : Nat :=
  16 + (rows.map fun f => slotCost (kindOf s.part f.loop) { a := f.all.map (·.a) }).sum

/-- A cell that pruning has cut beyond 5 % of its load (R137). -/
def overCut (p : Part) (f : FitRow) : Bool :=
  let lost := (f.best.map coefWeight).sum - (f.kept.map coefWeight).sum
  decide (kindOf p f.loop = .cell ∧ f.load < 20 * lost)

/-- Coupling rows chosen: the calibration with them, the Jets that fail by them, and the loops not measured that pruning has changed. -/
structure Fit where
  cal     : CalData
  bad     : List Nat := []
  touched : List Nat := []
  deriving DecidableEq, Repr

/-- A Jet's rows chosen: the eight largest of each measured loop, then coefficients of all its loops pruned to the slot budget. The Jet
fails where the budget is not met, or not within 5 % of every cell's load (R93, R136, R137). -/
def fitJet (s : State) (take : Nat → Bool) (a : Fit) (j : Nat) : Fit :=
  let rows := (loopsOfJet s.part j).map (fitRow s take a.cal)
  let cut := prune (fitCycles s rows - jetRoom s) rows
  let moved := (rows.zip cut).filter fun x => decide (x.1.kept ≠ x.2.kept)
  let bad := decide (jetRoom s < fitCycles s cut) || moved.any fun x => overCut s.part x.2
  let put := cut.filter fun f => (take f.loop && !f.best.isEmpty) || moved.any fun x => x.2.loop == f.loop
  { cal := put.foldl (putRow s take) a.cal
    bad := if bad then a.bad ++ [j] else a.bad
    touched := a.touched ++ if bad then [] else (moved.map fun x => x.2.loop).filter fun l => !take l }

/-- The whole result's rows chosen, Jet by Jet. -/
def fitMatrix (s : State) (take : Nat → Bool) (r : CalData) : Fit :=
  ((List.range s.part.jets).filter fun j => (loopsOfJet s.part j).any take).foldl (fitJet s take) { cal := r }

/-! #### Results in force -/

/-- A loop descriptor for a cell's applied state: a crossed cell's CON and STATE as R95 leaves them. -/
def crossDesc (d : Desc) : Desc := { d with con := -d.con, iAcc := -d.iAcc, qAcc := -d.qAcc, st := true }

/-- Pending insertions of cells that a calibration has made OPAQUE, cancelled (R334). -/
def cancelOpaque (s : State) : State := forEach (ones s.part.cells (opaqueCells s.fab)) s fun s c => cancelInsert c s

/-- A well after a full calibration: every tap entry converts, a gain that range selection now gives is written as any other is (R61, R66),
and the skew trims are those measured; the background estimator goes on from its own OFFSET and GAIN (R58). -/
def recalWell (p : Part) (c : CalData) (t : Time) (w : Nat) (v : Well) : Well :=
  let late := flag (lateNow v t)
  let v := { v with slice := (List.range 8).foldl (fun m i =>
    smod {} m i fun (x : SliceCorr) => { x with skew := (sget {} c.slice (8 * w + i) : SliceCorr).skew }) v.slice }
  if decide (w < p.jets) || v.takeEn then
    let j := jetOfWell p w v
    (List.range 72).foldl (fun v ch =>
      let g := sget 0 c.gain (128 * j + ch)
      let v := if (comingChan v ch).gain = g then v else { v with pend := v.pend ++ [.gain late ch g] }
      let e := comingSched v ch
      if e.en || (loopAt p j (slotOfChan ch)).isNone then v else { v with pend := v.pend ++ [.sched late ch { e with en := true }] }) v
  else v

/-- The wells, Jets and Fountains after a full calibration: as on a unit that R399 has prepared. -/
def recalUnits (c : CalData) (s : State) : State :=
  let p := s.part
  runJets { s with
    wells := smap {} (p.jets + p.spares) s.wells (recalWell p c s.tb.now)
    jets := { s.jets with fnt := (smap {} p.loops s.jets.fnt fun n f =>
        let x := loadFnt p s.jets.rate n
        { f with slot := x.slot, inc := x.inc, en := x.en }) ++ s.jets.fnt.filter fun e => decide (spareFnt 0 0 ≤ e.1) } }

/-- One loop's results in force: its descriptor and banks, written while it is disabled (R123), a cell's flip driver at its applied state,
the calibrated code and range of its heater in use (R79), and the loop enabled. -/
def putResult (c : CalData) (cells : CellMap) (l : Nat) (s : State) : State :=
  let s := modLoop l (fun v => { loadLoop s.part c l (unlock v) with enabled := false, ramp := .none, ramping := false }) (lockEvent l s)
  if l < s.part.cells then
    let x := cells.getLsbD l
    let n := htrIdx l (onHeaterB c l)
    let q : HtrCal := sget {} c.htr n
    let f : FlipCal := sget {} c.flip l
    let s := modFlip l (fun d => { d with preemph := f.preemph, iset := f.iset, level := x }) s
    let s := if x then modLoop l (fun v => { v with desc := crossDesc v.desc }) s else s
    startLoop l (turnRange n q.range (putHtr n q.opCode.toNat s))
  else startLoop l s

/-- New neighbours and coefficients of a loop that was not measured, which pruning has changed; it starts again where it ran. -/
def putTouched (c : CalData) (l : Nat) (s : State) : State :=
  let on := (loopOf s l).enabled
  let nb := (sget {} c.desc l : Desc).nb
  let b : Bank := sget {} c.bank l
  let s := modLoop l (fun v => { v with desc := { v.desc with nb := nb }, bank0 := b, bank1 := b, swap := false }) s
  if on then startLoop l s else s

/-- Results put in force: of a full calibration everything, of an incremental one the named cells', but for cells that failed; whatever
was not measured runs on as it is, but for rows that pruning has changed. Conditions and band are those that the store records, so where
the calibration fails they stay as they were, since the store is not written, though the other results are in force (DESIGN CHOICE, log
entry 62). Connections and their cell states stay applied; a stuck cell's state follows its condition (R430), and an OPAQUE cell's outputs
stand (R42). -/
def useResults (ok : Bool) (failed badJets touched : List Nat) (r : CalData) (s : State) : State :=
  let p := s.part
  let y := s.sys
  let take := fun l => calNamed s l && !failed.contains l && !badJets.contains (jetOfLoop p l)
  let base := if y.calFull then { s.cal with eq := r.eq, gain := r.gain, slice := r.slice } else s.cal
  let c := mergeCal p take (fun c => ok && take c) touched y.calFull base r
  let after := { s.fab with cond := c.cond }
  let opaque_ := opaqueCells after
  let newly := opaque_ &&& ~~~(opaqueCells s.fab)
  let fixed := condFixed after &&& ~~~opaque_
  let levels := mapOf 2048 ((s.dac.flip.filter fun e => e.2.level).map (·.1))
  let crossed := mapOf 2048 ((c.cond.filter fun e => e.2.toNat % 4 = 2).map (·.1))
  let cells := (s.fab.cells &&& ~~~fixed &&& ~~~opaque_) ||| (crossed &&& fixed) ||| (levels &&& opaque_)
  let s := countToggles s
  let s := { s with cal := c, fab := { after with cells := cells }, sys := { y with band := if y.calFull && ok then some y.calBand else y.band } }
  let s := forEach (ones p.cells newly) s fun s c => freezeLoop c s
  let s := if y.calFull then recalUnits c s else s
  let s := forEach ((List.range p.loops).filter fun l => take l && !(decide (l < p.cells) && opaque_.getLsbD l)) s fun s l => putResult c cells l s
  let s := forEach touched s fun s l => putTouched c l s
  cancelOpaque (restoreEqualisers s)

/-- CALIBRATION_END: the coupling rows computed and chosen, results in force, the store written on success, the unit back in Dark, and the
final response. A cell whose row could not be measured fails. A unit without a calibration has one only once a full one succeeds (R400); a
failure that lists no cell leaves every measured cell without one (R14, log entry 62). -/
def endCalibration (success : Bool) (failedCells failedJets : List Nat) (r : CalResult) (ms : W32) (s : State) : State :=
  if !fwLive s || s.sys.mode ≠ .calibrate then s
  else
    let p := s.part
    let full := s.sys.calFull
    let fit := fitMatrix s (calNamed s) (stepRows p r)
    let jets := (failedJets.filter (· < p.jets) ++ fit.bad).eraseDups
    let lost := failedCells ++ unmeasured p (calNamed s) r ++ jets.flatMap (loopsOfJet p)
    let failed := (lost.filter (· < p.cells)).eraseDups
    let ok := success && failed.isEmpty
    let old := s.sys
    let unmeasured := if ok || !failed.isEmpty then failed else (List.range p.cells).filter (calNamed s)
    let s := useResults ok failed jets fit.touched fit.cal s
    let uncal := unmeasured ++ (if full then [] else old.uncal.filter fun c => !old.calCells.contains c)
    let s := { s with sys := { s.sys with calValid := (full && ok) || old.calValid, uncal := uncal } }
    let s := if ok then withPld (storeCal (s.sys.band.getD false) s.cal) s else s
    let s := enterMode .dark s
    match deferredCmd s 0x0104 with
    | some c => finish c 0 (le 1 (flag (!ok)) ++ zeros 1 ++ le 2 failed.length ++ le 4 ms.toNat ++ le 8 (mapOf 64 jets).toNat) s
    | none => s

/-- CALIBRATION_END (R14, R289). -/
def execCalibrationEnd (dt : Nat) (success : Bool) (failedCells failedJets : List Nat) (result : CalResult) (durationMs : W32)
    (s : State) : Host.Outcome State Fault Refusal :=
  live dt s (endCalibration success failedCells failedJets result durationMs)

end Sys2Proof.Machine
end

