-- ==== Sys2Proof/Machine/Loops.lean ====
section
/-! DEFINITION. Loop commands, group 0x03 but for HEATER_B (R80, R93, R107 to R112, R124, R294, R295). -/

namespace Sys2Proof.Machine

/-- LOOP is none of the part's. -/
abbrev badLoop (s : State) (p : List Byte) : Bool := decide (s.part.loops ≤ fld p 0 2)

/-- LOOP_READ's response. -/
def loopBytes (s : State) (l : Nat) : List Byte :=
  let v := loopOf s l
  le 1 (runnerOf s l) ++ le 1 (slotOfLoop s.part l) ++ zeros 2 ++ le 4 (loopStatWord v).toNat ++
    descBytes (if v.desc.kind = .empty then 0 else l) v.desc ++ bankBytes v.active

/-- LOOP_READ, opcode 0x0300: the counts returned clear (R294). -/
def execLoopRead (dt slot : Nat) (s : State) : Host.Outcome State Fault Refusal :=
  hostCmd { opcode := 0x0300, modes := inRun, checks := fun s p => [lenIs p 4, zeroAt p 2 2, rng (badLoop s p)] } dt slot
    (fun c p s =>
      let l := fld p 0 2
      modLoop l (fun v => { v with hops := 0, skips := 0, clamps := 0 }) (okCmd c (loopBytes s l) s)) s

/-! ### LOOP_SET (R93, R124, R294) -/

/-- Reserved bytes of LOOP_SET that are not 0, and marked values that R124 rejects. -/
def paramsBad (s : State) (p : List Byte) : Bool :=
  let w := fld p 2 1
  let setpt := fld p 40 4
  rsvd p 13 7 || rsvd p 39 1 || (bit w 0 && !bankOk (sub p 4 32)) ||
    (bit w 2 && (match kindOf s.part (fld p 0 2) with
      | .cell => decide (setpt ≠ 0)
      | .valve => decide (bits setpt 15 14 ≠ 0 ∨ bits setpt 31 30 ≠ 0)
      | _ => false)) ||
    (bit w 3 && decide (fld p 44 2 = 0))

/-- The shadow bank written and a swap requested (R108). -/
def setBank (l : Nat) (b : Bank) (s : State) : State :=
  modLoop l (fun v => if v.desc.abank then { v with bank0 := b, swap := true } else { v with bank1 := b, swap := true }) s

/-- The marked parameters, for the next round start (R123); a valve's BLOCK_CODE is its SAFE_CODE too (R81). -/
def setParams (l : Nat) (p : List Byte) (s : State) : State :=
  let w := fld p 2 1
  let s := modLoop l (fun v =>
    { v with setLight := if bit w 1 then some (BitVec.ofNat 24 (fld p 36 4)) else v.setLight
             setSetpt := if bit w 2 then some (BitVec.ofNat 32 (fld p 40 4)) else v.setSetpt
             setRamp := if bit w 3 then some (BitVec.ofNat 16 (fld p 44 2)) else v.setRamp
             setLock := if bit w 4 then some (BitVec.ofNat 16 (fld p 46 2)) else v.setLock }) s
  if bit w 2 && decide (kindOf s.part l = .valve) then
    modPortDac (portIdx s.part l) (fun d => { d with safeCode := BitVec.ofNat 14 (bits (fld p 40 4) 29 16) }) s
  else s

/-- LOOP_SET, opcode 0x0301: a bank over the slot budget fails with BUDGET; a response to one that is taken follows its swap. -/
def execLoopSet (dt slot : Nat) (s : State) : Host.Outcome State Fault Refusal :=
  hostCmd { opcode := 0x0301, modes := inRun,
            checks := fun s p => [lenIs p 48, zeroAt p 3 1, fmt (decide (32 ≤ fld p 2 1)), fmt (paramsBad s p), rng (badLoop s p)] } dt slot
    (fun c p s =>
      let l := fld p 0 2
      let b := bankOf (sub p 4 32)
      if bit (fld p 2 1) 0 then
        let n := jetCycles s l b
        if jetRoom s < n then finish c 0x0320 (le 1 (jetOfLoop s.part l) ++ zeros 3 ++ le 4 n) s
        else setBank l b (setParams l p (hold c s))
      else okCmd c [] (setParams l p s)) s

/-! ### LOOP_ENABLE (R69, R110 to R112, R295) -/

/-- LOOP_ENABLE, opcode 0x0302. The valves are powered in every mode that accepts it, so no port loop is disabled. -/
def execLoopEnable (dt slot : Nat) (s : State) : Host.Outcome State Fault Refusal :=
  hostCmd { opcode := 0x0302, modes := inRun,
            checks := fun s p =>
              let l := fld p 0 2
              let on := decide (fld p 2 1 = 1)
              [lenIs p 4, zeroAt p 3 1, rng (badLoop s p), rng (decide (1 < fld p 2 1)),
               (!on && decide (s.part.cells ≤ l), 0x21), (!on && onPath s l, 0x22), (on && forerunnerOn s l, 0x23)] } dt slot
    (fun c p s =>
      let l := fld p 0 2
      okCmd c [] (if fld p 2 1 = 0 then stopLoop l s else if (loopOf s l).enabled then s else startLoop l s)) s

/-! ### RECENTRE (R107) -/

/-- RECENTRE, opcode 0x0303: made at the next round start, and answered then. -/
def execRecentre (dt slot : Nat) (s : State) : Host.Outcome State Fault Refusal :=
  hostCmd { opcode := 0x0303, modes := inSvc,
            checks := fun s p => [lenIs p 4, zeroAt p 2 2, rng (decide (s.part.cells ≤ fld p 0 2)),
                                  (recentreBad s (fld p 0 2), 0x22)] } dt slot
    (fun c _ s => hold c s) s

/-! ### RANGE_SET, SET_RATE, LOOP_CFG (R79, R80, R92, R106) -/

/-- RANGE_SET, opcode 0x0304: a change of range answers at the end of its interval. In an interval already running its write is ignored,
as every write to the ladder is (R79), and it answers at that interval's end (log entry 110). The heaters of an OPAQUE cell stay as they
are, and it answers OK (R42; log entry 115). -/
def execRangeSet (dt slot : Nat) (s : State) : Host.Outcome State Fault Refusal :=
  hostCmd { opcode := 0x0304, modes := inRun,
            checks := fun s p => [lenIs p 4, zeroAt p 3 1, rng (decide (s.part.cells ≤ fld p 0 2 ∨ 1 < fld p 2 1))] } dt slot
    (fun c p s =>
      let n := htrIdx (fld p 0 2) (loopOf s (fld p 0 2)).desc.htrB
      let h := htrOf s n
      let range := decide (fld p 2 1 = 1)
      if h.rcBusy then modHtr n (fun h => { h with rcSlot := some slot }) (hold c s)
      else if range = h.range || frozenCell s (fld p 0 2) then okCmd c [] s
      else modHtr n (fun h => { h with rcSlot := some slot }) (turnRange n range (hold c s))) s

/-- SET_RATE, opcode 0x0305: the rate takes effect at the next frame start. -/
def execSetRate (dt slot : Nat) (s : State) : Host.Outcome State Fault Refusal :=
  hostCmd { opcode := 0x0305, modes := fun m => decide (m = .calibrate ∨ m = .dark),
            checks := fun _ p => [lenIs p 4, zeroAt p 1 3, rng (decide (2 < fld p 0 1))] } dt slot
    (fun c p s =>
      let s := hold c s
      { s with jets := { s.jets with newRate := some (BitVec.ofNat 2 (fld p 0 1)) } }) s

/-- LOOP_CFG, opcode 0x0306: JET_SKIP_CFG of every Jet, and the horizon of R106. -/
def execLoopCfg (dt slot : Nat) (s : State) : Host.Outcome State Fault Refusal :=
  hostCmd { opcode := 0x0306, modes := inRun,
            checks := fun _ p => [lenIs p 8, zeroAt p 5 1, rng (decide (fld p 0 4 < 1 ∨ 604800 < fld p 0 4)),
                                  rng (decide (fld p 4 1 = 0 ∨ fld p 6 2 = 0))] } dt slot
    (fun c p s =>
      let j := s.jets
      okCmd c [] { s with jets := { j with
        horizon := BitVec.ofNat 32 (fld p 0 4)
        regs := smap {} (s.part.jets + s.part.spares) j.regs fun _ x =>
          { x with limit := BitVec.ofNat 8 (fld p 4 1), win := BitVec.ofNat 16 (fld p 6 2) } } }) s

end Sys2Proof.Machine
end

