-- ==== Sys2Proof/Machine/Calendars.lean ====
section
/-! DEFINITION. Calendar commands, group 0x04, and the checks of a commit (R187, R191 to R195, R206, R228, R296, R297). -/

namespace Sys2Proof.Machine

/-- DOMAIN is none. -/
abbrev badDomain (p : List Byte) : Bool := decide (15 < fld p 0 1)

/-! ### CAL_WRITE (R296) -/

/-- Entries of a CAL_WRITE put into a bank. -/
def writeEntries (first : Nat) (p : List Byte) (b : CalBank) : CalBank :=
  { b with ents := (List.range (p.length / 16)).foldl (fun m i => sset (zeros 16) m (first + i) (sub p (16 * i) 16)) b.ents }

/-- CAL_WRITE, opcode 0x0400. -/
def execCalWrite (dt slot : Nat) (s : State) : Host.Outcome State Fault Refusal :=
  hostCmd { opcode := 0x0400, modes := inSvc, roles := roleLit,
            checks := fun _ p =>
              let head := if bit (fld p 1 1) 0 then 32 else 0
              [fmt (decide (p.length < 8)), fmt (decide (1 < fld p 1 1)), lenIs p (8 + head + 16 * fld p 4 2), zeroAt p 6 2,
               rng (badDomain p), rng (decide (252 < fld p 4 2 ∨ 4096 < fld p 2 2 + fld p 4 2))] } dt slot
    (fun c p s =>
      let d := fld p 0 1
      let full := bit (fld p 1 1) 0
      let s := withdrawWaiting d s
      let b := if full then { hdr := sub p 8 32, ents := [] } else (slcDom s d).shadow
      okCmd c [] (modDom d (fun v => v.setShadow (writeEntries (fld p 2 2) (p.drop (if full then 40 else 8)) b)) s)) s

/-! ### Commit checks (R206) -/

/-- A failed check: its order, the item concerned, the route outcome. -/
structure Failed where
  order   : Nat
  item    : Nat := 0xFFFF
  outcome : Nat := 0
  deriving DecidableEq, Repr

/-- A header that check 1 refuses. -/
def headerBad (h : List Byte) : Bool :=
  h.isEmpty || rsvd h 19 13 || !timeOk h 0 || decide (fld h 12 4 < 10000 ∨ 1000000000 < fld h 12 4) ||
    decide (fld h 16 2 < 1 ∨ 4096 < fld h 16 2) || decide (15 < fld h 18 1)

/-- Entry i of a bank that check 1 refuses. -/
def calEntryBad (b : CalBank) (i : Nat) : Bool :=
  let e := entryOf b i
  let off := entryOff e
  decide (bits (fld e 2 4) 31 30 ≠ 0) || decide (1 < fld e 8 1) || rsvd e 9 7 || (entryKeep e && rsvd e 6 2) ||
    decide (ns (fld b.hdr 12 4) ≤ off) || (if i = 0 then decide (off ≠ 0) else decide (off ≤ entryOff (entryOf b (i - 1))))

/-- Check 1. -/
def formatFails (b : CalBank) : Option Failed :=
  if headerBad b.hdr then some ⟨1, 0xFFFF, 0⟩
  else ((List.range (bankCount b)).find? (calEntryBad b)).map fun i => ⟨1, i, 0⟩

/-- A configuration that check 3 refuses for an entry of domain d (R183). -/
def configBad (f : Fab) (d n : Nat) : Bool :=
  let r := cfgOf f n
  !r.valid || decide (r.scope ≠ bitAt 16 d) ||
    (ones 16 r.movedDom).any fun k => decide (discOf f.dom k ≠ .static)

/-- Window i breaks R191. -/
def windowBad (gap : Nat) (c : Cal) (i : Nat) : Bool :=
  let len := nth c.cycle c.offs (i + 1) - nth 0 c.offs i
  decide (len < ns 2000) || ((c.cfg i).isSome && decide (len < ns (gap + 1200)))

/-- Two entries of two calendars are spaced too closely at some phase (check 7): δ or g − δ lies strictly between 0 and GAP + 240 ns. -/
def tooClose (gap : Nat) (a b : Cal) (i j : Nat) : Bool :=
  let g := Nat.gcd a.cycle b.cycle
  let d := ((((a.base + nth 0 a.offs i : Nat) : Int) - ((b.base + nth 0 b.offs j : Nat) : Int)) % g).toNat
  let lim := ns (gap + 240)
  decide ((0 < d ∧ d < lim) ∨ g - d < lim)

/-- Entries of a calendar that are not KEEP. -/
def Cal.firing (c : Cal) : List Nat := (List.range c.count).filter fun i => (c.cfg i).isSome

/-- Calendars active or waiting in other domains. -/
def otherCals (s : State) (d : Nat) : List Cal :=
  ((List.range 16).filter (· ≠ d)).flatMap fun k => (calActive (slcDom s k)).toList ++ (calWaiting (slcDom s k)).toList

/-- Configurations routed one after another for entries: the records written, and the first that cannot be routed with its outcome
(check 6). -/
def routeAll6 : List Nat → State → State × Option Failed
  | [], s => (s, none)
  | n :: t, s =>
    if (cfgOf s.fab n).entryRouted then routeAll6 t s
    else
      let (d, r) := rerouteRecord s n true
      let s := withFab (fun f => { f with routes := f.routes + 1 }) s
      if Disturb.rejected d then (s, some ⟨6, n, d.outcome⟩) else routeAll6 t (putRecord n r s)

/-- Ports of a domain that some window of a calendar connects. -/
def connectedPorts (s : State) (d : Nat) (c : Cal) : List Nat :=
  (domPorts s.part s.fab d).filter fun n => connects s n c s.fab.conns

/-- Check 9. -/
def portBad (s : State) (c : Cal) (n : Nat) : Bool :=
  let p := wportOf s n
  decide (p.lineRate = 0 ∨ c.cycle ≤ ns p.glead.toNat)

/-- Checks 1 to 5 of a domain's shadow bank (R206). -/
def earlyChecks (s : State) (d : Nat) (b : CalBank) (c : Cal) : Option Failed :=
  (formatFails b).or <|
  (if discOf s.fab.dom d ≠ .calendar ∨ fld b.hdr 18 1 ≠ d then some ⟨2, 0xFFFF, 0⟩ else none).or <|
  ((c.names.find? (configBad s.fab d)).map fun n => (⟨3, n, 0⟩ : Failed)).or <|
  (((List.range c.count).find? (windowBad s.jets.gap.toNat c)).map fun i => (⟨4, i, 0⟩ : Failed)).or <|
  (if inHorizon s.tb.now c.base then none else some ⟨5, 0xFFFF, 0⟩)

/-- Checks 7 and 9; check 8's limits are those of the earlier checks, and check 10 never fails. -/
def lateChecks (s : State) (d : Nat) (c : Cal) : Option Failed :=
  ((c.firing.find? fun i => (otherCals s d).any fun o => o.firing.any (tooClose s.jets.gap.toNat c o i)).map
    fun i => (⟨7, i, 0⟩ : Failed)).or
  (((connectedPorts s d c).find? (portBad s c)).map fun n => ⟨9, n, 0⟩)

/-! ### What a commit does (R192 to R195) -/

/-- A calendar re-checked against the gap in force: an active one that fails is stopped, a waiting one withdrawn, each with GAP_FAIL
(R195). -/
def recheckGap (d : Nat) (s : State) : State :=
  let v := slcDom s d
  let gap := s.jets.gap.toNat
  let failsIn := fun c : Option Cal => (c.map fun c => !c.windowsOk gap).getD false
  let activeBad := failsIn (calActive v)
  let waitBad := failsIn (calWaiting v)
  let mark := fun s => notifyCal {} d 5 s.tb.now (modDom d (fun v => { v with gapFail := true }) s)
  let s := if waitBad then mark (withdrawWaiting d s) else s
  if activeBad then
    let keep := (slcDom s d).waiting
    let s := mark (mirror (calendarItem s d false false) (stopCalendar {} d 4 s))
    if keep then
      let s := modDom d (fun v => { v with waiting := true, state := .waiting }) s
      mirror (calendarItem s d true true) s
    else s
  else s

/-- MAX_FIT of a domain's ports at a commit (R222). -/
def setFits (d : Nat) (c : Cal) (s : State) : State :=
  forEach (domPorts s.part s.fab d) s fun s n => let m := maxFitOf s n c s.fab.conns; modWPort n (fun p => { p with maxFit := m }) s

/-- The port with the lowest MAX_FIT among those connected, and that MAX_FIT (check 10). -/
def lowestFit (s : State) (d : Nat) (c : Cal) : Nat × Nat :=
  ((connectedPorts s d c).map fun n => (n, maxFitOf s n c s.fab.conns)).foldl
    (fun m x => if m.1 = 0xFFFF ∨ x.2 < m.2 then x else m) (0xFFFF, 0)

/-- *Table — Commit result* of a commit that passed. -/
def commitOk (fit : Nat × Nat) (start : Time) (n : Nat) : List Byte :=
  le 1 0 ++ zeros 1 ++ le 2 0xFFFF ++ le 2 0 ++ le 2 fit.1 ++ le 4 fit.2 ++ timeBytes start ++ le 4 n ++ le 1 (flag (0 < n)) ++ zeros 3

/-- The same of one that failed: the fields from MAX_FIT_PORT on are not valid, so that they are free values. -/
def commitFailed (f : Failed) (s : State) : List Byte × State :=
  let (a, s) := draw s
  let (b, s) := draw s
  let (c, s) := draw s
  let (e, s) := draw s
  let (g, s) := draw s
  (le 1 f.order ++ zeros 1 ++ le 2 f.item ++ le 2 f.outcome ++ le 2 a ++ le 4 b ++ le 12 c ++ le 4 e ++ le 1 g ++ zeros 3, s)

/-- Every other committed calendar re-checked at a commit, whether it passes or fails (R195). -/
def recheckAll (s : State) : State := forEach (List.range 16) s fun s k => recheckGap k s

/-- A calendar that passed every check: the shadow bank waits for its start instant (R192, R193). -/
def acceptCal (about : About) (d : Nat) (c : Cal) (s : State) : State × List Byte :=
  let n := c.firstCycle (s.tb.now + c.lead)
  let start := c.cycleStart n
  let fit := lowestFit s d c
  let s := modDom d (fun v => { v with
    waiting := true, start := start, startCycle := n, lateBase := decide (0 < n), cycWrap := false,
    state := if v.state = .running ∨ v.state = .suspended then v.state else .waiting }) s
  let s := if (calActive (slcDom s d)).isNone then setFits d c s else s
  let s := if 0 < n then notifyCal about d 1 start s else s
  (mirror (calendarItem s d true true) s, commitOk fit start n)

/-- A commit that failed a check: the domain's GAP_FAIL stays as it was. -/
def commitFails (d : Nat) (gapFail : Bool) (f : Failed) (s : State) : State × Bool × List Byte :=
  let (r, t) := commitFailed f (modDom d (fun x => { x with gapFail := x.gapFail || gapFail }) s)
  (t, true, r)

/-- CAL_COMMIT's checks and effect: the state after them, whether it failed, and the commit result. The re-check of R195 comes first, so
that the commit does not fail for a calendar that it stops; a commit that fails keeps the domain's own GAP_FAIL. -/
def commitCal (about : About) (d : Nat) (s : State) : State × Bool × List Byte :=
  let v := slcDom s d
  let b := v.shadow
  let c := (calOf b).getD ⟨0, 0, [], []⟩
  let u := recheckAll (modDom d (fun v => { v with gapFail := false }) s)
  match earlyChecks u d b c with
  | some f => commitFails d v.gapFail f u
  | none =>
    let (t, bad) := routeAll6 c.names u
    match bad.or (lateChecks t d c) with
    | some f => commitFails d v.gapFail f (withFab (fun x => { x with routes := t.fab.routes }) u)
    | none =>
      let (w, r) := acceptCal about d c t
      (w, false, r)

/-- The engine is not needed, or may be had: a configuration that the shadow calendar names is still to be routed. -/
def commitTurn (s : State) (acc : Time) (names : List Nat) : Bool :=
  names.all (fun n => (cfgOf s.fab n).entryRouted) || engineTurn s acc

/-- A domain whose commit's checks can end now, with the command behind it. -/
def commitDue (s : State) : Option (Nat × Option SlotCmd) :=
  if fwLive s then
    ((List.range 16).find? fun d => (slcDom s d).checkAt.isSome).bind fun d =>
      let c := deferredCmd s 0x0401
      let names := ((calOf (slcDom s d).shadow).map Cal.names).getD []
      if commitTurn s ((c.map (·.acc)).getD 0) names then some (d, c) else none
  else none

/-- CAL_COMMIT, opcode 0x0401. -/
def execCalCommit (dt slot : Nat) (s : State) : Host.Outcome State Fault Refusal :=
  hostCmd { opcode := 0x0401, modes := inSvc, roles := roleLit,
            checks := fun s p => [lenIs p 4, zeroAt p 1 3, rng (badDomain p), (noDefer s, 5)] } dt slot
    (fun c p s => modDom (fld p 0 1) (fun v => { v with checkAt := some slot }) (deferCmd c s)) s

/-- What a ring entry of a command at work names: its final status is OK. -/
def aboutCmd (c : Option SlotCmd) : About :=
  (c.map fun c => { opcode := c.opcode, seq := c.seq.toNat, slot := c.slot : About }).getD {}

/-- CAL_COMMIT_DONE: the checks complete (R297); the routes among them take their turn in the engine (R52). -/
def calCommitDone (s : State) : State :=
  match commitDue s with
  | some (d, k) =>
    let (s, bad, r) := commitCal (aboutCmd k) d (modDom d (fun v => { v with checkAt := none }) s)
    match k with
    | some c => finish c (if bad then 0x0420 else 0) r s
    | none => s
  | none => s

/-- CAL_COMMIT_DONE (R206). -/
def execCalCommitDone (dt : Nat) (s : State) : Host.Outcome State Fault Refusal := live dt s calCommitDone

/-! ### The other calendar commands (R297) -/

/-- CAL_STOP, opcode 0x0402: behind an entry already armed; the response follows the stop. -/
def execCalStop (dt slot : Nat) (s : State) : Host.Outcome State Fault Refusal :=
  hostCmd { opcode := 0x0402, modes := inSvc, roles := roleLit,
            checks := fun _ p => [lenIs p 4, zeroAt p 1 3, rng (badDomain p)] } dt slot
    (fun c p s => modDom (fld p 0 1) (fun v => { v with stopAfter := some slot }) (hold c s)) s

/-- CAL_READ, opcode 0x0403. -/
def execCalRead (dt slot : Nat) (s : State) : Host.Outcome State Fault Refusal :=
  hostCmd { opcode := 0x0403, modes := inRun,
            checks := fun _ p => [lenIs p 8, zeroAt p 6 2, rng (badDomain p),
                                  rng (decide (1 < fld p 1 1 ∨ 252 < fld p 4 2 ∨ 4096 < fld p 2 2 + fld p 4 2))] } dt slot
    (fun c p s =>
      let v := slcDom s (fld p 0 1)
      let b := if fld p 1 1 = 0 then v.active else v.shadow
      okCmd c (pad 32 b.hdr ++ (List.range (fld p 4 2)).flatMap fun i => pad 16 (entryOf b (fld p 2 2 + i))) s) s

/-- CAL_STATUS, opcode 0x0404: the counts and LATE_BASE and GAP_FAIL returned are cleared. -/
def execCalStatus (dt slot : Nat) (s : State) : Host.Outcome State Fault Refusal :=
  hostCmd { opcode := 0x0404, modes := inRun, checks := fun _ p => [lenIs p 4, zeroAt p 1 3, rng (badDomain p)] } dt slot
    (fun c p s =>
      let d := fld p 0 1
      let r := ((slcDomWords s d).flatMap fun w => le 4 w.toNat) ++ timeBytes (slcDom s d).start ++ zeros 4
      modDom d (fun v => { v with skipped := 0, refused := 0, late := 0, advanced := 0, lateBase := false, gapFail := false })
        (okCmd c r s)) s

end Sys2Proof.Machine
end

