-- ==== Sys2Proof/Machine/Tracking.lean ====
section
/-! DEFINITION. Tracking commands, group 0x05, and telegrams from the management ports (R168 to R172, R196, R197, R206, R298, R299,
R414). -/

namespace Sys2Proof.Machine

/-- A change of the tracker. -/
def withTrk (f : Trk → Trk) (s : State) : State := { s with trk := f s.trk }

/-! ### Binding (R171, R197) -/

/-- An entry returned to PENDING. -/
def pendEntry (n : Nat) (s : State) : State :=
  let e : TEntry := sget {} s.slc.entries n
  let s := dropPrep true e.domain n s
  let e' := { e with state := .pending, tFire := 0, seqUsed := 0, missed := false, lost := false }
  if e' = e then s else mirror (.entry n (some e')) (modEntry n (fun _ => e') s)

/-- The entries of a train slot in one of some states, returned to PENDING. -/
def pendEntries (k : Nat) (states : List EState) (s : State) : State :=
  forEach ((committed s).filter fun e => e.2.train == k && states.contains e.2.state) s fun s e => pendEntry e.1 s

/-- A slot's record replaced and mirrored. -/
def putTrain (k : Nat) (t : Train) (s : State) : State := mirror (.train k t) (modTrain k (fun _ => t) s)

/-- TRAIN_BIND, opcode 0x0500: the record is cleared either way. -/
def execTrainBind (dt slot : Nat) (s : State) : Host.Outcome State Fault Refusal :=
  hostCmd { opcode := 0x0500, modes := inSvc, roles := roleLit,
            checks := fun s p =>
              let id : W32 := BitVec.ofNat 32 (fld p 4 4)
              [lenIs p 8, zeroAt p 2 2, fmt (decide (fld p 1 1 = 1 ∧ id ≠ 0)), rng (decide (63 < fld p 0 1 ∨ 1 < fld p 1 1)),
               (decide (fld p 1 1 = 0) && s.trk.trains.any fun t => t.2.bound && decide (t.2.id = id ∧ t.1 ≠ fld p 0 1), 0x20)] }
    dt slot
    (fun c p s =>
      let k := fld p 0 1
      let s :=
        if fld p 1 1 = 0 then
          pendEntries k [.scheduled, .fired, .skipped, .refused]
            (putTrain k { id := BitVec.ofNat 32 (fld p 4 4), bound := true } s)
        else pendEntries k [.scheduled] (putTrain k {} s)
      okCmd c [] s) s

/-- TRAIN_READ, opcode 0x0501. -/
def execTrainRead (dt slot : Nat) (s : State) : Host.Outcome State Fault Refusal :=
  hostCmd { opcode := 0x0501, modes := inRun, checks := fun _ p => [lenIs p 4, zeroAt p 1 3, rng (decide (63 < fld p 0 1))] } dt slot
    (fun c p s => okCmd c (trainBytes (trainOf s (fld p 0 1))) s) s

/-! ### Staged entries (R298) -/

/-- USED of a staged entry. -/
abbrev usedIn (e : List Byte) : Bool := bit (fld e 2 1) 7

/-- A staged entry as it is committed: PENDING. -/
def tentryOf (e : List Byte) : TEntry :=
  { used := true, train := fld e 0 1, domain := fld e 1 1, sense := bit (fld e 2 1) 0, config := fld e 4 2,
    pos := BitVec.ofNat 32 (fld e 8 4), lead := fld e 12 4 }

/-- Entry i of an ENTRY_WRITE. -/
abbrev writtenEntry (p : List Byte) (i : Nat) : List Byte := sub p (8 + 32 * i) 32

/-- ENTRY_WRITE, opcode 0x0502. -/
def execEntryWrite (dt slot : Nat) (s : State) : Host.Outcome State Fault Refusal :=
  hostCmd { opcode := 0x0502, modes := inSvc, roles := roleLit,
            checks := fun _ p =>
              let n := fld p 2 2
              [fmt (decide (p.length < 8)), lenIs p (8 + 32 * n), zeroAt p 4 4,
               fmt ((List.range n).any fun i =>
                 let e := writtenEntry p i
                 rsvd e 3 1 || rsvd e 6 2 || rsvd e 16 16),
               rng (decide (n < 1 ∨ 127 < n ∨ 8192 < fld p 0 2 + n))] } dt slot
    (fun c p s =>
      let put := fun (m : Sparse (List Byte)) (i : Nat) => sset [] m (fld p 0 2 + i) (writtenEntry p i)
      okCmd c [] (withSlc (fun v => { v with staged := (List.range (fld p 2 2)).foldl put v.staged }) s)) s

/-- *Table — Entry commit result*. -/
def entryResult (fail entry config outcome committed deleted : Nat) : List Byte :=
  le 1 fail ++ zeros 1 ++ le 2 entry ++ le 2 config ++ le 2 outcome ++ le 2 committed ++ le 2 deleted

/-- Check 11: a staged index that is ARMED. -/
def armedStaged (s : State) : Option Nat :=
  (skeys s.slc.staged).find? fun n => decide ((sget {} s.slc.entries n : TEntry).used ∧ (sget {} s.slc.entries n : TEntry).state = .armed)

/-- A staged entry that check 1 refuses. -/
def stagedBad (e : List Byte) : Bool :=
  decide (bits (fld e 2 1) 6 1 ≠ 0) || (usedIn e && decide (63 < fld e 0 1 ∨ 15 < fld e 1 1 ∨ 100000000 < fld e 12 4))

/-- The staged entries that are to be in use. -/
def stagedUsed (s : State) : List (Nat × TEntry) := (s.slc.staged.filter fun e => usedIn e.2).map fun e => (e.1, tentryOf e.2)

/-- The first check of an entry commit that fails: FAILURE, ENTRY, CONFIG. Check 8 never fails: a batch names indices of the table. -/
def entryFails (s : State) : Option (Nat × Nat × Nat) :=
  let used := stagedUsed s
  ((armedStaged s).map fun n => (11, n, 0xFFFF)).or <|
  ((s.slc.staged.find? fun e => stagedBad e.2).map fun e => (1, e.1, 0xFFFF)).or <|
  ((used.find? fun e => decide (discOf s.fab.dom e.2.domain ≠ .tracked)).map fun e => (2, e.1, 0xFFFF)).or <|
  ((used.find? fun e => configBad s.fab e.2.domain e.2.config).map fun e => (3, e.1, e.2.config))

/-- The staged batch put in place of the committed entries that it names. -/
def placeStaged (s : State) : State :=
  forEach s.slc.staged s fun s e =>
    let old : TEntry := sget {} s.slc.entries e.1
    let s := if old.used then dropPrep true old.domain e.1 s else s
    modEntry e.1 (fun _ => if usedIn e.2 then tentryOf e.2 else {}) s

/-- A staged batch discarded. -/
def dropStaged (s : State) : State := withSlc (fun v => { v with staged := [] }) s

/-- A staged batch committed: the state and the commit result. The entries of trains with a record are given their firing instants. -/
def commitStaged (s : State) : State × List Byte :=
  let staged := s.slc.staged
  let used := (stagedUsed s).map (·.1)
  let gone := (staged.filter fun e => !usedIn e.2 && (sget {} s.slc.entries e.1 : TEntry).used).map (·.1)
  let s := dropStaged (placeStaged s)
  let s := forEach used s fun s n => mirror (.entry n (some (sget {} s.slc.entries n))) s
  let s := forEach gone s fun s n => mirror (.entry n none) s
  (forEach used s fun s n => schedule n s, entryResult 0 0xFFFF 0xFFFF 0 used.length gone.length)

/-- The configurations of a staged batch that are still to be routed for entries. -/
def unroutedOf (s : State) : List Nat :=
  (((stagedUsed s).map fun e => e.2.config).eraseDups).filter fun n => !(cfgOf s.fab n).entryRouted

/-- ENTRY_COMMIT, opcode 0x0503: answered at once where nothing is to be routed. -/
def execEntryCommit (dt slot : Nat) (s : State) : Host.Outcome State Fault Refusal :=
  hostCmd { opcode := 0x0503, modes := inSvc, roles := roleLit, checks := fun _ p => [lenIs p 4, zeroAt p 0 4] } dt slot
    (fun c _ s =>
      match entryFails s with
      | some (f, n, k) => finish c 0x0522 (entryResult f n k 0 0 0) (dropStaged s)
      | none =>
        if (unroutedOf s).isEmpty then let (s, r) := commitStaged s; okCmd c r s
        else if noDefer s then failCmd c 5 s
        else withSlc (fun v => { v with commitSlot := some slot }) (deferCmd c s)) s

/-- ENTRY_COMMIT_DONE: routing for the batch ends; each configuration is routed as if the batch were committed (R184). -/
def entryCommitDone (s : State) : State :=
  match s.slc.commitSlot, deferredCmd s 0x0503 with
  | some _, some c =>
    if fwLive s && commitTurn s c.acc (unroutedOf s) then
      let s := withSlc (fun v => { v with commitSlot := none }) s
      let (t, bad) := routeAll6 (unroutedOf s) (placeStaged s)
      match bad.map (fun f => (6, 0xFFFF, f.item, f.outcome)) |>.or ((armedStaged s).map fun n => (11, n, 0xFFFF, 0)) with
      | some (f, n, k, o) =>
        finish c 0x0522 (entryResult f n k o 0 0) (dropStaged (withFab (fun x => { x with routes := t.fab.routes }) s))
      | none =>
        let (s, r) := commitStaged { s with fab := t.fab }
        finish c 0 r s
    else s
  | _, _ => s

/-- ENTRY_COMMIT_DONE (R298). -/
def execEntryCommitDone (dt : Nat) (s : State) : Host.Outcome State Fault Refusal := live dt s entryCommitDone

/-- Entries FIRST to FIRST + COUNT - 1. -/
abbrev entryRange (p : List Byte) : List Nat := (List.range (fld p 2 2)).map (fld p 0 2 + ·)

/-- ENTRY_DELETE, opcode 0x0504. -/
def execEntryDelete (dt slot : Nat) (s : State) : Host.Outcome State Fault Refusal :=
  hostCmd { opcode := 0x0504, modes := inSvc, roles := roleLit,
            checks := fun s p =>
              [lenIs p 4, rng (decide (8192 < fld p 0 2 + fld p 2 2)),
               ((entryRange p).any fun n =>
                 decide ((sget {} s.slc.entries n : TEntry).used ∧ (sget {} s.slc.entries n : TEntry).state = .armed), 0x21)] }
    dt slot
    (fun c p s =>
      let s := forEach (entryRange p) s fun s n =>
        let e : TEntry := sget {} s.slc.entries n
        let s := withSlc (fun v => { v with staged := sset [] v.staged n [] }) s
        if e.used then mirror (.entry n none) (modEntry n (fun _ => {}) (dropPrep true e.domain n s)) else s
      okCmd c [] s) s

/-- ENTRY_READ, opcode 0x0505: an index not in use reads zeros. -/
def execEntryRead (dt slot : Nat) (s : State) : Host.Outcome State Fault Refusal :=
  hostCmd { opcode := 0x0505, modes := inRun,
            checks := fun _ p => [lenIs p 4, rng (decide (fld p 2 2 < 1 ∨ 127 < fld p 2 2 ∨ 8192 < fld p 0 2 + fld p 2 2))] } dt slot
    (fun c p s => okCmd c ((entryRange p).flatMap fun n => entryBytesOf (sget {} s.slc.entries n)) s) s

/-! ### Telegrams (R168 to R172) -/

/-- TELEGRAM, opcode 0x0506. -/
def execTelegram (dt slot : Nat) (s : State) : Host.Outcome State Fault Refusal :=
  hostCmd { opcode := 0x0506, modes := inRun, checks := fun _ p => [lenIs p 64] } dt slot
    (fun c p s =>
      let (code, s) := takeTelegram 2 s.tb.now p s
      okCmd c (le 1 code ++ zeros 3) s) s

/-- STALE dropped from trains that no longer meet R172. -/
def freshen (s : State) : State :=
  let trains := s.trk.trains.map fun e =>
    if e.2.stale && decide (s.tb.now < staleAt s e.2) then (e.1, { e.2 with stale := false }) else e
  withTrk (fun t => { t with trains := trains }) s

/-- TRACK_CFG, opcode 0x0507. -/
def execTrackCfg (dt slot : Nat) (s : State) : Host.Outcome State Fault Refusal :=
  hostCmd { opcode := 0x0507, modes := inRun,
            checks := fun _ p =>
              [lenIs p 12, zeroAt p 10 2, rng (decide (fld p 2 2 = 0 ∨ 511 < fld p 6 2 ∨ fld p 8 2 = 0))] } dt slot
    (fun c p s =>
      okCmd c [] (freshen (withTrk (fun t =>
        { t with udpPort := BitVec.ofNat 16 (fld p 0 2), ageMax := BitVec.ofNat 16 (fld p 2 2),
                 corridor := BitVec.ofNat 16 (fld p 4 2), unit := BitVec.ofNat 9 (fld p 6 2),
                 staleMs := BitVec.ofNat 16 (fld p 8 2) }) s))) s

/-- A management port. -/
def mgmtOf (s : State) (port : Nat) : Mgmt := if port = 0 then s.tb.p0 else s.tb.p1

/-- A management port changed; there are two. -/
def modMgmt (port : Nat) (f : Mgmt → Mgmt) (s : State) : State :=
  { s with tb := if port = 0 then { s.tb with p0 := f s.tb.p0 } else if port = 1 then { s.tb with p1 := f s.tb.p1 } else s.tb }

/-- A frame's tag is the one that a port receives (R414). -/
def vlanOk (m : Mgmt) (v : Option Nat) : Bool :=
  let id := m.vlan.toNat % 4096
  if id = 0 then v.isNone else decide (v = some id)

/-- A stamp taken at the PCS of a received frame, at the line (R163). -/
def lineStamp (m : Mgmt) (t : Time) : Time := t + m.ingLat.toNat * 4096

/-- A received frame that the port does not act on: counted and dropped (R414). -/
def otherFrame (port : Nat) (s : State) : State := modMgmt port (fun m => { m with other := satInc m.other }) s

/-- A frame that a management port receives: its link is up, the clock runs (R376), and the frame's tag and length are those of R414. -/
def receives (s : State) (port : Nat) (e : Envelope) : Bool :=
  let m := mgmtOf s port
  decide (port ≤ 1) && s.pwr.refclk && m.linkUp && vlanOk m e.vlan && decide (e.size ≤ 1522)

/-- A datagram arrives at a management port: a telegram where it is addressed to the unit (R168), else another frame. Telegrams are
processed in the order of their stamps: one that a sender queues behind its turn is none that the tracker can have (R170, log entry 95),
and in Safe the tracker's clock stands (R375). -/
def frameArrives (port : Nat) (stamp : Time) (f : Frame) (s : State) : State :=
  let m := mgmtOf s port
  if !receives s port f.env then s
  else if decide (s.trk.udpPort ≠ 0 ∧ f.udp = s.trk.udpPort.toNat) &&
      ((decide (m.addr ≠ 0) && decide (f.ip = m.addr)) || m.groups.contains f.ip) then
    (if slcClock s && inTurn s port (lineStamp m stamp) then (takeTelegram port (lineStamp m stamp) f.payload s).2 else s)
  else otherFrame port s

/-- TELEGRAM_RECEIVE (R168, R169). -/
def execTelegramReceive (dt port : Nat) (stamp : Time) (frame : Frame) (s : State) : Host.Outcome State Fault Refusal :=
  live dt s (frameArrives port stamp frame)

/-- TRAIN_STALE (R172). -/
def execTrainStale (train : Nat) (s : State) : Host.Outcome State Fault Refusal := live 0 s (trainStaleNow train)

end Sys2Proof.Machine
end

