-- ==== Sys2Proof/Machine/Grants.lean ====
section
/-! DEFINITION. Weir commands, group 0x06, the lanes of the Weir and of the Cladal link, and the Weir's own work (R208 to R231, R240,
R253, R300). -/

namespace Sys2Proof.Machine

/-! ### Register words -/

/-- WEIR_PORT_CFG[n]. -/
def portCfgWords (p : WPort) : List W32 :=
  [BitVec.ofNat 32 (p.lineRate.toNat * 2 ^ 14 + p.overhead.toNat), BitVec.ofNat 32 (p.glead.toNat * 65536 + p.guard.toNat),
   BitVec.ofNat 32 (p.shapeRate.toNat * 2 ^ 14), BitVec.ofNat 32 p.shapeBurst.toNat]

/-- WEIR_PORT_CNT[n]. -/
def portCntWords (p : WPort) : List W32 := [p.grants, BitVec.ofNat 32 (p.oversize.toNat * 65536 + p.dropped.toNat)]

/-- WEIR_Q[k]. -/
def queueWords (q : WQueue) : List W32 :=
  [BitVec.ofNat 32 (q.cir.toNat * 2 ^ 14 + flag q.aware * 256 + q.weight.toNat),
   BitVec.ofNat 32 (q.pir.toNat * 2 ^ 14 + q.yelMax.toNat), BitVec.ofNat 32 q.cbs.toNat, BitVec.ofNat 32 q.pbs.toNat]

/-- WEIR_LANE_STAT[L]. -/
def laneStatWord (l : Lane) : W32 :=
  BitVec.ofNat 32 (flag l.up * 2 ^ 31 + flag l.downSeen * 2 ^ 30 + l.bad.toNat * 256 + l.flushed.toNat)

/-- WEIR_CTRL. -/
def weirCtrlWord (s : State) : W32 := BitVec.ofNat 32 (flag (sluiceRuns s) * 2 ^ 31 + s.weir.laneEn.toNat)

/-- Words as bytes. -/
def wordBytes (l : List W32) : List Byte := l.flatMap fun w => le 4 w.toNat

/-! ### Commands (R300) -/

/-- A port's domain has a calendar running, waiting or suspended, and the unit is not in Dark. -/
def calHolds (s : State) (n : Nat) : Bool := decide (s.sys.mode ≠ .dark) && calLive (slcDom s (domOf s.fab n))

/-- WEIR_PORT, opcode 0x0600: the shaper goes on from its level. -/
def execWeirPort (dt slot : Nat) (s : State) : Host.Outcome State Fault Refusal :=
  hostCmd { opcode := 0x0600, modes := inRun,
            checks := fun s p =>
              let w0 := fld p 4 4
              let w1 := fld p 8 4
              let w2 := fld p 12 4
              let w3 := fld p 16 4
              [lenIs p 20, zeroAt p 2 2,
               fmt (decide (bits w0 13 6 ≠ 0 ∨ bits w1 15 10 ≠ 0 ∨ bits w2 13 0 ≠ 0 ∨ bits w3 31 24 ≠ 0)),
               rng (decide (s.part.ports ≤ fld p 0 2)),
               rng (decide (200000 < bits w0 31 14 ∨ bits w1 31 16 < 1000 ∨ 40000 < bits w1 31 16 ∨ bits w0 31 14 < bits w2 31 14)),
               (calHolds s (fld p 0 2), 0x20)] } dt slot
    (fun c p s =>
      let t := s.tb.now
      let f := fun v : WPort =>
        { v with lineRate := BitVec.ofNat 18 (bits (fld p 4 4) 31 14), overhead := BitVec.ofNat 6 (fld p 4 4),
                 glead := BitVec.ofNat 16 (bits (fld p 8 4) 31 16), guard := BitVec.ofNat 10 (fld p 8 4),
                 shapeRate := BitVec.ofNat 18 (bits (fld p 12 4) 31 14), shapeBurst := BitVec.ofNat 24 (fld p 16 4),
                 level := v.levelNow t, levelAt := t }
      okCmd c [] (modWPort (fld p 0 2) f s)) s

/-- WEIR_QUEUE, opcode 0x0601: buckets go on from their levels, cut to the new sizes. -/
def execWeirQueue (dt slot : Nat) (s : State) : Host.Outcome State Fault Refusal :=
  hostCmd { opcode := 0x0601, modes := inRun,
            checks := fun s p =>
              let w0 := fld p 4 4
              let w1 := fld p 8 4
              let w2 := fld p 12 4
              let w3 := fld p 16 4
              [lenIs p 20, zeroAt p 2 2,
               fmt (decide (bits w0 13 9 ≠ 0 ∨ bits w1 13 6 ≠ 0 ∨ bits w2 31 24 ≠ 0 ∨ bits w3 31 24 ≠ 0)),
               rng (decide (8 * s.part.ports ≤ fld p 0 2)),
               rng (decide (bits w1 31 14 < bits w0 31 14 ∨ 200000 < bits w1 31 14 ∨ bits w0 7 0 = 0 ∨ 32 < bits w1 5 0 ∨ w2 = 0 ∨ w3 = 0))] }
    dt slot
    (fun c p s =>
      let t := s.tb.now
      let cbs := fld p 12 4
      let pbs := fld p 16 4
      let f := fun v : WQueue =>
        let v := v.filledAt t
        { v with cir := BitVec.ofNat 18 (bits (fld p 4 4) 31 14), aware := bit (fld p 4 4) 8, weight := BitVec.ofNat 8 (fld p 4 4),
                 pir := BitVec.ofNat 18 (bits (fld p 8 4) 31 14), yelMax := BitVec.ofNat 6 (fld p 8 4),
                 cbs := BitVec.ofNat 24 cbs, pbs := BitVec.ofNat 24 pbs,
                 tc := v.tc.map (min (cbs * byteUnits)), tp := v.tp.map (min (pbs * byteUnits)) }
      okCmd c [] (modWQueue (fld p 0 2) f s)) s

/-- WEIR_LANES, opcode 0x0602: a disabled lane is down. -/
def execWeirLanes (dt slot : Nat) (s : State) : Host.Outcome State Fault Refusal :=
  hostCmd { opcode := 0x0602, modes := inRun, checks := fun _ p => [lenIs p 4, zeroAt p 1 3] } dt slot
    (fun c p s =>
      let en : BitVec 8 := BitVec.ofNat 8 (fld p 0 1)
      let s := withWeir (fun w => { w with laneEn := en }) s
      okCmd c [] (forEach ((List.range 8).filter fun l => !en.getLsbD l) s fun s l => weirLaneDown l s)) s

/-- The counts that WEIR_READ returns, cleared. -/
def clearWeir (n : Nat) (s : State) : State :=
  let s := modWPort n (fun v => { v with grants := 0, oversize := 0, dropped := 0 }) s
  let s := modLane (laneOf s.part n) (fun l => { l with bad := 0, flushed := 0, downSeen := false }) s
  withWeir (fun w => { w with ignored := 0 }) s

/-- WEIR_READ, opcode 0x0603. -/
def execWeirRead (dt slot : Nat) (s : State) : Host.Outcome State Fault Refusal :=
  hostCmd { opcode := 0x0603, modes := inRun,
            checks := fun s p => [lenIs p 4, zeroAt p 2 2, rng (decide (s.part.ports ≤ fld p 0 2))] } dt slot
    (fun c p s =>
      let n := fld p 0 2
      let v := wportOf s n
      let r := wordBytes (portCfgWords v ++ portCntWords v ++ ((queuesOf n).flatMap fun k => queueWords (wqueueOf s k)) ++
        [laneStatWord (sget {} s.weir.lanes (laneOf s.part n)), weirCtrlWord s, s.weir.ignored])
      clearWeir n (okCmd c r s)) s

/-! ### Cladal lanes and link (R239, R240, R253) -/

/-- A change of the Cladal engine's registers. -/
def withCld (f : Cld → Cld) (s : State) : State := { s with cld := f s.cld }

/-- A Cladal lane changed. -/
def modCldLane (i : Nat) (f : Lane → Lane) (s : State) : State :=
  withCld (fun c => if i = 0 then { c with lane0 := f c.lane0 } else { c with lane1 := f c.lane1 }) s

/-- A Cladal lane. -/
def cldLane (s : State) (i : Nat) : Lane := if i = 0 then s.cld.lane0 else s.cld.lane1

/-- The link goes down: HB_LOST and its source, and on a Standby a stale mirror; without the reference clock the Cladal core stands still
(R376). -/
def linkFalls (s : State) : State :=
  if s.cld.linkUp && s.pwr.refclk then
    let s := withCld (fun c => { c with linkUp := false, hbLost := true, mirrorStale := c.mirrorStale || decide (s.sys.role = .standby) }) s
    raise 181 (ev 289 s)
  else s

/-- A Cladal lane goes down; with the last one the link does. -/
def cldLaneDown (i : Nat) (s : State) : State :=
  if i < 2 ∧ (cldLane s i).up then
    let s := modCldLane i (fun x => { x with up := false, downSeen := true }) s
    if cldCanSend s then s else linkFalls s
  else s

/-- A Cladal lane comes up. -/
def cldLaneUp (i : Nat) (s : State) : State :=
  if i < 2 ∧ s.cld.laneEn.getLsbD i ∧ s.pwr.refclk then modCldLane i (fun x => { x with up := true }) s else s

/-- LANE_UP (R210, R239). -/
def execLaneUp (dt : Nat) (lane : LaneId) (s : State) : Host.Outcome State Fault Refusal :=
  live dt s (match lane with
    | .weir l => weirLaneUp l
    | .cld i => cldLaneUp i)

/-- LANE_DOWN (R210, R227, R239). -/
def execLaneDown (dt : Nat) (lane : LaneId) (s : State) : Host.Outcome State Fault Refusal :=
  live dt s (match lane with
    | .weir l => weirLaneDown l
    | .cld i => cldLaneDown i)

/-! ### Messages and decisions -/

/-- WEIR_REQUEST (R217). -/
def execWeirRequest (dt lane : Nat) (msg : List Byte) (s : State) : Host.Outcome State Fault Refusal := live dt s (weirMessage lane msg)

/-- WEIR_DECISION (R223). -/
def execWeirDecision (dt port : Nat) (s : State) : Host.Outcome State Fault Refusal := live dt s (weirDecide port)

/-- TIME_MESSAGE_TX (R212). -/
def execTimeMessageTx (dt lane : Nat) (s : State) : Host.Outcome State Fault Refusal := live dt s (weirTime lane)

end Sys2Proof.Machine
end

