-- ==== Sys2Proof/Machine/Timing.lean ====
section
/-! DEFINITION. The timebase: time states, offset measurements and steps, PTP and 1PPS, the time commands of group 0x07, and the
management ports' other work (R151 to R165, R301, R414). -/

namespace Sys2Proof.Machine

/-- Changes of the timebase and of the servo. -/
def withTb (f : Tb → Tb) (s : State) : State := { s with tb := f s.tb }
def withServo (f : Servo → Servo) (s : State) : State := { s with servo := f s.servo }

/-! ### Device time set anew -/

/-- Instants kept in device time that stand for lengths of time, moved along when device time is set anew (log entry 37). -/
def shiftClock (delta : Int) (s : State) : State :=
  let sh := fun t : Time => ((t : Int) + delta).toNat
  let well := fun w : Well =>
    { w with frameAt := sh w.frameAt, wakeAt := w.wakeAt.map sh, injEnds := w.injEnds.map sh,
             result := w.result.map fun e => (e.1, { e.2 with start := sh e.2.start }),
             win := w.win.map fun e => (e.1, { e.2 with start := sh e.2.start }) }
  let jet := fun j : Jet => { j with test := { j.test with ends := j.test.ends.map sh } }
  let queues := s.weir.queue.map fun e => (e.1, { e.2 with filled := sh e.2.filled })
  let ports := s.weir.port.map fun e => (e.1, { e.2 with levelAt := sh e.2.levelAt })
  let groups := s.temp.groups.map fun e => (e.1, { e.2 with since := sh e.2.since })
  { s with
    pwr := { s.pwr with t0 := sh s.pwr.t0, watchdog := sh s.pwr.watchdog }
    sys := { s.sys with resetAt := s.sys.resetAt.map sh }
    jets := { s.jets with roundAt := sh s.jets.roundAt, regs := s.jets.regs.map fun e => (e.1, jet e.2) }
    wells := s.wells.map fun e => (e.1, well e.2)
    fab := { s.fab with lastFree := sh s.fab.lastFree, lastClose := s.fab.lastClose.map sh,
                           lateLoops := s.fab.lateLoops.map fun x => { x with tOpen := sh x.tOpen } }
    dike := { s.dike with fatalAt := s.dike.fatalAt.map sh, safeAt := s.dike.safeAt.map sh }
    servo := { s.servo with ppsFall := sh s.servo.ppsFall, disagreeAt := sh s.servo.disagreeAt }
    trk := { s.trk with last := s.trk.last.map fun x => (sh x.1, x.2) }
    slc := { s.slc with recheckAt := s.slc.recheckAt.map sh }
    weir := { s.weir with queue := queues, port := ports }
    mbx := { s.mbx with cmds := s.mbx.cmds.map fun c => { c with acc := sh c.acc } }
    pair := { s.pair with promo := s.pair.promo.map fun p => { p with tRec := sh p.tRec, tProm := sh p.tProm },
                          follows := s.pair.follows.map fun f => { f with receipt := sh f.receipt } }
    temp := { s.temp with groups := groups, history := s.temp.history.map fun e => (sh e.1, e.2) }
    plat := { s.plat with cycleAt := sh s.plat.cycleAt, lastEv := s.plat.lastEv.map fun e => (e.1, sh e.2),
                           events := s.plat.events.map fun e => (e.1, sh e.2),
                           acts := s.plat.acts.map fun e => (sh (e.1 * 65536) / 65536, e.2),
                           txns := s.plat.txns.map fun e => (sh (e.1 * 65536) / 65536, e.2),
                           tag := s.plat.tag.map fun t => { t with stamp := sh t.stamp } } }

/-- Device time set to an instant. -/
def setClock (t : Time) (s : State) : State :=
  freshen (withTb (fun b => { b with now := t }) (shiftClock ((t : Int) - s.tb.now) s))

/-! ### Time states (R155, R156) -/

/-- TIME notification (event 0 state change, 1 jump refused, 2 PPS disagreement, 3 step applied) of a command. -/
def notifyTimeOf (a : About) (event : Nat) (s : State) : State :=
  notifyAt s.tb.now 0xA a false (le 1 event ++ le 1 (timeCode s.tb.ts) ++ zeros 2 ++ le 4 s.tb.offset.toNat) s

/-- A TIME notification that names no command. -/
abbrev notifyTime (event : Nat) (s : State) : State := notifyTimeOf {} event s

/-- PPS_OUT held low where it may not pulse (R164). -/
def holdPps (s : State) : State :=
  if s.servo.ppsHigh && (!s.tb.ppsOutEn || decide (s.tb.ts = .free)) then
    emit (.pps false) (withServo (fun v => { v with ppsHigh := false }) s)
  else s

/-- A step that the timebase ordered itself is dropped; one ordered by TIME_STEP stays (R157). -/
def keepForced (v : Servo) : Servo := { v with step := v.step.filter fun x => x.2.isSome }

/-- The time state changes: its notification, which names the command that changed it (R276), its event and sources; SLEW and the counts of
measurements start afresh (R156, R158). -/
def setTsOf (about : About) (t : TimeState) (s : State) : State :=
  let old := s.tb.ts
  if t = old then s
  else
    let s := withTb (fun b => { b with ts := t, slew := b.slew && decide (t = .locked) }) s
    let s := withServo (fun v => { (if t = .acquiring then v else keepForced v) with above := 0, inRange := 0 }) s
    let s := holdPps (notifyTimeOf about 0 (ev 287 s))
    if t = .holdover then raise 184 s else if old = .holdover ∧ t = .free then raise 185 s else s

/-- A time state changed by no command. -/
abbrev setTs (t : TimeState) (s : State) : State := setTsOf {} t s

/-- A source is selected (R156). -/
def selectSourceOf (about : About) (s : State) : State :=
  if !s.tb.en then s
  else
    match s.tb.ts with
    | .free => setTsOf about .acquiring (withServo (fun v => { v with first := true }) s)
    | .holdover => setTsOf about .locked s
    | _ => s

/-- A source selected by no command. -/
abbrev selectSource (s : State) : State := selectSourceOf {} s

/-- The source is lost (R156). -/
def loseSource (s : State) : State :=
  match s.tb.ts with
  | .acquiring => setTs .free s
  | .locked => setTs .holdover s
  | _ => s

/-! ### Offset measurements (R157, R158) -/

/-- TB_OFFSET of an offset in units of 2^-16 ns: whole ns, saturating. -/
def offsetWord (off : Int) : W32 := BitVec.ofInt 32 (clampI (-(2 ^ 31 - 1)) (2 ^ 31 - 1) (quot off 65536))

/-- A step ordered for the next round boundary; with one already ordered, both take effect there. -/
def orderStep (delta : Int) (slot : Option Nat) (s : State) : State :=
  withServo (fun v =>
    let old : Int × Option Nat := v.step.getD (0, none)
    { v with step := some (old.1 + delta, slot.or old.2) }) s

/-- An offset measured in ACQUIRING. -/
def measureAcquiring (off : Int) (s : State) : State :=
  let big := decide (((ns s.tb.thr.toNat : Nat) : Int) < off.natAbs)
  let near := decide (off.natAbs ≤ ns 100)
  let again := big && decide (3 ≤ s.servo.above)
  let step := s.servo.first || again
  let n := if near then s.servo.inRange + 1 else 0
  let s := withServo (fun v => { v with first := false, inRange := n, above := if step || !big then 0 else v.above + 1 }) s
  let s := if step then orderStep (-off) none s else s
  if 16 ≤ n then setTs .locked s else s

/-- An offset measured in LOCKED. -/
def measureLocked (off : Int) (s : State) : State :=
  let big := decide (((ns s.tb.thr.toNat : Nat) : Int) < off.natAbs)
  if !big then withTb (fun b => { b with slew := false }) (withServo (fun v => { v with above := 0 }) s)
  else if s.tb.slew then s
  else if s.servo.above < 3 then
    withTb (fun b => { b with outliers := satInc b.outliers }) (withServo (fun v => { v with above := v.above + 1 }) s)
  else
    let s := withServo (fun v => { v with above := 0 }) s
    let s := withTb (fun b => { b with jumpRefused := true, slew := true }) s
    raise 186 (notifyTime 1 (ev 288 s))

/-- One offset measurement: device time minus source, in units of 2^-16 ns. -/
def measureOffset (off : Int) (s : State) : State :=
  let s := withTb (fun b => { b with offset := offsetWord off }) s
  match s.tb.ts with
  | .acquiring => measureAcquiring off s
  | .locked => measureLocked off s
  | _ => s

/-- TIME_STEP_APPLY: a step takes effect; a forced one clears SLEW and answers TIME_STEP, which the notification names (R158, R276,
R301). -/
def applyStep (s : State) : State :=
  match s.servo.step with
  | some (d, slot) =>
    if s.pwr.refclk then
      let a := aboutSlot s slot 0
      let s := setClock (((s.tb.now : Int) + d).toNat) (withServo (fun v => { v with step := none }) s)
      let s := match slot with
        | some k => finishSlot k 0 (timeBytes s.tb.now) (withTb (fun b => { b with slew := false }) s)
        | none => s
      notifyTimeOf a 3 s
    else s
  | none => s

/-! ### The best master clock algorithm (R161, R162; log entry 38) -/

/-- PTP runs on a port. -/
def ptpPort (s : State) (port : Nat) : Bool := if port = 0 then s.tb.p0En else if port = 1 then s.tb.p1En else false

/-- Data sets in the order in which the algorithm compares them: the profile's list, with the receiving port's localPriority, then the
sender's and the receiver's portIdentity. -/
def rankOf (profile : BitVec 2) (port localPrio : Nat) (f : Foreign) : List Nat :=
  (if profile = 0 then [f.prio1, f.clkClass, f.accuracy, f.variance, f.prio2, f.gm.toNat, f.steps]
   else if f.clkClass ≤ 127 then [f.clkClass, f.accuracy, f.variance, f.prio2, localPrio, f.steps]
   else [f.clkClass, f.accuracy, f.variance, f.prio2, localPrio, f.gm.toNat, f.steps]) ++ [f.clock.toNat, f.portNo, port + 1]

/-- A rank is less than another, by its first difference. -/
def rankLess : List Nat → List Nat → Bool
  | a :: s, b :: t => decide (a < b) || (decide (a = b) && rankLess s t)
  | [], _ :: _ => true
  | _, [] => false

/-- The foreign masters of the enabled ports, with their ports. -/
def foreigns (s : State) : List (Nat × Foreign) :=
  (if s.tb.p0En then s.tb.p0.foreign.map fun f => (0, f) else []) ++ (if s.tb.p1En then s.tb.p1.foreign.map fun f => (1, f) else [])

/-- The best of them. -/
def bestMaster (s : State) : Option (Nat × Foreign) :=
  let rank := fun (x : Nat × Foreign) => rankOf s.tb.profile x.1 (mgmtOf s x.1).localPrio x.2
  (foreigns s).foldl (fun (b : Option (Nat × Foreign)) x =>
    match b with
    | none => some x
    | some y => if rankLess (rank x) (rank y) then some x else b) none

/-- A data set's sender is that of another. -/
def sameMaster (a b : Foreign) : Bool := decide (a.clock = b.clock ∧ a.portNo = b.portNo)

/-- The parent chosen anew: a first one is a source selected; a change of parent leaves the time state (R162). -/
def chooseParentOf (about : About) (s : State) : State :=
  match if s.tb.en && decide (s.tb.src ≠ 2) then bestMaster s else none with
  | some (port, f) =>
    let same := match s.servo.master with
      | some m => sameMaster m f && (s.tb.parent == decide (port = 1))
      | none => false
    if same then withServo (fun v => { v with master := some f }) s
    else
      let had := s.servo.hasParent
      let s := withTb (fun b => { b with parent := decide (port = 1) }) s
      let s := withServo (fun v =>
        { v with master := some f, hasParent := true, lastSync := none, delayT3 := none, pathDelay := 0, ptpOff := none }) s
      if had then s else selectSourceOf about s
  | none =>
    let had := s.servo.hasParent
    let s := withServo (fun v => { v with master := none, hasParent := false, ptpOff := none }) s
    if had then loseSource s else s

/-- The parent chosen anew by no command. -/
abbrev chooseParent (s : State) : State := chooseParentOf {} s

/-! ### PTP messages (R161 to R163) -/

/-- The unit's clockIdentity (R162). -/
def clockId (s : State) : BitVec 64 := Config.clockIdentity s.pld.macBase

/-- A message is sent to the port: over UDP to its address or one of its groups (R301), over IEEE 802.3 to one of PTP's two multicast
addresses, of Annex E and of G.8275.1, or with the default profile to the port's own (log entry 129). -/
def ptpTo (s : State) (port : Nat) (m : PtpMsg) : Bool :=
  let g := mgmtOf s port
  match m.dst with
  | .udp a => (decide (g.addr ≠ 0) && decide (a = g.addr)) || g.groups.contains a
  | .ether a => decide (a = 0x011B19000000 ∨ a = 0x0180C200000E ∨ (s.tb.profile = 0 ∧ a = macOf s port))

/-- A message is one that the port's profile takes: domain, transport and log intervals. -/
def ptpTaken (s : State) (m : PtpMsg) : Bool :=
  let g := decide (s.tb.profile = 1)
  let between := fun (lo hi : Int) => decide (lo ≤ m.logInt ∧ m.logInt ≤ hi)
  decide (m.domain = s.tb.domain.toNat) && (match m.dst with
     | .udp _ => !g && !s.tb.transport
     | .ether _ => g || s.tb.transport) &&
    (match m.body with
     | .announce _ _ _ _ _ _ _ _ => if g then between (-3) (-3) else between (-3) 4
     | .sync _ _ _ => if g then between (-4) (-4) else between (-4) 1
     | _ => true)

/-- delayAsymmetry of a port. -/
def asymOf (s : State) (port : Nat) : Int := (mgmtOf s port).asym.toInt

/-- t2 - t1 is known: PTP's offset of device time, which the servo takes unless PPS gives the phase; PTP still decides the second of
the first measurement (R165). -/
def ptpOffset (port : Nat) (t21 : Int) (s : State) : State :=
  let off := t21 - s.servo.pathDelay - asymOf s port
  let s := withServo (fun v => { v with lastT12 := t21, ptpOff := some off }) s
  if s.tb.src = 0 ∨ s.servo.first then measureOffset off s else s

/-- A Sync of the parent, which counts as a source again after its Syncs had ceased. -/
def ptpSync (port : Nat) (stamp : Time) (m : PtpMsg) (two : Bool) (origin : Time) (corr : Int) (s : State) : State :=
  let s := withServo (fun v => { v with syncInt := m.logInt }) s
  let s := if s.servo.hasParent then s else selectSource (withServo (fun v => { v with hasParent := true }) s)
  let t2 := (stamp : Int) - corr
  if two then withServo (fun v => { v with lastSync := some (m.seqId, t2.toNat) }) s
  else ptpOffset port (t2 - origin) s

/-- An Announce: the data set of its sender at the port, and the parent chosen anew. A data set counts from the sender's first Announce,
whatever its stepsRemoved, and until that sender is the parent and times out (R156); of how long another's counts R161 says only that
the standards' algorithm decides it (PRESUMED, log entry 38). -/
def ptpAnnounce (port : Nat) (f : Foreign) (s : State) : State :=
  let put := fun g : Mgmt => { g with foreign := (g.foreign.filter fun x => !sameMaster x f) ++ [f] }
  chooseParent (withServo (fun v => { v with utc := f.utc }) (modMgmt port put s))

/-- A message from the parent, on the port that receives from it. -/
def fromParent (s : State) (port : Nat) (m : PtpMsg) : Bool :=
  (s.tb.parent == decide (port = 1)) &&
    (match s.servo.master with
     | some f => decide (f.clock = m.clock ∧ f.portNo = m.portNo)
     | none => false)

/-- A PTP message arrives at a management port: its frame must be one that the port receives; one that the port's PTP does not act on is
another frame (R414). -/
def ptpArrives (port : Nat) (stamp : Time) (e : Envelope) (m : PtpMsg) (s : State) : State :=
  let g := mgmtOf s port
  if !receives s port e then s
  else if !ptpPort s port || !ptpTo s port m then otherFrame port s
  else
    match m.body with
    | .management => withServo (fun v => { v with mgmtCount := satInc v.mgmtCount }) s
    | .other => otherFrame port s
    | body =>
      if !ptpTaken s m then otherFrame port s
      else if s.tb.src = 2 then withServo (fun v => { v with ptpCount := satInc v.ptpCount }) s
      else
        let t := lineStamp g stamp
        match body with
        | .announce p1 c a v p2 gm st utc => ptpAnnounce port ⟨m.clock, m.portNo, p1, c, a, v, p2, gm, st, utc⟩ s
        | .sync two origin corr => if fromParent s port m then ptpSync port t m two origin corr s else s
        | .followUp origin corr =>
          match s.servo.lastSync with
          | some (q, t2) =>
            if fromParent s port m && decide (q = m.seqId) then
              ptpOffset port ((t2 : Int) - corr - origin) (withServo (fun v => { v with lastSync := none }) s)
            else s
          | none => s
        | .delayResp recv corr int clock portNo =>
          match s.servo.delayT3 with
          | some (q, t3) =>
            if fromParent s port m && decide (q = m.seqId ∧ clock = clockId s ∧ portNo = port + 1) then
              let t43 := (recv : Int) - corr - t3
              let least := if s.tb.profile = 1 then -4 else max (-4) int
              withServo (fun v => { v with pathDelay := quot (v.lastT12 + t43) 2, delayT3 := none, delayInt := least }) s
            else s
          | none => s
        | _ => s

/-- The 802.1Q tag of the frames that a port sends: priority code point and VLAN ID, or none (R301, R414). -/
def tagOfPort (s : State) (port : Nat) : Option (BitVec 16) :=
  let v := (mgmtOf s port).vlan
  if v.toNat % 4096 = 0 then none else some (BitVec.ofNat 16 (bits v.toNat 14 12 * 8192 + v.toNat % 4096))

/-- A Delay_Req leaves the port that receives from the parent (R161), with that port's portIdentity (R162). -/
def sendDelayReq (stamp : Time) (s : State) : State :=
  if s.servo.hasParent && s.pwr.refclk then
    let port := flag s.tb.parent
    let t3 := stamp - (mgmtOf s port).egrLat.toNat * 4096
    let q := s.servo.delaySeq
    emit (.delayReq port (tagOfPort s port) (macOf s port) (clockId s) (port + 1) q)
      (withServo (fun v => { v with delayT3 := some (q, t3), delaySeq := (q + 1) % 65536 }) s)
  else s

/-- The Announce receipt timeout on the parent port: the parent's data set is dropped (R156, R162). -/
def announceLost (s : State) : State :=
  match s.servo.master with
  | some f => chooseParent (modMgmt (flag s.tb.parent) (fun g => { g with foreign := g.foreign.filter fun x => !sameMaster x f }) s)
  | none => s

/-- No Sync from the parent for four intervals (R156). -/
def syncLost (s : State) : State :=
  if s.servo.hasParent then loseSource (withServo (fun v => { v with hasParent := false, lastSync := none, ptpOff := none }) s) else s

/-! ### 1PPS (R164, R165) -/

/-- The departure of an instant from the nearest whole second; which of two equally near ones is log entry 9's free value. -/
def fromSecond (t : Time) : Int :=
  let r : Int := ((t % sec : Nat) : Int)
  if 2 * r < sec ∨ (2 * r = sec ∧ Config.roundUp r sec = false) then r else r - sec

/-- An edge of the second that follows another edge's. -/
def nextSecond (t t' : Time) : Bool := decide (sec < 2 * (t' - t) ∧ 2 * (t' - t) < 3 * sec)

/-- PTP and PPS compared, once a second, at the edge at `t`: the fourth of successive seconds of disagreement sets PPS_DISAGREE. -/
def comparePps (t : Time) (off : Int) (s : State) : State :=
  match s.servo.ptpOff with
  | some p =>
    if ns 500 < (p - off).natAbs then
      let n := if nextSecond s.servo.disagreeAt t then s.servo.disagree + 1 else 1
      let s := withServo (fun v => { v with disagree := n, disagreeAt := t }) s
      if 4 ≤ n ∧ !s.tb.ppsDisagree then notifyTime 2 (withTb (fun b => { b with ppsDisagree := true }) s) else s
    else withServo (fun v => { v with disagree := 0 }) s
  | none => withServo (fun v => { v with disagree := 0 }) s

/-- PPS_IN_EDGE (R165); without the reference clock there is nothing to stamp it (R376). -/
def ppsEdge (stamp : Time) (s : State) : State :=
  if !s.pwr.refclk then s else
  let t := ((stamp : Int) - (s.tb.ppsDelay.toNat * 4096 : Nat)).toNat
  let lost := s.servo.ppsLost
  let s := withServo (fun v => { v with ppsLost := false }) (withTb (fun b => { b with ppsSeen := true }) s)
  if s.tb.src = 1 then
    let s := if lost && s.servo.hasParent then selectSource s else s
    let off := fromSecond t
    let s := comparePps t off s
    if s.servo.first then s else measureOffset off s
  else if s.tb.src = 2 then
    if s.servo.todSet then
      let s := setClock (s.tb.now - t % sec) (withServo (fun v => { v with todSet := false }) s)
      selectSource s
    else if s.tb.ts = .holdover then measureOffset (fromSecond t) (selectSource s)
    else measureOffset (fromSecond t) s
  else s

/-- No edge for 2 s (R156). -/
def ppsGone (s : State) : State :=
  let s := withServo (fun v => { v with ppsLost := true, disagree := 0 }) (withTb (fun b => { b with ppsSeen := false }) s)
  if s.tb.src = 1 ∨ s.tb.src = 2 then loseSource s else s

/-- Device time passes a whole second (R164). -/
def secondPasses (s : State) : State :=
  if s.pwr.refclk then
    let s := ev 286 (reach ((s.tb.now / sec + 1) * sec) s)
    if s.tb.ppsOutEn && decide (s.tb.ts ≠ .free) then
      emit (.pps true) (withServo (fun v => { v with ppsHigh := true, ppsFall := s.tb.now + ns 100000000 }) s)
    else s
  else s

/-- PPS_OUT falls. -/
def ppsFalls (s : State) : State :=
  if s.servo.ppsHigh && s.pwr.refclk then
    emit (.pps false) (withServo (fun v => { v with ppsHigh := false }) (reach s.servo.ppsFall s))
  else s

/-! ### Time commands (R301) -/

/-- TB_CTRL. -/
def tbCtrlWord (b : Tb) : W32 :=
  BitVec.ofNat 32 (b.src.toNat * 2 ^ 30 + b.profile.toNat * 2 ^ 28 + flag b.transport * 2 ^ 27 + b.domain.toNat * 65536 +
    b.servoBw.toNat * 4096 + flag b.p1En * 128 + flag b.p0En * 64 + flag b.ppsOutEn * 32 + flag b.en)

/-- TB_STATUS. -/
def tbStatusWord (b : Tb) : W32 :=
  BitVec.ofNat 32 (b.outliers.toNat * 65536 + flag b.ppsSeen * 1024 + flag b.ppsDisagree * 512 + flag b.jumpRefused * 256 +
    flag b.parent * 16 + flag b.slew * 8 + timeCode b.ts)

/-- TB_CTRL written: the time state falls to FREE and the source is selected anew; with another domain, profile or transport no data
set counts any longer. Where TIME_SET wrote it, the notifications of the changes name that command (R276). -/
def writeTbCtrl (about : About) (w : Nat) (s : State) : State :=
  if BitVec.ofNat 32 w = tbCtrlWord s.tb then s
  else
    let old := s.tb
    let s := withTb (fun b =>
      { b with src := BitVec.ofNat 2 (bits w 31 30), profile := BitVec.ofNat 2 (bits w 29 28), transport := bit w 27,
               domain := BitVec.ofNat 8 (bits w 23 16), servoBw := BitVec.ofNat 4 (bits w 15 12), p1En := bit w 7, p0En := bit w 6,
               ppsOutEn := bit w 5, en := bit w 0 }) s
    let other := decide (s.tb.profile ≠ old.profile ∨ s.tb.transport ≠ old.transport ∨ s.tb.domain ≠ old.domain)
    let drop := fun g : Mgmt => if other then { g with foreign := [] } else g
    let s := modMgmt 0 drop (modMgmt 1 drop s)
    let s := withServo (fun v => { v with hasParent := false, master := none, lastSync := none, delayT3 := none, todSet := false,
                                          disagree := 0, ptpOff := none }) s
    holdPps (chooseParentOf about (setTsOf about .free s))

/-- A register image of TIME_SET at an offset with bits that are reserved set. -/
def imageRsvd (p : List Byte) (i off mask : Nat) : Bool := bit (fld p 0 1) i && decide (fld p off 4 &&& mask ≠ 0)

/-- A register of TIME_SET that its table refuses. -/
def timeRefused (p : List Byte) : Bool :=
  let m := fld p 0 1
  let c := fld p 4 4
  let d := bits c 23 16
  let v := fld p 12 4
  (bit m 0 && decide (bits c 31 30 = 3 ∨ 1 < bits c 29 28 ∨ 6 < bits c 15 12 ∨
    (if bits c 29 28 = 0 then 127 < d else d < 24 ∨ 43 < d))) ||
    (bit m 1 && decide (fld p 8 4 < 10 ∨ 1000000000 < fld p 8 4)) ||
    (bit m 2 && decide (bits v 31 26 < 1 ∨ 50 < bits v 31 26 ∨ bits v 16 0 < 1 ∨ 86400 < bits v 16 0))

/-- Unmarked fields of TIME_SET that are not 0. -/
def timeUnmarked (p : List Byte) : Bool :=
  let m := fld p 0 1
  [(0, 4, 4), (1, 8, 4), (2, 12, 4), (3, 16, 4), (4, 20, 8), (5, 28, 8)].any fun (x : Nat × Nat × Nat) => !bit m x.1 && rsvd p x.2.1 x.2.2

/-- TB_PORT_CAL[p] written. -/
def writePortCal (port : Nat) (p : List Byte) (off : Nat) (s : State) : State :=
  modMgmt port (fun g => { g with ingLat := BitVec.ofNat 16 (fld p off 2), egrLat := BitVec.ofNat 16 (fld p (off + 2) 2),
                                  asym := BitVec.ofNat 32 (fld p (off + 4) 4) }) s

/-- TIME_SET, opcode 0x0700. -/
def execTimeSet (dt slot : Nat) (s : State) : Host.Outcome State Fault Refusal :=
  hostCmd { opcode := 0x0700, modes := inRun,
            checks := fun _ p =>
              [lenIs p 36, fmt (decide (63 < fld p 0 1)), zeroAt p 1 3, fmt (timeUnmarked p),
               fmt (imageRsvd p 0 4 0x07000F1E || imageRsvd p 1 8 0xC0000000 || imageRsvd p 2 12 0x03FE0000 || imageRsvd p 3 16 0xFFFF0000),
               rng (timeRefused p)] } dt slot
    (fun c p s =>
      let m := fld p 0 1
      let s := if bit m 1 then withTb (fun b => { b with thr := BitVec.ofNat 30 (fld p 8 4) }) s else s
      let s := if bit m 2 then withTb (fun b =>
        { b with slewPpm := BitVec.ofNat 6 (bits (fld p 12 4) 31 26), holdLimit := BitVec.ofNat 17 (fld p 12 4) }) s else s
      let s := if bit m 3 then withTb (fun b => { b with ppsDelay := BitVec.ofNat 16 (fld p 16 4) }) s else s
      let s := if bit m 4 then writePortCal 0 p 20 s else s
      let s := if bit m 5 then writePortCal 1 p 28 s else s
      okCmd c [] (if bit m 0 then writeTbCtrl (aboutSlot s (some slot) 0) (fld p 4 4) s else s)) s

/-- TIME_READ, opcode 0x0701. -/
def execTimeRead (dt slot : Nat) (s : State) : Host.Outcome State Fault Refusal :=
  hostCmd { opcode := 0x0701, modes := inRun, checks := fun _ p => [lenIs p 0] } dt slot
    (fun c _ s =>
      let parent := match s.servo.master with
        | some f => le 8 f.clock.toNat ++ le 2 f.portNo ++ le 8 f.gm.toNat
        | none => zeros 18
      let r := le 4 (tbStatusWord s.tb).toNat ++ le 4 s.tb.offset.toNat ++ timeBytes s.tb.now ++ parent ++ le 2 s.servo.utc.toNat ++ zeros 8
      withTb (fun b => { b with outliers := 0, jumpRefused := false, ppsDisagree := false }) (okCmd c r s)) s

/-- SET_TOD, opcode 0x0702. -/
def execSetTod (dt slot : Nat) (s : State) : Host.Outcome State Fault Refusal :=
  hostCmd { opcode := 0x0702, modes := inRun,
            checks := fun s p =>
              [lenIs p 8, zeroAt p 6 2, rng (decide (s.tb.ts ≠ .free ∧ s.tb.ts ≠ .acquiring)), (decide (s.tb.src ≠ 2), 0x20)] } dt slot
    (fun c p s =>
      okCmd c [] (withServo (fun v => { v with todSet := true }) (setClock (fld p 0 6 * sec + s.tb.now % sec) s))) s

/-- TIME_STEP, opcode 0x0703: answered once the step is applied. -/
def execTimeStep (dt slot : Nat) (s : State) : Host.Outcome State Fault Refusal :=
  hostCmd { opcode := 0x0703, modes := onlyMode .dark,
            checks := fun _ p => [lenIs p 8, rng (decide (horizon < (sgn 64 (fld p 0 8)).natAbs))] } dt slot
    (fun c p s => orderStep (sgn 64 (fld p 0 8)) (some slot) (hold c s)) s

/-- TIME_STEP_APPLY (R157). -/
def execTimeStepApply (dt : Nat) (s : State) : Host.Outcome State Fault Refusal := live dt s applyStep

/-- NET_SET's MAC address, first transmitted byte first. -/
def macField (p : List Byte) (off : Nat) : BitVec 48 := BitVec.ofNat 48 (leNat (sub p off 6).reverse)

/-- NET_SET, opcode 0x0704. -/
def execNetSet (dt slot : Nat) (s : State) : Host.Outcome State Fault Refusal :=
  hostCmd { opcode := 0x0704, modes := inRun,
            checks := fun _ p =>
              let vlan := fld p 2 2
              [lenIs p 48, zeroAt p 9 1, fmt (bit vlan 15),
               rng (decide (1 < fld p 0 1 ∨ 8 < fld p 1 1 ∨ vlan % 4096 = 4095 ∨ fld p 8 1 < 1 ∨ 32 < fld p 8 1) || bit (fld p 10 1) 0)] } dt slot
    (fun c p s =>
      okCmd c [] (modMgmt (fld p 0 1) (fun g =>
        { g with addr := BitVec.ofNat 32 (fld p 4 4), prefixLen := BitVec.ofNat 8 (fld p 8 1), vlan := BitVec.ofNat 16 (fld p 2 2),
                 mac := macField p 10,
                 groups := (List.range (fld p 1 1)).map fun i => BitVec.ofNat 32 (fld p (16 + 4 * i) 4) }) s)) s

/-! ### Happenings of the timebase and the management ports -/

/-- PTP_MESSAGE_RX (R161). -/
def execPtpMessageRx (dt port : Nat) (stamp : Time) (env : Envelope) (msg : PtpMsg) (s : State) : Host.Outcome State Fault Refusal :=
  live dt s (ptpArrives port stamp env msg)

/-- DELAY_REQ_TX (R161). -/
def execDelayReqTx (dt : Nat) (stamp : Time) (s : State) : Host.Outcome State Fault Refusal := live dt s (sendDelayReq stamp)

/-- ANNOUNCE_TIMEOUT (R156). -/
def execAnnounceTimeout (dt : Nat) (s : State) : Host.Outcome State Fault Refusal := live dt s announceLost

/-- SYNC_TIMEOUT (R156). -/
def execSyncTimeout (dt : Nat) (s : State) : Host.Outcome State Fault Refusal := live dt s syncLost

/-- PPS_IN_EDGE (R165). -/
def execPpsInEdge (dt : Nat) (stamp : Time) (s : State) : Host.Outcome State Fault Refusal := live dt s (ppsEdge stamp)

/-- PPS_TIMEOUT (R156). -/
def execPpsTimeout (dt : Nat) (s : State) : Host.Outcome State Fault Refusal := live dt s ppsGone

/-- HOLDOVER_EXPIRY (R156). -/
def execHoldoverExpiry (dt : Nat) (s : State) : Host.Outcome State Fault Refusal :=
  live dt s fun s => if s.tb.ts = .holdover then setTs .free s else s

/-- SECOND_BOUNDARY (R164). -/
def execSecondBoundary (s : State) : Host.Outcome State Fault Refusal := live 0 s secondPasses

/-- PPS_OUT_END (R164). -/
def execPpsOutEnd (s : State) : Host.Outcome State Fault Refusal := live 0 s ppsFalls

/-- TB_NOW_READ: the first word's read latches all three (R151). -/
def execTbNowRead (dt : Nat) (s : State) : Host.Outcome State Fault Refusal :=
  live dt s fun s =>
    let b := timeBytes s.tb.now
    let w := [0, 4, 8].map fun i => BitVec.ofNat 32 (fld b i 4)
    emit (.latched w) (withTb (fun t => { t with latch := w }) s)

/-- ARP_REQUEST: answered for the port's address; a request for another one is another frame (R414). -/
def execArpRequest (dt port : Nat) (addr : BitVec 32) (env : Envelope) (s : State) : Host.Outcome State Fault Refusal :=
  live dt s fun s =>
    let g := mgmtOf s port
    if !receives s port env then s
    else if g.addr ≠ 0 ∧ g.addr = addr then emit (.arpReply port (tagOfPort s port) (macOf s port) addr) s
    else otherFrame port s

/-- MGMT_FRAME_OTHER (R414). -/
def execMgmtFrameOther (dt : Nat) (f : PortFrame) (s : State) : Host.Outcome State Fault Refusal :=
  live dt s fun s => if receives s f.port f.env then otherFrame f.port s else s

/-- MGMT_LINK_CHANGE: source 188 or 189 follows the loss (R311). -/
def execMgmtLinkChange (dt port : Nat) (up : Bool) (s : State) : Host.Outcome State Fault Refusal :=
  run dt s fun s =>
    let lost := (mgmtOf s port).linkUp && !up
    let s := modMgmt port (fun g => { g with linkUp := up }) s
    if s.sys.mode = .reset || decide (1 < port) then s
    else if lost then setLevel (188 + port) true s else if up then setLevel (188 + port) false s else s

end Sys2Proof.Machine
end

