-- ==== Sys2Proof/Machine/Mirror.lean ====
section
/-! DEFINITION. The Cladal link: heartbeats, mirror and follow messages, retransmission and Resync (R234, R239 to R247, R253 to R256,
R435). -/

namespace Sys2Proof.Machine

/-- A change of what the pair mechanism holds. -/
def withPair (f : PairSt → PairSt) (s : State) : State := { s with pair := f s.pair }

/-! ### Heartbeats (R240) -/

/-- The heartbeat that the unit sends now. -/
def heartbeatOf (s : State) : Heartbeat :=
  { mode := s.sys.mode, role := s.sys.role, eligible := eligible s.sys, stale := s.cld.mirrorStale, sideB := s.sys.sideB,
    timeOk := decide (s.tb.ts = .locked ∨ s.tb.ts = .holdover), follow := !s.pair.follows.isEmpty, split := s.cld.roleSplit,
    part := s.part, gap := s.jets.gap.toNat, rate := s.jets.rate.toNat, seqTx := s.cld.seqTx, seqAck := s.cld.seqAck }

/-- HEARTBEAT_TX: one on each lane that is up, while the link's clock runs (R376). Its count saturates as R9 says of every counter. -/
def sendHeartbeat (s : State) : State :=
  let m : CldMsg := .heartbeat s.cld.hbCount (heartbeatOf s)
  let lanes := (if s.cld.lane0.up then [0] else []) ++ (if s.cld.lane1.up then [1] else [])
  if !cldCanSend s then s else withCld (fun c => { c with hbCount := satInc c.hbCount }) (forEach lanes s fun s i => emitCld i m s)

/-- A retransmit request for what follows the last message applied (R241, R254). -/
def askAgain (s : State) : State := if cldCanSend s then sendOn (.retransmit (s.cld.seqAck + 1)) s else s

/-- MIRROR_STALE clears once everything that the Active unit has sent is applied (R254). -/
def caughtUp (s : State) : State :=
  if s.cld.mirrorStale && s.cld.linkUp && decide (s.cld.partner.role = .active ∧ s.cld.seqAck = s.cld.partner.seqTx) then
    withCld (fun c => { c with mirrorStale := false }) s
  else s

/-- Calendar banks in use of a domain: the active one, and the shadow bank while it waits. -/
def banksInUse (s : State) (d : Nat) : List ItemKey :=
  let v := slcDom s d
  (if (calActive v).isSome then [.calendar d v.abank] else []) ++ (if v.waiting then [.calendar d !v.abank] else [])

/-- `a` fires before `b`, by their next firings and then by number; one that nothing fires comes last (R255). -/
def firesBefore (s : State) (a b : Nat) : Bool :=
  match firesAt s a, firesAt s b with
  | some x, some y => decide (x < y ∨ (x = y ∧ a ≤ b))
  | some _, none => true
  | none, some _ => false
  | none, none => decide (a ≤ b)

/-- The items of a resync, in R255's order. -/
def resyncItems (s : State) : List ItemKey :=
  [.domains, .applied, .calPos] ++ (List.range 16).flatMap (banksInUse s) ++
    ((s.trk.trains.filter fun t => t.2.bound).map fun t => .train t.1) ++ ((committed s).map fun e => .entry e.1) ++
    (((s.fab.configs.filter fun e => e.2.valid).map (·.1)).mergeSort (firesBefore s)).map .config

/-- An item as it stands when it is sent (R255: what changes meanwhile is mirrored in sequence, so no item goes back behind it). -/
def itemOf (s : State) : ItemKey → Item
  | .domains => .domains s.fab.dom
  | .applied => .applied s.fab.conns (s.fab.seq - 1)
  | .calPos => .calPos (calPositions s)
  | .calendar d bank =>
    let v := slcDom s d
    let shadow := bank != v.abank
    calendarItem s d shadow (if shadow then v.waiting else (calActive v).isSome)
  | .train k => .train k (trainOf s k)
  | .entry n => let e : TEntry := sget {} s.slc.entries n; .entry n (if e.used then some e else none)
  | .config n => configItem s n

/-- The Active unit begins to send the resync items. -/
def startResync (s : State) : State := withPair (fun p => { p with resyncOut := resyncItems s, partnerResync := true }) s

/-- What an Active unit makes of its partner's heartbeat: a partner in Resync is served once (R255). -/
def serveResync (h : Heartbeat) (s : State) : State :=
  if h.role = .resync then (if s.pair.partnerResync then s else startResync s)
  else if s.pair.resyncOut.isEmpty && decide (h.seqAck = s.cld.seqTx) then withPair (fun p => { p with partnerResync := false }) s
  else s

/-- What the return of the link brings (R254). -/
def linkReturns (s : State) : State :=
  match s.sys.role with
  | .active => withPair (fun p => { p with partnerResync := false, resyncOut := [] }) s
  | .standby => if s.cld.resyncWait then s else askAgain s
  | .resync => if s.pair.resyncSeen then askAgain s else s
  | .solo => s

/-- A heartbeat heard (R234, R240): the settings are compared, and no role changes. -/
def hearHeartbeat (h : Heartbeat) (s : State) : State :=
  let rise := !s.cld.linkUp
  let set := decide (h.gap ≠ s.jets.gap.toNat ∨ h.rate ≠ s.jets.rate.toNat)
  let part := decide (h.part ≠ s.part)
  let s := withCld (fun c => { c with linkUp := true, partner := h, partnerSeen := true, settingMis := set, pairMis := part }) s
  let s := setLevel 183 (set || part) s
  let s := caughtUp (if rise then linkReturns s else s)
  if s.sys.role = .active then serveResync h s else s

/-! ### Messages received (R239) -/

/-- A message dropped and counted. -/
def dropCld (s : State) : State := withCld (fun c => { c with badMsg := satInc c.badMsg }) s

/-- A message of a type as it arrives on a lane: none is received on a lane that is down or without the link's clock (R376), and a bad
one is dropped (R239). A message of
another type is another row's. -/
def received (lane type : Nat) (m : List Byte) (f : State → State) (s : State) : State :=
  if !(cldLane s lane).up || !s.pwr.refclk then s
  else if cldBad m then dropCld s
  else if fld m 0 1 = type then f s
  else s

/-- The SEQ of a message. -/
def seqOf (m : List Byte) : W32 := BitVec.ofNat 32 (fld m 4 4)

/-- An item that a message is said to complete, where its ITEM is that item's (log entry 127). -/
def itemBad (m : List Byte) (item : Option Item) : Bool := item.any fun i => decide (itemCode i ≠ fld m 2 2)

/-! ### Sending (R241, R242) -/

/-- MIRROR_SEND: the next mirror item, else the next resync item. -/
def mirrorSend (s : State) : State :=
  if s.sys.role ≠ .active ∨ s.cld.pairMis ∨ !s.pwr.refclk then s
  else
    match s.pair.outbox, s.pair.resyncOut with
    | i :: t, _ => sendItem (fun q j => .mirror q j i) i (withPair (fun p => { p with outbox := t }) s)
    | [], k :: t =>
      let i := itemOf s k
      if s.cld.linkUp then sendItem (fun q j => .resync q j i) i (withPair (fun p => { p with resyncOut := t }) s) else s
    | [], [] => s

/-- The messages of the store from a sequence on, newest first. -/
def storedFrom (s : State) (first : W32) : List CldMsg :=
  s.pair.store.filter fun m => (storeSeq m).any fun q => decide ((s.cld.seqTx - q).toNat < (s.cld.seqTx + 1 - first).toNat)

/-- A retransmit request (R241): the messages from a sequence again, or the resync items where the store does not hold them all. -/
def resend (first : W32) (s : State) : State :=
  let n := (s.cld.seqTx + 1 - first).toNat
  let l := storedFrom s first
  if s.sys.role ≠ .active ∨ s.cld.pairMis ∨ !cldCanSend s ∨ n = 0 ∨ 2 ^ 31 ≤ n then s
  else if l.length = n then forEach l.reverse s fun s m => sendOn m s
  else startResync s

/-! ### Items applied (R242, R243, R251, R435) -/

/-- What is left of the follows newer than the last APPLIED item once one for reconfiguration `q` has come. -/
def newerThan (q : W32) (l : List Newer) : List Newer :=
  if l.any fun n => decide (n.reconf = q) then (l.dropWhile fun n => decide (n.reconf ≠ q)).drop 1 else l

/-- An APPLIED item: a follow without a target is settled by it, and a difference is caught up with. -/
def takeApplied (m : ConnMap) (q : W32) (s : State) : State :=
  catchUp (withPair (fun p =>
    { p with lastApplied := some (m, q), newer := newerThan q p.newer, own := 0,
             follows := p.follows.filter fun f => !(f.noTarget && decide (f.f.reconf = q)) }) s)

/-- A configuration as mirrored, without a route of the unit's own (R243), whose routes alone GEN counts (R182). -/
def unrouted (s : State) (n : Nat) (scope : BitVec 16) (ports : PortMap) (conn : ConnMap) : CfgRec :=
  { valid := true, reroute := true, scope := scope, gen := (cfgOf s.fab n).gen, conn := conn, ports := ports }

/-- A CONFIG item: the record is replaced or deleted. -/
def takeConfig (n : Nat) (scope : BitVec 16) (ports : PortMap) (conn : ConnMap) (deleted : Bool) (s : State) : State :=
  let s := withFab (fun f => { f with bgTried := f.bgTried.filter (· ≠ n) }) s
  if deleted then putRecord n { cfgOf s.fab n with valid := false } s else putRecord n (unrouted s n scope ports conn) s

/-- The whole number of a mirrored cycle, where the calendar in force is held: CYCLE_NO of a position that lies behind the window of device
time (R188, R242). -/
def SlcDom.lifted (t : Time) (v : SlcDom) (x : W32) : Nat :=
  match calOf v.active with
  | some c => liftCycle ((c.at t).1 + 1) x
  | none => x.toNat

/-- A CALENDAR item: a bank committed and waiting, a bank in force, a waiting bank withdrawn, or the calendar stopped. CYC_WRAP is dropped with
a commit. -/
def takeCalendar (d : Nat) (bank : Bool) (b : CalBank) (commit : Bool) (start : Time) (cycle : Nat) (s : State) : State :=
  modDom d (fun v =>
    let v := if bank then { v with bank1 := b } else { v with bank0 := b }
    let active := decide (bank = v.abank)
    if commit && active then
      { v with start := start, startCycle := cycle, firstCycle := cycle, cycle := v.lifted s.tb.now (BitVec.ofNat 32 v.cycle) }
    else if commit then
      { v with waiting := true, start := start, startCycle := cycle, cycWrap := false,
               state := if v.state = .running ∨ v.state = .suspended then v.state else .waiting }
    else if active then
      { v with waiting := false, resume := none, armedTo := none,
               state := if v.state = .running ∨ v.state = .suspended then .stopped else if v.state = .waiting then .none else v.state }
    else { v with waiting := false, state := if v.state = .waiting then .none else v.state }) s

/-- A calendar position as mirrored: a calendar that runs on the Active unit is suspended here (R194). Of one that began there unseen,
the connections last mirrored count as those of its start instant (R221, R230; log entry 127), and CYC_WRAP counts from its first cycle. -/
def takePosition (t : Time) (conns : ConnMap) (x : CalPos) (v : SlcDom) : SlcDom :=
  let runs := fun (c : CalState) => decide (c = .running ∨ c = .suspended)
  let begins := runs x.state && (decide (x.abank ≠ v.abank) || !runs v.state)
  let w := { v with abank := x.abank, cycle := if begins then v.startCycle else v.cycle }
  { w.goTo (w.lifted t x.cycle) x.entry with
           startConn := if begins then conns else v.startConn, unfired := v.unfired && !begins && decide (x.state ≠ .running),
           firstCycle := if x.abank ≠ v.abank ∧ v.waiting then v.startCycle else v.firstCycle,
           state := if x.state = .running then .suspended else x.state, follows := decide (x.state = .running),
           waiting := v.waiting && decide (x.abank = v.abank) && !decide (x.state = .none ∨ x.state = .stopped), resume := none }

/-- An ENTRIES item: an entry mirrored as ARMED whose follow has closed here already is FIRED (R251); one mirrored as FIRED needs no
report of this unit's. -/
def takeEntry (n : Nat) (e : Option TEntry) (s : State) : State :=
  let e := { e.getD {} with missed := false, lost := false }
  let s := modEntry n (fun _ => e) s
  let s := withPair (fun p => { p with selfFired := p.selfFired.filter fun x => x.1 ≠ n }) s
  if e.state = .armed then
    match (s.pair.newer.find? fun x => decide (some x.reconf = e.reconf)).bind (·.close) with
    | some (t, q) => fireFollowed n t q s
    | none => s
  else s

/-- An item applied (R242). -/
def applyItem (i : Item) (s : State) : State :=
  match i with
  | .domains m => setDomains m s
  | .applied m q => takeApplied m q s
  | .config n scope ports conn deleted => takeConfig n scope ports conn deleted s
  | .calendar d bank b commit start cycle => takeCalendar d bank b commit start cycle s
  | .calPos l => forEach (List.range 16) s fun s d => match l[d]? with
    | some x => modDom d (takePosition s.tb.now ((s.pair.lastApplied.map (·.1)).getD s.fab.conns) x) s
    | none => s
  | .entry n e => takeEntry n e s
  | .train k t => modTrain k (fun _ => { t with via := 3 }) s

/-! ### Following (R246) -/

/-- A follow received: armed at once from a routed record, sent to the route engine, or without a target. -/
def takeFollow (q : W32) (f : Follow) (s : State) : State :=
  let add := fun (p : PFollow) => withPair (fun x => { x with follows := x.follows ++ [p] })
  let route := fun (want : ConnMap) (scope : BitVec 16) (s : State) =>
    enqueueRoute { origin := .follow q f, want := want, scope := scope }
      (add { seq := q, f := f, receipt := s.tb.now, routing := true } s)
  if f.config = 0xFFFFFFFF then route f.map 0xFFFF s
  else
    let n := f.config.toNat
    let r := cfgOf s.fab n
    if !r.valid then
      withPair (fun p => { p with held := p.held ||| givenPorts s.fab f.domains })
        (add { seq := q, f := f, receipt := s.tb.now, noTarget := true } s)
    else if compatibleNow s n then
      countFired n (armFollow q f r.scope (applyTarget s (.follow q f) n f.tClose)
        (add { seq := q, f := f, receipt := s.tb.now } s))
    else route (wantedOf s.fab r) r.scope s

/-! ### Receiving in order (R241) -/

/-- The unit takes mirror messages: a lane is up, firmware runs in a mode of *run*, and the unit is Standby or in Resync with a partner
of its own part. -/
def hears (s : State) : Bool :=
  cldCanSend s && fwLive s && inRun s.sys.mode && !s.cld.pairMis && !s.cld.resyncWait &&
    decide (s.sys.role = .standby ∨ s.sys.role = .resync)

/-- A message in sequence takes effect; behind a gap it is asked for again. -/
def inOrder (q : W32) (f : State → State) (s : State) : State :=
  let d := (q - s.cld.seqAck).toNat
  if d = 1 then caughtUp (f (withCld (fun c => { c with seqAck := q }) s))
  else if d = 0 ∨ 2 ^ 31 ≤ d then s
  else askAgain s

/-- A mirror or follow message; in Resync none counts before the first resync item. -/
def hearMsg (q : W32) (f : State → State) (s : State) : State :=
  if hears s && (decide (s.sys.role = .standby) || s.pair.resyncSeen) then inOrder q f s else s

/-- What was mirrored before is dropped when a resync begins (R255). -/
def forgetMirrored (s : State) : State :=
  let clear := fun v : SlcDom => { v with bank0 := {}, bank1 := {}, state := .none, waiting := false, resume := none, armedTo := none }
  let s := withSlc (fun x => { x with dom := x.dom.map fun e => (e.1, clear e.2), entries := [], staged := [], prep := [], prepWait := [] }) s
  let s := withFab (fun f => { f with configs := [], cellPend := [], fired := [], bgTried := [] }) s
  withTrk (fun t => { t with trains := [] }) s

/-- An item, where the message completes one. -/
def applyPart (item : Option Item) (s : State) : State :=
  match item with
  | some i => applyItem i s
  | none => s

/-- A resync item (R241, R255). DOMAINS is a resync's first one and gives the sequence from which it counts: what was mirrored before is
dropped, and a Standby enters Resync. Any other counts in order behind it, and `final` tells that it is the last (log entry 128). -/
def hearResync (m : List Byte) (item : Option Item) (final : Bool) (s : State) : State :=
  let q := seqOf m
  if !hears s then s
  else if fld m 2 2 = 1 then
    if !mayPromote s.sys.mode then withCld (fun c => { c with resyncWait := true }) s
    else
      let s := forgetMirrored (if s.sys.role = .resync then s else enterResync s)
      let s := withPair (fun p => { p with resyncSeen := true, resyncDone := false }) (withCld (fun c => { c with seqAck := q }) s)
      applyPart item s
  else if s.sys.role = .standby ∨ s.pair.resyncSeen then
    inOrder q (fun s => withPair (fun p => { p with resyncDone := p.resyncDone || final }) (applyPart item s)) s
  else askAgain s

/-! ### Leaving Resync (R256) -/

/-- Every configuration that an entry due within 10 s names has a route. -/
def dueRouted (s : State) : Bool :=
  (namedConfigs s).all fun n =>
    !(firingTimes s n).any (dueSoon s.tb.now) || (let r := cfgOf s.fab n; decide (r.claim ≠ 0) || r.conn.isEmpty)

/-- A loop on an applied connection is still to be judged, or was late and has not settled since. -/
def lateApplied (s : State) : Bool :=
  let l := s.fab.conns.flatMap (loopsOn s.part s.fab.cells)
  (s.fab.lateLoops.any fun x => l.contains x.loop) || s.fab.recon.any fun r => r.todo.any l.contains

/-- The conditions of R256. -/
def resynced (s : State) : Bool :=
  decide (s.sys.role = .resync) && s.pair.resyncDone && !s.cld.pairMis && s.cld.linkUp &&
    decide (s.cld.seqAck = s.cld.partner.seqTx) && decide (s.pair.lastApplied.map (·.1) = some s.fab.conns) &&
    !lateApplied s && dueRouted s

/-- RESYNC_COMPLETE: Standby, and eligible from now on where the mode allows (R434). -/
def leaveResync (s : State) : State :=
  if resynced s && fwLive s then
    let s := withCld (fun c => { c with mirrorStale := false }) { s with sys := { s.sys with role := .standby } }
    if mayPromote s.sys.mode then becomeEligible s else s
  else s

/-! ### The rows -/

/-- HEARTBEAT_TX (R240). -/
def execHeartbeatTx (dt : Nat) (s : State) : Host.Outcome State Fault Refusal := live dt s sendHeartbeat

/-- HEARTBEAT_RX (R240). -/
def execHeartbeatRx (dt : Nat) (m : LaneMsg) (s : State) : Host.Outcome State Fault Refusal :=
  live dt s (received m.lane 1 m.bytes fun s => match heartbeatIn (m.bytes.drop 16) with
    | some h => hearHeartbeat h s
    | none => dropCld s)

/-- LINK_DOWN_TIMEOUT (R240, R253). -/
def execLinkDownTimeout (dt : Nat) (s : State) : Host.Outcome State Fault Refusal := live dt s linkFalls

/-- MIRROR_SEND (R242). -/
def execMirrorSend (dt : Nat) (s : State) : Host.Outcome State Fault Refusal := live dt s mirrorSend

/-- MIRROR_ITEM_RX (R242). -/
def execMirrorItemRx (dt : Nat) (m : LaneMsg) (item : Option Item) (s : State) : Host.Outcome State Fault Refusal :=
  live dt s (received m.lane 2 m.bytes fun s =>
    if itemBad m.bytes item then dropCld s else hearMsg (seqOf m.bytes) (applyPart item) s)

/-- FOLLOW_RX (R246). -/
def execFollowRx (dt lane : Nat) (msg : List Byte) (s : State) : Host.Outcome State Fault Refusal :=
  live dt s (received lane 3 msg fun s => match followIn (msg.drop 16) with
    | some f => hearMsg (seqOf msg) (fun s => ev 290 (takeFollow (seqOf msg) f s)) s
    | none => dropCld s)

/-- RETRANSMIT_REQUEST (R241). -/
def execRetransmitRequest (dt : Nat) (m : LaneMsg) (s : State) : Host.Outcome State Fault Refusal :=
  live dt s (received m.lane 4 m.bytes fun s => if fld m.bytes 1 1 = 0 then resend (seqOf m.bytes) s else dropCld s)

/-- RESYNC_ITEM_RX (R255). -/
def execResyncItemRx (dt : Nat) (m : LaneMsg) (p : ResyncPart) (s : State) : Host.Outcome State Fault Refusal :=
  live dt s (received m.lane 5 m.bytes fun s =>
    if itemBad m.bytes p.item then dropCld s else hearResync m.bytes p.item p.final s)

/-- RESYNC_COMPLETE (R256). -/
def execResyncComplete (dt : Nat) (s : State) : Host.Outcome State Fault Refusal := live dt s leaveResync

/-- CAL_POS_PERIODIC (R242). -/
def execCalPosPeriodic (dt : Nat) (s : State) : Host.Outcome State Fault Refusal := live dt s fun s => mirror (.calPos (calPositions s)) s

end Sys2Proof.Machine
end

