-- ==== Sys2Proof/Machine/Pair.lean ====
section
/-! DEFINITION. Pair commands, group 0x08, the role lines, promotion and the takeover report (R232 to R238, R248 to R252, R257, R259,
R302, R303, R431, R434). -/

namespace Sys2Proof.Machine

/-! ### Takeover (R249 to R252) -/

/-- A promotion begins at t_rec. -/
def startPromotion (tRec : Time) (slot : Option Nat) (s : State) : State :=
  withPair (fun p => { p with promo := some { tRec := tRec, tProm := tRec + bbm s, slot := slot } }) s

/-- Egress ports that reconfigurations of the unit's own hold back at t_prom: those armed or running with T_open after it. -/
def busyPorts (f : Fab) (t : Time) : PortMap :=
  f.recon.foldl (fun m r =>
    if decide (r.phase = .armed ∨ r.phase = .closed ∨ r.phase = .dark) && decide (t < tOpenOf r.tClose r.gap) then
      m ||| r.closure ||| r.opening else m) 0

/-- Egress ports of the connections that pending follows not yet armed will affect. -/
def comingPorts (s : State) : PortMap :=
  (s.pair.follows.filter fun p => p.armed.isNone && !p.noTarget).foldl (fun m p => m ||| changedPorts (effConns s.fab) (followWant s p)) 0

/-- The open set (R250); an insertion of the unit's own keeps no port from it (R338). -/
def openSetOf (s : State) (t : Time) : PortMap := wholePorts s &&& ~~~(s.pair.held ||| busyPorts s.fab t ||| comingPorts s)

/-- *Table — Takeover report*. -/
def takeoverBytes (s : State) (p : Promo) (openSet : PortMap) : List Byte :=
  timeBytes p.tRec ++ timeBytes p.tProm ++ le 2 ((p.tProm - p.tRec) / 65536) ++
    le 1 (flag s.cld.mirrorStale + flag (!s.pair.follows.isEmpty) * 2 + flag (decide (s.pair.held ≠ 0)) * 4 + flag p.slot.isSome * 8) ++
    zeros 1 ++ le 4 s.cld.seqAck.toNat ++ le 32 (egrPorts s.fab.conns &&& ~~~openSet).toNat

/-- Tracked entries at a promotion (R251): scheduled ones recomputed; those mirrored as ARMED whose follow never came are marked, so that they
are armed at once as overtaken; those that this unit fired itself are reported. A follow that gave no target, or whose route was rejected,
carries its entry to no T_close of this unit: it counts as not received (DESIGN CHOICE, log entry 129). -/
def takeOverEntries (s : State) : State :=
  let came := fun q : Option W32 => s.pair.newer.any (fun n => decide (some n.reconf = q)) ||
    s.pair.follows.any fun p => !p.noTarget && decide (some p.f.reconf = q)
  let lost := (committed s).filter fun e => decide (e.2.state = .armed) && !came e.2.reconf
  let s := forEach ((committed s).filter fun e => decide (e.2.state = .pending ∨ e.2.state = .scheduled)) s fun s e => schedule e.1 s
  let s := forEach lost s fun s e => modEntry e.1 (fun x => { x with lost := true }) (setEntryState e.1 .scheduled s)
  let fired := s.pair.selfFired
  forEach fired (withPair (fun p => { p with selfFired := [] }) s) fun s x => postFollowed x.1 x.2.1 x.2.2 s

/-- What the unit does at t_prom: the role, the open set, the report to come, the tracked entries, and the catch-up. Without a partner
present it becomes Solo. -/
def takeOver (p : Promo) (s : State) : State :=
  let openSet := openSetOf s p.tProm
  let report := takeoverBytes s p openSet
  let s := { s with sys := { s.sys with role := if s.cld.present then .active else .solo } }
  let s := openValves openSet s
  let s := withCld (fun c => { c with staleTakeover := c.staleTakeover || c.mirrorStale, mirrorStale := false }) s
  let s := withPair (fun x =>
    { x with promo := none, takeover := if p.report then some (p.slot, report) else x.takeover, outbox := [], resyncOut := [],
             partnerResync := false, follows := x.follows.filter fun f => !f.noTarget }) s
  let s := takeOverEntries s
  if s.pair.follows.isEmpty then catchUp s else s

/-- PROMOTION (R249): abandoned where the unit is no longer eligible or ROLE_IN is asserted. -/
def promote (s : State) : State :=
  match s.pair.promo with
  | some p =>
    let s := reach p.tProm s
    if eligible s.sys && !roleIn s then takeOver p s else abandonPromotion s
  | none => s

/-- TAKEOVER_REPORT (R252, R302). -/
def reportTakeover (s : State) : State :=
  match if fwLive s then s.pair.takeover else none with
  | some (slot, b) =>
    let s := notifyAt s.tb.now 4 (aboutSlot s slot 0) false b (withPair (fun p => { p with takeover := none }) s)
    match slot with
    | some k => finishSlot k 0 b s
    | none => s
  | none => s

/-! ### Role lines (R236 to R238) -/

/-- ROLE_IN rises: a Standby whose partner is present enters Resync, at once or at its next entry into Operate or Degraded. -/
def partnerAsserts (s : State) : State :=
  let s := withCld (fun c => { c with asserted := true }) s
  if s.sys.role = .standby && s.cld.present then
    if mayPromote s.sys.mode then enterResync s else withCld (fun c => { c with resyncWait := true }) s
  else s

/-- ROLE_IN_CHANGE: in Reset only the levels change. -/
def roleInChange (a b : Bool) (s : State) : State :=
  let s := withCld (fun c => { c with roleInA := a, roleInB := b }) s
  if s.sys.mode ≠ .reset && (a || b) then
    let s := abandonPromotion s
    if s.cld.asserted then s else partnerAsserts s
  else s

/-- ROLE_IN_RELEASED: both wires have been low for 200 ns; an eligible Standby that has seen them asserted takes over (R249). -/
def roleInReleased (s : State) : State :=
  if s.cld.asserted && !s.cld.roleInA && !s.cld.roleInB then
    let s := withCld (fun c => { c with asserted := false }) s
    if eligible s.sys && s.cld.armedBy && s.pair.promo.isNone then startPromotion s.tb.now none s else s
  else s

/-- ROLE_SPLIT (R236). -/
def roleSplits (s : State) : State :=
  if s.cld.roleInA != s.cld.roleInB then raise 179 (withCld (fun c => { c with roleSplit := true }) s) else s

/-- PRESENT_IN_CHANGE: a Solo unit whose partner appears becomes Active in service, else Standby (R237). In Reset only the level
changes. -/
def presentInChange (level : Bool) (s : State) : State :=
  let rise := level && !s.cld.present
  let s := withCld (fun c => { c with present := level }) s
  if s.sys.mode ≠ .reset && rise && decide (s.sys.role = .solo) then
    if inService s.sys.mode then { s with sys := { s.sys with role := .active } }
    else { s with sys := { s.sys with role := .standby } }
  else s

/-- PRESENT_FAULT (R237). -/
def presentFaulty (s : State) : State :=
  if !s.cld.present && roleIn s && decide (s.sys.role = .standby ∨ s.sys.role = .resync) then
    raise 179 (withCld (fun c => { c with presentFault := true }) s)
  else s

/-- DUAL_ACTIVE (R237, R238): side B gives way and comes back through Resync. -/
def dualActiveSeen (s : State) : State :=
  if s.sys.role = .active && roleIn s then
    let s := raise 182 (withCld (fun c => { c with dualActive := true }) s)
    if s.sys.sideB then
      let s := releaseRole s
      if mayPromote s.sys.mode then enterResync s else withCld (fun c => { c with resyncWait := true }) s
    else s
  else s

/-! ### Commands (R302, R303) -/

/-- CLD_CTRL written: a disabled lane goes down. -/
def setCldCtrl (gap : BitVec 12) (lanes : BitVec 2) (s : State) : State :=
  let s := withCld (fun c => { c with bbm := gap, laneEn := lanes }) s
  forEach (List.range 2) s fun s i => if lanes.getLsbD i then s else cldLaneDown i s

/-- PAIR_SET, opcode 0x0800. -/
def execPairSet (dt slot : Nat) (s : State) : Host.Outcome State Fault Refusal :=
  hostCmd { opcode := 0x0800, modes := inRun,
            checks := fun _ p => [lenIs p 4, zeroAt p 3 1, fmt (decide (3 < fld p 2 1)), rng (decide (fld p 0 2 < 1000 ∨ 2500 < fld p 0 2))] }
    dt slot (fun c p s => okCmd c [] (setCldCtrl (BitVec.ofNat 12 (fld p 0 2)) (BitVec.ofNat 2 (fld p 2 1)) s)) s

/-- W1C bits of CLD_STATUS cleared. -/
def clearCld (m : W32) (s : State) : State :=
  let keep := fun (i : Nat) (b : Bool) => b && !m.getLsbD i
  withCld (fun c =>
    { c with presentFault := keep 16 c.presentFault, staleTakeover := keep 14 c.staleTakeover, roleSplit := keep 13 c.roleSplit,
             dualActive := keep 12 c.dualActive, followFail := keep 9 c.followFail, hbLost := keep 8 c.hbLost }) s

/-- PAIR_READ, opcode 0x0801: before any heartbeat PARTNER is zeros. -/
def execPairRead (dt slot : Nat) (s : State) : Host.Outcome State Fault Refusal :=
  hostCmd { opcode := 0x0801, modes := inRun,
            checks := fun _ p => [lenIs p 4, fmt (decide (BitVec.ofNat 32 (fld p 0 4) &&& ~~~cldW1c ≠ 0))] } dt slot
    (fun c p s =>
      let r := wordBytes [cldStatusWord s, s.cld.seqTx, s.cld.seqAck, 0] ++
        (if s.cld.partnerSeen then heartbeatBytes s.cld.partner else zeros 16) ++ le 32 s.pair.held.toNat
      okCmd c r (clearCld (BitVec.ofNat 32 (fld p 0 4)) s)) s

/-- PROMOTE, opcode 0x0802: t_rec is the instant of acceptance; a promotion already in progress keeps its own. -/
def execPromote (dt slot : Nat) (s : State) : Host.Outcome State Fault Refusal :=
  hostCmd { opcode := 0x0802, modes := mayPromote, roles := fun r => decide (r = .standby),
            checks := fun s p => [lenIs p 4, zeroAt p 0 4, (!eligible s.sys, 0x20), (roleIn s, 0x21)] } dt slot
    (fun c _ s =>
      let s := if s.pair.promo.isSome then s else startPromotion c.acc none s
      hold c (withPair (fun p => { p with promo := p.promo.map fun x => { x with slot := some slot, report := true } }) s)) s

/-- REASON of a refused exchange (R303); none where it is accepted. -/
def exchangeRefused (s : State) (t : Time) : Option Nat :=
  let h := s.cld.partner
  if !s.cld.linkUp || decide (h.role ≠ .standby) || !h.eligible then some 1
  else if h.stale then some 2
  else if h.follow then some 3
  else if s.fab.recon.any fun r => decide (r.phase = .armed ∧ t ≤ r.tClose + ns 750 ∧ r.tClose < t + ns 3000) then some 4
  else none

/-- EXCHANGE, opcode 0x0803: the blackout is handed to the Weir at once (R259). -/
def execExchange (dt slot : Nat) (s : State) : Host.Outcome State Fault Refusal :=
  hostCmd { opcode := 0x0803, modes := inService, roles := fun r => decide (r = .active),
            checks := fun s p =>
              let t := timeOf p 0
              [lenIs p 16, zeroAt p 12 4, fmt (!timeOk p 0), rng (decide (t < s.tb.now + ns 100000 ∨ s.tb.now + 10 * sec < t)), (noDefer s, 5)] }
    dt slot
    (fun c p s =>
      let t := timeOf p 0
      match exchangeRefused s t with
      | some r => finish c 0x0822 (le 1 r ++ zeros 3) s
      | none =>
        let s := withWeir (fun w => { w with blackouts := w.blackouts ++ [⟨t, t + ns 3000, mapOf 256 (List.range s.part.ports)⟩] }) s
        deferCmd c (withPair (fun x => { x with exch := some ⟨t, slot⟩ }) s)) s

/-- EXCHANGE_RELEASE (R259): the command completes with the instant of the release. -/
def exchangeRelease (s : State) : State :=
  match if s.sys.role = .active then s.pair.exch else none with
  | some x =>
    let s := sendDue (withPair (fun p => { p with exch := none }) (reach x.tX s))
    let s := match deferredCmd s 0x0803 with
      | some c => finish c 0 (timeBytes s.tb.now) s
      | none => s
    releaseRole s
  | none => s

/-- EXCHANGE_RELEASE (R259). -/
def execExchangeRelease (s : State) : Host.Outcome State Fault Refusal := live 0 s exchangeRelease

/-! ### The rows -/

/-- ROLE_IN_CHANGE (R237). -/
def execRoleInChange (dt : Nat) (a b : Bool) (s : State) : Host.Outcome State Fault Refusal := run dt s (roleInChange a b)

/-- ROLE_IN_RELEASED (R236). -/
def execRoleInReleased (dt : Nat) (s : State) : Host.Outcome State Fault Refusal := live dt s roleInReleased

/-- ROLE_SPLIT (R236). -/
def execRoleSplit (dt : Nat) (s : State) : Host.Outcome State Fault Refusal := live dt s roleSplits

/-- PRESENT_IN_CHANGE (R237). -/
def execPresentInChange (dt : Nat) (level : Bool) (s : State) : Host.Outcome State Fault Refusal := run dt s (presentInChange level)

/-- PRESENT_FAULT (R237). -/
def execPresentFault (dt : Nat) (s : State) : Host.Outcome State Fault Refusal := live dt s presentFaulty

/-- DUAL_ACTIVE (R237). -/
def execDualActive (dt : Nat) (s : State) : Host.Outcome State Fault Refusal := live dt s dualActiveSeen

/-- PROMOTION (R249). -/
def execPromotion (s : State) : Host.Outcome State Fault Refusal := live 0 s promote

/-- TAKEOVER_REPORT (R252). -/
def execTakeoverReport (dt : Nat) (s : State) : Host.Outcome State Fault Refusal := live dt s reportTakeover

end Sys2Proof.Machine
end

