-- ==== Sys2Proof/Machine/Faults.lean ====
section
/-! DEFINITION. Fault commands, group 0x09, the Dike's configuration, clearing and injection, and what reaches its sources from outside
the model's other rows (R309 to R328, R304, R305). -/

namespace Sys2Proof.Machine

/-- A change of the Dike. -/
def withDike (f : Dike → Dike) (s : State) : State := { s with dike := f s.dike }

/-- Sources as a map of 24 bytes. -/
def sourceBytes (d : Dike) (f : Src → Bool) : List Byte := bitMap 24 fun n => f (src d n)

/-- FAULT_READ, opcode 0x0900. -/
def execFaultRead (dt slot : Nat) (s : State) : Host.Outcome State Fault Refusal :=
  hostCmd { opcode := 0x0900, modes := runOrSafe, checks := fun _ p => [lenIs p 0] } dt slot
    (fun c _ s =>
      okCmd c (sourceBytes s.dike (·.sticky) ++ sourceBytes s.dike (·.lasting) ++ le 4 (summaryWord s.dike).toNat ++ zeros 4) s) s

/-! ### Clearing (R325) -/

/-- A source that may be cleared: not one of the Dike's own, not absent, its input low and its class applied NOTE or MINOR. -/
def clearable (s : State) (n : Nat) : Bool :=
  let v := src s.dike n
  decide (3 < n ∧ n < 192) && !srcAbsent s.part n && !v.input && decide (classCode v.applied < 2)

/-- A source cleared: its settings stay. -/
def clearSource (n : Nat) (s : State) : State :=
  if clearable s n then
    withDike (fun d => setSrc d n { src d n with sticky := false, lasting := false, winOpen := false, count := 0, applied := srcClass n }) s
  else s

/-- FAULT_CLEAR, opcode 0x0901. -/
def execFaultClear (dt slot : Nat) (s : State) : Host.Outcome State Fault Refusal :=
  hostCmd { opcode := 0x0901, modes := inRun, checks := fun _ p => [lenIs p 24] } dt slot
    (fun c p s =>
      let s := forEach ((List.range 192).filter fun n => bit (fld p (n / 8) 1) (n % 8)) s fun s n => clearSource n s
      okCmd c (sourceBytes s.dike (·.sticky)) s) s

/-! ### Configuration (R316, R322, R328) -/

/-- A source's settings written: a change of WINDOW_MS or THRESHOLD closes the open window; unmasking a lasting source applies its
lasting class at once. -/
def configSource (n : Nat) (win : BitVec 16) (thresh : BitVec 8) (mask : Bool) (s : State) : State :=
  let v := src s.dike n
  let same := decide (v.winMs = win ∧ v.thresh = thresh)
  let bare := v.mask && !mask && v.lasting
  let s := withDike (fun d => setSrc d n { v with
    winMs := win, thresh := thresh, mask := mask, winOpen := v.winOpen && same, count := if same then v.count else 0,
    applied := if bare then maxClass v.applied (srcLasting n) else v.applied }) s
  if bare then react n (srcLasting n) s else s

/-- FAULT_CFG, opcode 0x0902. -/
def execFaultCfg (dt slot : Nat) (s : State) : Host.Outcome State Fault Refusal :=
  hostCmd { opcode := 0x0902, modes := inRun,
            checks := fun s p =>
              let n := fld p 0 1
              [lenIs p 8, fmt (decide (1 < fld p 1 1)), zeroAt p 5 3,
               rng (decide (192 ≤ n) || srcAbsent s.part n || decide (fld p 2 2 = 0 ∨ fld p 4 1 = 0)),
               (decide (n ≤ 3 ∨ (fld p 1 1 = 1 ∧ srcClass n ≠ .minor)), 0x20)] } dt slot
    (fun c p s =>
      okCmd c [] (configSource (fld p 0 1) (BitVec.ofNat 16 (fld p 2 2)) (BitVec.ofNat 8 (fld p 4 1)) (bit (fld p 1 1) 0) s)) s

/-! ### Injection (R326, R327) -/

/-- The unit can feed an injection to a checker: the Kolox 256 only in FACTORY. -/
def canInject (s : State) : Bool := decide (s.part ≠ .kx256 ∨ lcNow s = .factory)

/-- An injection of a number of checks starts, in place of one in progress, which ends; the Kolox 256 is in factory test mode until its
end, and the command in `slot`, if one asked, runs as long (R326, R327). -/
def startInjection (n count : BitVec 8) (slot : Option Nat) (s : State) : State :=
  withDike (fun d => { d with injSrc := n, injCount := count, injLeft := count.toNat, injSlot := slot, ftm := decide (s.part = .kx256) })
    (endInjection 0 s)

/-- FAULT_INJECT taken: answered at once, and on the Kolox 256 at the injection's end; over 100 forced errors, one a millisecond at the
most, outlast 100 ms, and the command is deferred (R273, R327; DEDUCED, log entry 117). -/
def beginInjection (c : SlotCmd) (n count : BitVec 8) (s : State) : State :=
  if s.part ≠ .kx256 then okCmd c [] (startInjection n count none s)
  else if 100 < count.toNat then deferCmd c (startInjection n count none s)
  else startInjection n count (some c.slot) (hold c s)

/-- FAULT_INJECT, opcode 0x0903. -/
def execFaultInject (dt slot : Nat) (s : State) : Host.Outcome State Fault Refusal :=
  hostCmd { opcode := 0x0903, modes := onlyMode .maintenance, lcBad := fun s _ => !canInject s,
            checks := fun s p =>
              let n := fld p 0 1
              [lenIs p 4, zeroAt p 2 2, rng (decide (192 ≤ n ∨ fld p 1 1 = 0) || srcAbsent s.part n), (!srcCheck n, 0x21),
               (decide (s.part = .kx256 ∧ 100 < fld p 1 1) && noDefer s, 5)] } dt slot
    (fun c p s => beginInjection c (BitVec.ofNat 8 (fld p 0 1)) (BitVec.ofNat 8 (fld p 1 1)) s) s

/-- DIKE_INJ written: a reserved SOURCE or COUNT makes the write ignored and answered with an error. Without the reference clock the matrix
carries no write (R376). -/
def writeInj (v : W32) (s : State) : State :=
  if !s.pwr.refclk then s else
  let n := v.extractLsb' 0 8
  let k := v.extractLsb' 8 8
  if !srcCheck n.toNat || srcAbsent s.part n.toNat || decide (k = 0) then emit .busError s
  else if v.getLsbD 31 && canInject s then startInjection n k none s
  else withDike (fun d => { d with injSrc := n, injCount := k }) s

/-- DIKE_INJ_GO (R326). -/
def execDikeInjGo (dt : Nat) (value : W32) (s : State) : Host.Outcome State Fault Refusal := live dt s (writeInj value)

/-! ### Occurrences and windows -/

/-- FAULT_OCCURRENCE (R309): a source's input rises. A check of an injection is one too: of the checkers that check at an access, and of
those that factory test mode forces, the moments are the sender's (R326, R327). -/
def faultOccurs (n : Nat) (holds : Bool) (s : State) : State := occur n holds (checkMade n s)

/-- Sources whose input follows a condition that the model itself holds. -/
def ownLevel (n : Nat) : Bool := [16, 17, 18, 19, 183, 188, 189].contains n

/-- FAULT_WINDOW_CLOSE (R313, R314): a source's window ends, and whether its input has stayed asserted is known. -/
def windowEnds (n : Nat) (stayed : Bool) (s : State) : State :=
  if srcAbsent s.part n || decide (192 ≤ n) then s
  else closeWindow n (if stayed || ownLevel n then s else setLevel n false s)

/-- FAULT_OCCURRENCE (R309). -/
def execFaultOccurrence (dt source : Nat) (holds : Bool) (s : State) : Host.Outcome State Fault Refusal :=
  live dt s (faultOccurs source holds)

/-- FAULT_WINDOW_CLOSE (R313). -/
def execFaultWindowClose (dt source : Nat) (stayed : Bool) (s : State) : Host.Outcome State Fault Refusal :=
  live dt s (windowEnds source stayed)

end Sys2Proof.Machine
end

