-- ==== Sys2Proof/Machine/Diagnostics.lean ====
section
/-! DEFINITION. Diagnostic commands of group 0x0A: capture, test injection and the performance monitor (R18, R87 to R89, R306, R307,
R367 to R371). TEMP_READ, TEMP_CFG and WEAR_READ stand with the temperatures and the wear. -/

namespace Sys2Proof.Machine

/-- A change of the platform. -/
def withPlat (f : Plat → Plat) (s : State) : State := { s with plat := f s.plat }

/-! ### Capture (R306) -/

/-- CAPTURE_START, opcode 0x0A00. -/
def execCaptureStart (dt slot : Nat) (s : State) : Host.Outcome State Fault Refusal :=
  hostCmd { opcode := 0x0A00, modes := onlyMode .maintenance,
            checks := fun s p =>
              let n := fld p 2 2
              [lenIs p 12, zeroAt p 10 2,
               rng (decide (n < 1 ∨ 2560 < n ∨ s.part.loops < fld p 0 2 + n ∨ fld p 4 2 = 0 ∨ 1 < fld p 6 1 ∨ 1 < fld p 7 1 ∨
                 fld p 8 2 < 1 ∨ 2048 < fld p 8 2)),
               (s.sys.throttle, 0x21)] } dt slot
    (fun c p s =>
      let trig := decide (fld p 6 1 = 1)
      let v : Capture :=
        { first := fld p 0 2, count := fld p 2 2, decim := fld p 4 2, trig := trig, wrapMode := decide (fld p 7 1 = 1),
          sizeMib := fld p 8 2, running := !trig, waiting := trig }
      okCmd c [] (withPlat (fun x => { x with capture := v }) s)) s

/-- CAPTURE_STOP, opcode 0x0A01. -/
def execCaptureStop (dt slot : Nat) (s : State) : Host.Outcome State Fault Refusal :=
  hostCmd { opcode := 0x0A01, modes := onlyMode .maintenance, checks := fun _ p => [lenIs p 4, zeroAt p 0 4] } dt slot
    (fun c _ s =>
      let s := stopCapture s
      let v := s.plat.capture
      okCmd c (le 8 (min (2 ^ 64 - 1) v.records) ++ le 4 (min 0xFFFFFFFF v.rounds) ++ le 1 (flag v.wrapped) ++ zeros 3) s) s

/-- CAPTURE_READ, opcode 0x0A02. -/
def execCaptureRead (dt slot : Nat) (s : State) : Host.Outcome State Fault Refusal :=
  hostCmd { opcode := 0x0A02, modes := runOrSafe,
            checks := fun _ p =>
              let n := fld p 8 4
              [lenIs p 12, rng (decide (fld p 0 8 % 16 ≠ 0 ∨ n % 16 ≠ 0 ∨ n < 16 ∨ 4064 < n))] } dt slot
    (fun c p s => okCmd c (mread s.plat.capture.mem (fld p 0 8) (fld p 8 4)) s) s

/-! ### Test injection (R87, R88, R307) -/

/-- The code at the ladder of a loop's element in use. -/
def codeAt (s : State) (l : Nat) : BitVec 16 :=
  if l < s.part.cells then (htrOf s (htrIdx l (loopOf s l).desc.htrB)).code
  else (portDacOf s (portIdx s.part l)).code.zeroExtend 16

/-- The well that delivers a loop's results. -/
def wellOfLoop (s : State) (l : Nat) : Nat := let j := jetOfLoop s.part l; (jetOf s j).wellSel.getD j

/-- A loop's tap channel: bar or cross of a cell, the one of a port element. -/
def tapChannel (s : State) (l tap : Nat) : Nat := let k := slotOfLoop s.part l; if k < 32 then 2 * k + tap else k + 32

/-- The end of a DURATION_US; none until stopped. -/
def endOf (s : State) (us : Nat) : Option Time := if us = 0 then none else some (s.tb.now + ns 1000 * us)

/-- A Fountain test generator started on a loop, in place of what its Jet's generator runs. The base code of a disabled loop is the
ladder's code at the start, and when the generator stops the ladder keeps the last sum written: R87 states neither (DESIGN CHOICE, log
entry 125). -/
def startTest (c : SlotCmd) (p : List Byte) (s : State) : State :=
  let l := fld p 2 2
  modJet (runnerOf s l) (fun j => { j with test :=
    { on := true, wave := fld p 1 1, loop := l, amp := BitVec.ofNat 12 (fld p 6 2), inc := BitVec.ofNat 24 (fld p 8 4),
      base := codeAt s l, slot := c.slot, seq := c.seq, ends := endOf s (fld p 12 4) } }) s

/-- A well's injection source connected to a loop's tap channel, in place of where it was: the channel is tainted as by a gain change. -/
def startCurrent (c : SlotCmd) (p : List Byte) (s : State) : State :=
  let l := fld p 2 2
  let ch := tapChannel s l (fld p 4 1)
  let ends := endOf s (fld p 12 4)
  modWell (wellOfLoop s l) (fun w =>
    let w := wellInjOff w
    { w with injOn := true, injChan := ch, injAmp := BitVec.ofNat 4 (fld p 6 2), injLoop := l, injSlot := c.slot, injSeq := c.seq,
             injEnds := ends, win := smod {} w.win ch fun x => { x with taint := 4 } }) s

/-- Both kinds of injection stopped where they run on a loop and a condition on their end holds. -/
def stopOn (l : Nat) (due : Option Time → Bool) (s : State) : State :=
  let jets := s.jets.regs.map fun e =>
    if e.2.test.on && decide (e.2.test.loop = l) && due e.2.test.ends then (e.1, { e.2 with test := { e.2.test with on := false } }) else e
  let wells := s.wells.map fun e => if e.2.injOn && decide (e.2.injLoop = l) && due e.2.injEnds then (e.1, wellInjOff e.2) else e
  { s with jets := { s.jets with regs := jets }, wells := wells }

/-- INJECT, opcode 0x0A03: a stop is not a test injection, and may name a live target. -/
def execInject (dt slot : Nat) (s : State) : Host.Outcome State Fault Refusal :=
  hostCmd { opcode := 0x0A03, modes := onlyMode .maintenance,
            checks := fun s p =>
              let kind := fld p 0 1
              let l := fld p 2 2
              let tapped := decide (kind = 1 ∧ l < s.part.cells)
              let timed := decide (kind = 0 ∧ fld p 1 1 ≤ 1)
              [lenIs p 16, zeroAt p 5 1, fmt (decide (kind ≠ 0 ∧ fld p 1 1 ≠ 0)), fmt (!tapped && decide (fld p 4 1 ≠ 0)),
               fmt (!timed && decide (fld p 8 4 ≠ 0)),
               rng (decide (2 < kind ∨ 3 < fld p 1 1 ∨ s.part.loops ≤ l ∨ 1 < fld p 4 1 ∨ 2 ^ 22 < fld p 8 4)),
               rng (decide ((kind = 0 ∧ 4095 < fld p 6 2) ∨ (kind = 1 ∧ 15 < fld p 6 2))),
               (decide (kind ≠ 2) && onPath s l, 0x20)] } dt slot
    (fun c p s =>
      okCmd c [] (if fld p 0 1 = 0 then startTest c p s else if fld p 0 1 = 1 then startCurrent c p s
        else stopOn (fld p 2 2) (fun _ => true) s)) s

/-- INJECTION_DURATION_END (R307). -/
def execInjectionDurationEnd (dt target : Nat) (s : State) : Host.Outcome State Fault Refusal :=
  live dt s fun s => stopOn target (fun e => match e with
    | some t => decide (t ≤ s.tb.now)
    | none => false) s

/-! ### Performance monitor (R367 to R371) -/

/-- A counter configured: WRAP clears, and a tag event's TAG_RATE becomes the rate of all. -/
def configPmon (k : Nat) (sel : List Byte) (s : State) : State :=
  let e := fld sel 0 2
  withPlat (fun x => { x with
    pmon := smod {} x.pmon k fun v => { v with select := sel, wrap := false }
    tagRate := if 0x0210 ≤ e ∧ e ≤ 0x0218 then BitVec.ofNat 4 (fld sel 4 1) else x.tagRate }) s

/-- PMON_SET, opcode 0x0A07. -/
def execPmonSet (dt slot : Nat) (s : State) : Host.Outcome State Fault Refusal :=
  hostCmd { opcode := 0x0A07, modes := inRun,
            checks := fun _ p =>
              [lenIs p 16, zeroAt p 2 2, zeroAt p 15 1, fmt (decide (fld p 1 1 = 0) && !selectOk (sub p 4 12)),
               rng (decide (63 < fld p 0 1 ∨ 4 < fld p 1 1))] }
    dt slot
    (fun c p s =>
      okCmd c [] (match fld p 1 1 with
        | 0 => configPmon (fld p 0 1) (sub p 4 12) s
        | 1 => pmonFreeze true s
        | 2 => pmonFreeze false s
        | 3 => pmonSnapshot s
        | _ => pmonClear s)) s

/-- PMON_READ, opcode 0x0A08. -/
def execPmonRead (dt slot : Nat) (s : State) : Host.Outcome State Fault Refusal :=
  hostCmd { opcode := 0x0A08, modes := runOrSafe,
            checks := fun _ p =>
              let n := fld p 1 1
              [lenIs p 4, zeroAt p 3 1, rng (decide (n < 1 ∨ 64 < n ∨ 64 < fld p 0 1 + n ∨ 1 < fld p 2 1))] } dt slot
    (fun c p s =>
      okCmd c ((List.range (fld p 1 1)).flatMap fun i =>
        let v : Pmon := sget {} s.plat.pmon (fld p 0 1 + i)
        if fld p 2 1 = 0 then le 6 v.value.toNat ++ le 1 (flag v.wrap) ++ zeros 1
        else le 6 v.snap.toNat ++ le 1 (flag v.snapWrap) ++ zeros 1) s) s

end Sys2Proof.Machine
end

