-- ==== Sys2Proof/Machine/Basin.lean ====
section
/-! DEFINITION. Words written into the Basin by a bus master (R372): the tables whose layout the spec gives change as their bytes do, and the
rest is held as bytes (log entry 39). -/

namespace Sys2Proof.Machine

/-- The contents of the Basin (*Table — Basin layout*, R372). -/
inductive BasinPart where
  | configs | calibration | calendars | tracked | tables | mirror | staging | working | capture
  deriving DecidableEq, Repr

/-- Each part's first offset in the Basin, and its size in bytes. -/
def basinLayout : List (BasinPart × Nat × Nat) :=
  [(.configs, 0, 0x08000000), (.calibration, 0x08000000, 0x01000000), (.calendars, 0x09000000, 0x00400000),
   (.tracked, 0x09400000, 0x00080000), (.tables, 0x09500000, 0x00010000), (.mirror, 0x0A000000, 0x00100000),
   (.staging, 0x0B000000, 0x00400000), (.working, 0x10000000, 0x70000000), (.capture, 0x80000000, 0x80000000)]

/-- The part of the Basin at an offset, with the offset in it. -/
def basinPart (off : Nat) : Option (BasinPart × Nat) :=
  (basinLayout.find? fun x => decide (x.2.1 ≤ off ∧ off < x.2.1 + x.2.2)).map fun x => (x.1, off - x.2.1)

/-- Bytes with the word at an offset replaced. -/
def putWord (b : List Byte) (off : Nat) (v : W32) : List Byte := b.take off ++ le 4 v.toNat ++ b.drop (off + 4)

/-! ### Stored configurations (R182) -/

/-- A disturbance report from its 80 bytes (*Table — Disturbance report*). -/
def disturbIn (b : List Byte) : Disturb :=
  { outcome := fld b 0 2, flips := fld b 2 2, moved := fld b 4 2, domains := BitVec.ofNat 16 (fld b 6 2),
    byDomain := (List.range 16).map fun k => fld b (8 + 2 * k) 2, movedMap := BitVec.ofNat 256 (fld b 40 32),
    blocker := BitVec.ofNat 32 (fld b 72 4), phase := fld b 76 2 }

/-- A record from its bytes (*Table — Stored configuration record*); NUMBER is its place. -/
def recordIn (p : Part) (b : List Byte) : CfgRec :=
  let map := sub b 128 512
  let status := fld b 6 1
  { valid := bit status 0, entryRouted := bit status 1, reroute := bit status 2, scope := BitVec.ofNat 16 (fld b 2 2),
    movedDom := BitVec.ofNat 16 (fld b 4 2), gen := BitVec.ofNat 32 (fld b 8 4), routedAt := timeOf b 12, report := disturbIn (sub b 24 80),
    ports := mapOf 256 ((List.range p.ports).filter fun n => mapEntry map n ≠ 0xFFFE), conn := mapConns map,
    claim := BitVec.ofNat 2048 (fld b 640 256), cells := BitVec.ofNat 2048 (fld b 896 256) }

/-- A word of a record's 2,048 bytes; the last 896 are reserved. -/
def writeConfigWord (n off : Nat) (v : W32) (s : State) : State :=
  if 1152 ≤ off then s
  else withFab (fun f => { f with configs := sset {} f.configs n (recordIn s.part (putWord (cfgBytes s n (cfgOf s.fab n)) off v)) }) s

/-! ### Calendar banks (R187) -/

/-- A word of a calendar bank: its header of 32 bytes, then 4,096 entries of 16 bytes. -/
def writeBankWord (off : Nat) (v : W32) (b : CalBank) : CalBank :=
  if off < 32 then { b with hdr := putWord (pad 32 b.hdr) off v }
  else if off < 32 + 16 * 4096 then
    { b with ents := smod (zeros 16) b.ents ((off - 32) / 16) fun e => putWord (pad 16 e) ((off - 32) % 16) v }
  else b

/-- A word of the banks: two a domain, of 128 KiB each. -/
def writeCalendarWord (off : Nat) (v : W32) (s : State) : State :=
  let i := off / 0x20000
  modDom (i / 2) (fun d =>
    if i % 2 = 1 then { d with bank1 := writeBankWord (off % 0x20000) v d.bank1 }
    else { d with bank0 := writeBankWord (off % 0x20000) v d.bank0 }) s

/-! ### Tracked entries (R196) -/

/-- An entry's live and written fields from its 32 bytes; a STATE that is not used leaves the state. -/
def tentryIn (b : List Byte) (e : TEntry) : TEntry :=
  let n := tentryOf b
  { e with
    used := usedIn b, train := n.train, domain := n.domain, sense := n.sense, config := n.config, pos := n.pos, lead := n.lead
    state := nth e.state [.pending, .scheduled, .armed, .fired, .skipped, .refused] (fld b 3 1)
    tFire := timeOf b 16, seqUsed := BitVec.ofNat 32 (fld b 28 4) }

/-- A word of the entries: 8,192 committed ones, then the staged ones. -/
def writeTrackedWord (off : Nat) (v : W32) (s : State) : State :=
  let n := off / 32 % 8192
  if off < 0x40000 then modEntry n (fun e => tentryIn (putWord (entryBytesOf e) (off % 32) v) e) s
  else withSlc (fun x => { x with staged := smod [] x.staged n fun e => putWord (pad 32 e) (off % 32) v }) s

/-! ### Cell conditions (R43) -/

/-- A word of the condition table: the bytes of four cells. -/
def writeCondWord (off : Nat) (v : W32) (s : State) : State :=
  forEach ([0, 1, 2, 3].filter fun k => decide (off + k < s.part.cells)) s fun s k =>
    withFab (fun f => { f with cond := sset 0 f.cond (off + k) (v.extractLsb' (8 * k) 3) }) s

/-! ### The Basin -/

/-- A word written over the bytes held at an offset. -/
def putBytes (m : Mem) (off : Nat) (v : W32) : Mem := mwrite m off (le 4 v.toNat)

/-- A word written at an offset of the Basin: the tables of known layout, the staging image and the capture region change, and the bytes of any
other part are held as they are (log entry 39). -/
def writeBasin (off : Nat) (v : W32) (s : State) : State :=
  let plain := { s with plat := { s.plat with basin := putBytes s.plat.basin off v } }
  match basinPart off with
  | some (.configs, k) => writeConfigWord (k / 0x800) (k % 0x800) v s
  | some (.calendars, k) => writeCalendarWord k v s
  | some (.tracked, k) => writeTrackedWord k v s
  | some (.tables, k) => if k < s.part.cells then writeCondWord k v s else plain
  | some (.staging, k) => { s with sec := { s.sec with staging := putBytes s.sec.staging k v } }
  | some (.capture, k) => { s with plat := { s.plat with capture := { s.plat.capture with mem := putBytes s.plat.capture.mem k v } } }
  | _ => plain

end Sys2Proof.Machine
end

