-- ==== Sys2Proof/Machine/Security.lean ====
section
/-! DEFINITION. Security and life-cycle commands, group 0x0B (R308, R378 to R384, R386 to R389). -/

namespace Sys2Proof.Machine

/-- A change of what the Polder's commands keep. -/
def withSec (f : Sec → Sec) (s : State) : State := { s with sec := f s.sec }

/-! ### Attestation (R308, R382 to R384) -/

/-- Indices that HSS can sign with. -/
abbrev sigLimit : Nat := 1048576

/-- Bytes of a signature. -/
abbrev sigLen : Nat := 5076

/-- *Table — Attestation statement*. -/
def statementBytes (s : State) (nonce : List Byte) (index : Nat) : List Byte :=
  nonce ++ digestBytes s.pld.fwDigest ++ digestBytes (digestNat (logBytes s.pld)) ++ timeBytes s.tb.now ++ le 8 s.pld.serial.toNat ++
    le 1 (lcCode (lcNow s)) ++ le 1 s.part.code ++ zeros 2 ++ le 4 index ++ zeros 4

/-- ATT_SEED and ATT_ID are written and not destroyed: the engines refuse a destroyed field (R378). -/
def attUsable (p : Pld) : Bool := usable p.attSeed && usable p.attId

/-- ATTEST, opcode 0x0B00: `otp.bad` OTP bits in succession fail to program, each of which is skipped, and where `otp.cut` holds a
Reset falls between programming and signing, which spends the index (R384). With no index left the signature budget is spent; with ATT_SEED
or ATT_ID not usable the command fails as in the states without ATTEST (log entry 15). -/
def execAttest (dt slot : Nat) (otp : OtpWrite) (s : State) : Host.Outcome State Fault Refusal :=
  hostCmd { opcode := 0x0B00, modes := inRun, lcBad := fun s _ => decide (lcNow s = .factory ∨ secretless (lcNow s) ∨ !attUsable s.pld),
            checks := fun s p => [lenIs p 32, (decide (sigLimit ≤ s.pld.attNext + otp.bad), 0x21)] } dt slot
    (fun c p s =>
      let i := s.pld.attNext + otp.bad
      let st := statementBytes s p i
      let s := withPld (fun v => { v with attNext := i + 1 }) s
      if otp.cut then softReset s
      else
        okCmd c (st ++ le 4 i ++ le 4 sigLen) (withSec (fun v => { v with sig := hssSign s.pld.attSeed s.pld.attId i st }) s)) s

/-- ATTEST_READ, opcode 0x0B01: before any signature the bytes are those of the wipe. -/
def execAttestRead (dt slot : Nat) (s : State) : Host.Outcome State Fault Refusal :=
  hostCmd { opcode := 0x0B01, modes := inRun,
            checks := fun _ p => [lenIs p 4, rng (decide (fld p 2 2 < 1 ∨ 4064 < fld p 2 2 ∨ sigLen < fld p 0 2 + fld p 2 2))] } dt slot
    (fun c p s => okCmd c (pad (fld p 2 2) (sub s.sec.sig (fld p 0 2) (fld p 2 2))) s) s

/-- MEASURE_READ, opcode 0x0B02. -/
def execMeasureRead (dt slot : Nat) (s : State) : Host.Outcome State Fault Refusal :=
  hostCmd { opcode := 0x0B02, modes := inRun, checks := fun _ p => [lenIs p 0] } dt slot
    (fun c _ s => okCmd c (le 1 s.pld.log.length ++ zeros 3 ++ logBytes s.pld) s) s

/-! ### Firmware (R308, R379, R381) -/

/-- Bytes of the staging image. -/
abbrev stagingSize : Nat := 0x400000

/-- FW_WRITE, opcode 0x0B03. -/
def execFwWrite (dt slot : Nat) (s : State) : Host.Outcome State Fault Refusal :=
  hostCmd { opcode := 0x0B03, modes := inSvc,
            checks := fun _ p =>
              let n := p.length - 8
              [fmt (decide (p.length < 24 ∨ n % 16 ≠ 0 ∨ 4064 < n)), zeroAt p 4 4,
               rng (decide (fld p 0 4 % 16 ≠ 0 ∨ stagingSize < fld p 0 4 + n))] } dt slot
    (fun c p s => okCmd c [] (withSec (fun v => { v with staging := mwrite v.staging (fld p 0 4) (p.drop 8) }) s)) s

/-- FW_ACTIVATE, opcode 0x0B04. -/
def execFwActivate (dt slot : Nat) (s : State) : Host.Outcome State Fault Refusal :=
  hostCmd { opcode := 0x0B04, modes := inSvc,
            checks := fun s p => [lenIs p 8, zeroAt p 4 4, rng (decide (stagingSize < fld p 0 4)), (noDefer s, 5)] } dt slot
    (fun c p s => withSec (fun v => { v with fwLen := fld p 0 4, fwSlot := some slot }) (deferCmd c s)) s

/-- FW_ACTIVATE_DONE: the first LENGTH bytes of the staged image are verified, written and read back as `back`, or, where that is none, as
they were written; a flash that reads back otherwise fails the command as an image that does not verify does (log entry 15). -/
def activateDone (back : Option (List Byte)) (s : State) : State :=
  match if fwLive s && s.sec.fwSlot.isSome then deferredCmd s 0x0B04 else none with
  | some c =>
    let b := mread s.sec.staging 0 s.sec.fwLen
    let s := withSec (fun v => { v with fwSlot := none }) s
    if imageOk s.part s.pld b then
      let (p, ok) := storeImage b (back.getD b) s.pld
      let s := withPld (fun _ => p) s
      if ok then finish c 0 [] s else failCmd c 0x20 s
    else failCmd c 0x20 s
  | none => s

/-- FW_ACTIVATE_DONE (R381). -/
def execFwActivateDone (dt : Nat) (back : Option (List Byte)) (s : State) : Host.Outcome State Fault Refusal :=
  live dt s (activateDone back)

/-! ### Life cycle (R386 to R389) -/

/-- The state that a TARGET names. -/
def lcTarget (n : Nat) : Option Lc :=
  match n with
  | 1 => some .factory
  | 2 => some .provisioned
  | 3 => some .deployed
  | 4 => some .returned
  | 5 => some .decommissioned
  | _ => none

/-- A transition that LC_TRANSITION makes (*Table — Life-cycle transitions*). -/
def lcMoves (s : State) (to_ : Lc) : Bool :=
  match lcNow s, to_ with
  | .factory, .provisioned => usable s.pld.calKey && usable s.pld.attSeed
  | .provisioned, .deployed | .deployed, .returned => true
  | .provisioned, .decommissioned | .deployed, .decommissioned | .returned, .decommissioned | .factory, .decommissioned => true
  | _, _ => false

/-- SERIAL followed by 24 equal bytes. -/
def serialAuth (s : State) (fill : Byte) (auth : List Byte) : Bool := decide (auth = le 8 s.pld.serial.toNat ++ List.replicate 24 fill)

/-- AUTH matches what the transition needs. -/
def authOk (s : State) (to_ : Lc) (auth : List Byte) : Bool :=
  match lcNow s, to_ with
  | .factory, _ => decide (digestNat auth = s.pld.facHash)
  | _, .deployed => serialAuth s 0 auth
  | _, .returned => decide (digestNat auth = s.pld.retHash)
  | _, _ => serialAuth s 0xFF auth

/-- LC_TRANSITION, opcode 0x0B05: the wear table is saved, OTP written, the response given, and a Reset follows (R389). -/
def execLcTransition (dt slot : Nat) (s : State) : Host.Outcome State Fault Refusal :=
  hostCmd { opcode := 0x0B05, modes := onlyMode .dark,
            lcBad := fun s p => match lcTarget (fld p 0 1) with
              | some t => !lcMoves s t
              | none => true,
            checks := fun s p =>
              [lenIs p 36, zeroAt p 1 3,
               (match lcTarget (fld p 0 1) with
                | some t => !authOk s t (sub p 4 32)
                | none => true, 0x22)] } dt slot
    (fun c p s =>
      let s := keepWear s
      let s := match lcTarget (fld p 0 1) with
        | some t => withPld (writeLc t) s
        | none => s
      orderReset (okCmd c [] s)) s

end Sys2Proof.Machine
end

