-- ==== Sys2Proof/Machine/Registers.lean ====
section
/-! DEFINITION. Writes to the internal registers that have no row of their own, and the bus matrix before them (R8, R352 to R358, R361). -/

namespace Sys2Proof.Machine

/-! ### Bus matrix (R352 to R357) -/

/-- Targets of the internal map (*Table — Internal address map*). -/
inductive BusTarget where
  | rom | sram | jets | wells | dacs | sluice | timebase | dike | router | pmon | basinRegs | clocks | hostPort | routeRegs | dmaRegs
  | qspiRegs | qspiWindow | polder | basin
  deriving DecidableEq, Repr

/-- The target at an address; none where it is unmapped, on this part. A block that the map gives no end is taken to reach to the next
16 MiB boundary (log entry 39). -/
def targetAt (p : Part) (a : Nat) : Option BusTarget :=
  let block := fun (lo size : Nat) => decide (lo ≤ a ∧ a < lo + size)
  let units := (p.jets + p.spares) * 0x10000
  let list : List (Bool × BusTarget) :=
    [(block 0 0x40000, .rom), (block 0x10000000 0x400000, .sram), (block 0x20000000 units, .jets), (block 0x30000000 units, .wells),
     (block 0x38000000 (8 * p.cells), .dacs), (block 0x38004000 (4 * p.ports), .dacs), (block 0x38004400 (4 * p.ports), .dacs),
     (block 0x38004800 (4 * p.cells), .dacs), (block 0x38006800 0x800, .dacs), (block 0x40000000 0x50000, .sluice),
     (block 0x50000000 0x2000, .timebase), (block 0x60000000 0x1000, .dike), (block 0x70000000 0x10000, .router),
     (block 0x70010000 0x1000, .pmon), (block 0x80000000 0x1000000, .basinRegs), (block 0x81000000 0x1000000, .clocks),
     (block 0x82000000 0x1000000, .hostPort), (block 0x83000000 0x1000000, .routeRegs), (block 0x84000000 0x1000000, .dmaRegs),
     (block 0x85000000 0x1000000, .qspiRegs), (block 0x90000000 0x10000000, .qspiWindow), (block 0xA0000000 0x1000000, .polder),
     (block 0x1000000000 0x100000000, .basin)]
  (list.find? (·.1)).map (·.2)

/-- A processor address after the swap of R357. -/
def swapped (remap : Bool) (a : Nat) : Nat :=
  if remap && decide (a / 0x10000000 < 2) then (1 - a / 0x10000000) * 0x10000000 + a % 0x10000000 else a

/-- *Table — Bus matrix connectivity*. -/
def reaches (m : Master) (t : BusTarget) (a : Nat) : Bool :=
  match m with
  | .cpu => true
  | .dma => [BusTarget.sram, .basin, .jets, .wells, .dacs, .qspiRegs, .qspiWindow].contains t
  | .capture => t == .basin
  | .cladal => [BusTarget.sram, .basin, .sluice, .timebase].contains t
  | .route => [BusTarget.sram, .basin].contains t
  | .host => t == .sram && decide (0x103F4000 ≤ a)

/-- The level of a transaction (R352), in the codes of SELECT: only the processor's are P0 or P1. -/
def levelOf (m : Master) (q : Priv) : Nat :=
  match m, q with
  | .cpu, .p1 => 2
  | .cpu, _ => 1
  | _, _ => 3

/-- Masters in the order of SELECT's bits. -/
def masterNo : Master → Nat
  | .cpu => 0
  | .dma => 1
  | .capture => 2
  | .cladal => 3
  | .route => 4
  | .host => 5

/-- The target that a write reaches; none: the default target answers it (R356). P1 reaches none of R352's targets, and not the Polder's boot ROM
(R377). -/
def reached (p : Part) (m : Master) (q : Priv) (a : Nat) : Option BusTarget :=
  match targetAt p a with
  | some t =>
    if reaches m t a && !(decide (levelOf m q = 2) && [BusTarget.polder, .dike, .router, .clocks, .rom].contains t) then some t else none
  | none => none

/-- The request in the route engine abandoned (R356): a host's command ends PREEMPTED, a follow or a catch-up fails as one that cannot be routed
(R246), and of any other request no route comes (DESIGN CHOICE, log entry 39). -/
def abandonRoute (s : State) : State :=
  match s.fab.active with
  | none => s
  | some r =>
    let s := withFab (fun f => { f with active := none }) s
    match r.req.origin with
    | .follow q _ =>
      let s := followFails r.conns s
      { s with pair := { s.pair with follows := s.pair.follows.filter fun x => x.seq ≠ q } }
    | .catchUp => followFails r.conns s
    | o => match o.slot? with
      | some k => tagDrop (tagOfSlot k) (failSlot k 6 s)
      | none => s

/-- What an error response does to its master (R356): a bus-error exception of the processor, a DMA channel ended with an error (which one is a
free value: no command says it), and for the other masters an operation abandoned, and their status: the capture ends, the mirror item that is
next to be sent is not sent, the engine's request is dropped; a host access is over with its answer (log entry 39). -/
def takeError (m : Master) (s : State) : State :=
  let note := fun s : State => { s with plat := { s.plat with busFail := setBit s.plat.busFail (masterNo m) true } }
  match m with
  | .cpu => { s with plat := { s.plat with busExc := true } }
  | .dma =>
    let (v, s) := draw s
    { s with plat := { s.plat with dmaRun := setBit s.plat.dmaRun (v % 16) false, dmaErr := setBit s.plat.dmaErr (v % 16) true } }
  | .capture => note (stopCapture s)
  | .cladal => note { s with pair := { s.pair with outbox := s.pair.outbox.drop 1 } }
  | .route => note (abandonRoute s)
  | .host => note s

/-- An error response to a transaction, counted as BUS_ERROR, and the Dike source that it raises. -/
def answerError (n : Nat) (m : Master) (q : Priv) (a : Nat) (write : Bool) (s : State) : State :=
  let x : Txn := { master := masterNo m, priv := levelOf m q, addr := a, write := write, err := true }
  raise n (countTxn 0x0203 x (takeError m (emit .busError s)))

/-- A read over the matrix (R356): what the target holds, or data 0 with an error response from the default target. No command reads a
register over the matrix; a BUS_TIMEOUT of a read answers as this does. -/
def busRead (m : Master) (q : Priv) (a : Nat) (held : W32) (s : State) : W32 × State :=
  match reached s.part m q a with
  | some _ => (held, s)
  | none => (0, answerError 8 m q a false s)

/-- The address at the matrix of a master's access (R357, R369). -/
def matrixAddr (s : State) (m : Master) (addr : Nat) : Nat := if m = .cpu then swapped s.plat.remap addr else addr

/-- A write that is ignored in full and answered with an error response. -/
abbrev badWrite (s : State) : State := emit .busError s

/-- A write that is ignored in full where it is bad. -/
abbrev unlessBad (bad : Bool) (s t : State) : State := if bad then badWrite s else t

/-! ### Jets (R92, R114, R121, R123, R124, R139) -/

/-- JET_CTRL: RATE is one setting for the device, for the next frame start, and firmware changes it only in Calibrate and Dark (R92);
TAKE_IDX and TAKE_EN are a spare's. -/
def writeJetCtrl (j : Nat) (v : W32) (s : State) : State :=
  let rate := v.extractLsb' 30 2
  let sel := (v.extractLsb' 8 8).toNat
  let may := decide (s.sys.mode = .calibrate ∨ s.sys.mode = .dark)
  let s := if !may || decide (rate = s.jets.newRate.getD s.jets.rate) then s else { s with jets := { s.jets with newRate := some rate } }
  let s := modJet j (fun x => { x with run := v.getLsbD 0 && decide (s.sys.mode ≠ .safe), wellSel := some sel }) s
  if j < s.part.jets || (jetOf s j).takeEn then s
  else
    let s := modJet j (fun x => { x with takeIdx := v.extractLsb' 20 4 }) s
    if v.getLsbD 19 then takeJet (16 * spareGroup s.part j + (v.extractLsb' 20 4).toNat) false s else s

/-- The bits of SETPT that its kind reserves. -/
def setptBad (k : Kind) (v : Nat) : Bool :=
  match k with
  | .cell => decide (v ≠ 0)
  | .valve => decide (bits v 15 14 ≠ 0 ∨ bits v 31 30 ≠ 0)
  | _ => false

/-- A neighbour that R124 rejects. -/
def foreignNb (p : Part) (n : Nat) : Bool := decide (n ≠ 0xFFFF ∧ p.loops ≤ n)

/-- A descriptor word that R124 rejects. -/
def descWordBad (p : Part) (kind : Kind) (k v : Nat) : Bool :=
  match k with
  | 0 => decide (3 < bits v 23 16 ∨ 15 < bits v 31 24)
  | 3 => decide (bits v 15 8 ≠ 0)
  | 9 => decide (2 ^ 24 ≤ v)
  | 10 => setptBad kind v
  | 11 => decide (bits v 15 0 = 0)
  | 12 | 13 | 14 | 15 => foreignNb p (bits v 15 0) || foreignNb p (bits v 31 16)
  | _ => false

/-- The kind of a code. -/
def kindIn (n : Nat) : Kind := nth .empty [.empty, .cell, .equaliser, .valve] n

/-- A descriptor word written to a disabled loop; LOOP is the slot's own. Of a cell in service HTR_SEL is the condition byte's, which no
descriptor write changes (R34; log entry 139). -/
def descWord (k v : Nat) (d : Desc) : Desc :=
  match k with
  | 0 => { d with kind := kindIn (bits v 23 16), nb := (List.range 8).map (nbAt d),
                  htrB := bit v 25, st := bit v 26, abank := bit v 27 }
  | 1 => { d with integ := BitVec.ofNat 32 v }
  | 2 => { d with base := BitVec.ofNat 40 (bits d.base.toNat 39 32 * 2 ^ 32 + v) }
  | 3 => { d with base := BitVec.ofNat 40 (bits v 7 0 * 2 ^ 32 + bits d.base.toNat 31 0), lastCode := BitVec.ofNat 16 (bits v 31 16) }
  | 4 => { d with iAcc := BitVec.ofNat 32 v }
  | 5 => { d with qAcc := BitVec.ofNat 32 v }
  | 6 => { d with con := BitVec.ofNat 32 v }
  | 7 => { d with drift := BitVec.ofNat 32 v }
  | 8 => { d with ff := BitVec.ofNat 32 v }
  | 12 | 13 | 14 | 15 =>
    { d with nb := (List.range 8).map fun i =>
        if i / 2 = k - 12 then BitVec.ofNat 16 (if i % 2 = 0 then bits v 15 0 else bits v 31 16) else nbAt d i }
  | _ => d

/-- The parameters that R123 lets change in a loop that runs: they wait for the next round start; a valve's BLOCK_CODE is its SAFE_CODE
too (R81). -/
def paramWord (j slot k v : Nat) (s : State) : State :=
  let s := modSlot j slot (fun x =>
    { x with setLight := if k = 9 then some (BitVec.ofNat 24 v) else x.setLight,
             setSetpt := if k = 10 then some (BitVec.ofNat 32 v) else x.setSetpt,
             setRamp := if k = 11 then some (BitVec.ofNat 16 v) else x.setRamp,
             setLock := if k = 11 then some (BitVec.ofNat 16 (bits v 31 16)) else x.setLock }) s
  match slotLoop s j slot with
  | some l =>
    if k = 10 && decide (kindOf s.part l = .valve) then
      modPortDac (portIdx s.part l) (fun d => { d with safeCode := BitVec.ofNat 14 (bits v 29 16) }) s
    else s
  | none => s

/-- EN written to a slot: the loop in service starts or stops, unless firmware may not enable it (R69) or disable it, as it may not a port
loop while the valves are powered (R111); of another slot EN is what the spare takes over. -/
def writeEn (j slot : Nat) (en : Bool) (s : State) : State :=
  match slotLoop s j slot with
  | some l => if en then startLoop l s else if s.part.cells ≤ l ∧ s.pwr.blocked then s else stopLoop l s
  | none => modSlot j slot (fun x => { x with desc := { x.desc with en := en } }) s

/-- A descriptor word (R123): words 1, 4 to 8 are live and a running loop maintains them; of its other words only EN may change. A KIND or
ABANK that would break the slot budget firmware does not write (R93, R124). LOOP is held of a slot that holds no loop in service. -/
def writeDesc (j slot k v : Nat) (s : State) : State :=
  let x := slotHolds s j slot
  let on := x.desc.en
  let kind := match slotLoop s j slot with
    | some l => kindOf s.part l
    | none => x.desc.kind
  let live := decide (k = 1 ∨ (4 ≤ k ∧ k ≤ 8))
  if descWordBad s.part kind k v then badWrite s
  else if decide (9 ≤ k ∧ k ≤ 11) then paramWord j slot k v s
  else if on && live then s
  else if on then (if k = 0 then (if bit v 24 then s else writeEn j slot false s) else badWrite s)
  else if k = 0 && decide (jetRoom s < slotCycles s j fun i x =>
      let y := if i = slot then { x with desc := descWord 0 v x.desc } else x
      (y.desc.kind, y.coming)) then s
  else
    let used := (slotLoop s j slot).isSome
    let s := modSlot j slot (fun x =>
      let d := descWord k v x.desc
      { x with desc := { d with htrB := if used then x.desc.htrB else d.htrB } }) s
    let s := if k = 0 && (slotLoop s j slot).isNone then
        { s with jets := { s.jets with rawLoop := sset 0 s.jets.rawLoop (64 * j + slot) (BitVec.ofNat 16 v) } } else s
    if k = 0 && bit v 24 then writeEn j slot true s else s

/-- A word of a coefficient bank: one that would break the slot budget firmware does not write (R93, R124). -/
def writeBank (j slot : Nat) (one : Bool) (k v : Nat) (s : State) : State :=
  let x := slotHolds s j slot
  let old := bankBytes (if one then x.bank1 else x.bank0)
  let new := old.take (4 * k) ++ le 4 v ++ old.drop (4 * k + 4)
  unlessBad (!bankOk new) s
    (if jetRoom s < slotCycles s j fun i x => (x.desc.kind, if i = slot then bankOf new else x.coming) then s
     else modSlot j slot (fun x => if one then { x with bank1 := bankOf new } else { x with bank0 := bankOf new }) s)

/-- The key of the Fountain slot of a Jet's slot. -/
def fntKey (s : State) (j k : Nat) : Nat := (slotLoop s j k).getD (spareFnt j k)

/-- The Fountain's registers of Jet j at an offset in its block: JET_FNT_CFG[l], JET_FNT_AMP[l] and JET_FNT_CAP; the spec gives the
block's place and not theirs in it (R83, R86; DESIGN CHOICE, log entry 118). -/
def writeFnt (j off : Nat) (v : W32) (s : State) : State :=
  let put := fun (k : Nat) (f : Fnt → Fnt) => { s with jets := { s.jets with fnt := smod {} s.jets.fnt (fntKey s j k) f } }
  if off < 160 then put (off / 4) fun f => { f with slot := v.extractLsb' 26 6, inc := v.extractLsb' 0 24 }
  else if 0x100 ≤ off ∧ off < 0x100 + 160 then
    put ((off - 0x100) / 4) fun f => { f with phRst := f.phRst || v.getLsbD 17, en := v.getLsbD 16, amp := v.extractLsb' 0 8 }
  else if off = 0x200 then modJet j (fun x => { x with cap := v.extractLsb' 0 8 }) s
  else s

/-- A register of Jet j. A write of one Jet's JET_SEQ_CFG changes the one GAP of the device: R139 has firmware set it in every Jet alike, and says
nothing of a write that leaves the others as they are (DESIGN CHOICE, log entry 140). -/
def writeJet (j off : Nat) (v : W32) (s : State) : State :=
  let n := v.toNat
  if off = 0 then unlessBad (decide (bits n 31 30 = 3)) s (writeJetCtrl j v s)
  else if off = 8 then
    unlessBad (decide (bits n 31 24 = 0 ∨ bits n 15 0 = 0)) s
      (modJet j (fun x => { x with limit := v.extractLsb' 24 8, win := v.extractLsb' 0 16 }) s)
  else if off = 0xC then swapWrite j false v s
  else if off = 0x10 then swapWrite j true v s
  else if off = 0x14 then
    let g := bits n 13 0
    unlessBad (decide (g < 600 ∨ 10000 < g)) s { s with jets := { s.jets with gap := v.extractLsb' 0 14 } }
  else if 0x1000 ≤ off ∧ off < 0x1000 + 64 * 40 then writeDesc j ((off - 0x1000) / 64) (off % 64 / 4) n s
  else if 0x2000 ≤ off ∧ off < 0x2000 + 64 * 40 then
    writeBank j ((off - 0x2000) / 64) (decide (32 ≤ off % 64)) (off % 32 / 4) n s
  else if 0x8000 ≤ off then writeFnt j (off - 0x8000) v s
  else s

/-! ### Wells (R58, R71, R74) -/

/-- WELL_CTRL: TAKE_IDX and TAKE_EN are a spare's; TAKE_EN moves the taps of well TAKE_IDX of its group. -/
def writeWellCtrl (w : Nat) (v : W32) (s : State) : State :=
  let s := modWell w (setPdAuto (v.getLsbD 0)) s
  if w < s.part.jets then s
  else
    let x := wellOf s w
    let on := v.getLsbD 8
    let move := fun (idx : BitVec 4) (b : Bool) => modWell (16 * spareGroup s.part w + idx.toNat) fun y => { y with away := b }
    let idx := v.extractLsb' 12 4
    if on = x.takeEn && (idx = x.takeIdx || !on) then modWell w (fun y => { y with takeIdx := idx }) s
    else
      let s := if x.takeEn then move x.takeIdx false s else s
      let s := if on then move idx true s else s
      modWell w (fun y => newSources { y with takeIdx := idx, takeEn := on, wakeDue := y.wakeDue || (on && y.pdState) }) s

/-- A register of well w. WELL_INJ has an address and no layout: a register write changes nothing there, and INJECT alone sets the source (R88;
DESIGN CHOICE, log entry 39). -/
def writeWell (w off : Nat) (v : W32) (s : State) : State :=
  if off = 0 then writeWellCtrl w v s
  else if 0x40 ≤ off ∧ off < 0x80 ∧ off % 8 = 4 then
    unlessBad (decide (s.sys.mode ≠ .calibrate ∨ (v.extractLsb' 0 6).toInt = -32)) s
      (modWell w (fun x => { x with slice := smod {} x.slice ((off - 0x40) / 8) fun c => { c with skew := v.extractLsb' 0 6 } }) s)
  else if 0x100 ≤ off ∧ off < 0x220 then wellChanWrite w ((off - 0x100) / 4) v (lateNow (wellOf s w) s.tb.now) s
  else if 0x300 ≤ off ∧ off < 0x440 then wellSchedWrite w ((off - 0x300) / 4) v (lateNow (wellOf s w) s.tb.now) s
  else s

/-- A drive output's register. -/
def writeDac (off : Nat) (v : W32) (s : State) : State :=
  if off < 0x4000 then dacWriteNow (.htr (off / 4)) false v s
  else if off < 0x4800 then dacWriteNow (.port ((off - 0x4000) / 4)) false v s
  else if off < 0x6800 then dacWriteNow (.flip ((off - 0x4800) / 4)) false v s
  else s

/-! ### Sluice, Weir and Cladal -/

/-- WEIR_PORT_CFG[n] word k, from its four words. -/
def writePortCfg (n k : Nat) (v : W32) (s : State) : State :=
  let p := wportOf s n
  let w := ((portCfgWords p).set k v).map (·.toNat)
  let a := nth 0 w 0
  let b := nth 0 w 1
  let c := nth 0 w 2
  let d := nth 0 w 3
  let t := s.tb.now
  unlessBad (decide (200000 < bits a 31 14 ∨ bits b 31 16 < 1000 ∨ 40000 < bits b 31 16 ∨ bits a 31 14 < bits c 31 14)) s
    (modWPort n (fun x =>
      { x with lineRate := BitVec.ofNat 18 (bits a 31 14), overhead := BitVec.ofNat 6 a, glead := BitVec.ofNat 16 (bits b 31 16),
               guard := BitVec.ofNat 10 b, shapeRate := BitVec.ofNat 18 (bits c 31 14), shapeBurst := BitVec.ofNat 24 d,
               level := x.levelNow t, levelAt := t }) s)

/-- WEIR_Q[i] word k, from its four words. -/
def writeQueue (i k : Nat) (v : W32) (s : State) : State :=
  let w := ((queueWords (wqueueOf s i)).set k v).map (·.toNat)
  let a := nth 0 w 0
  let b := nth 0 w 1
  let cbs := bits (nth 0 w 2) 23 0
  let pbs := bits (nth 0 w 3) 23 0
  let t := s.tb.now
  unlessBad (decide (bits b 31 14 < bits a 31 14 ∨ 200000 < bits b 31 14 ∨ bits a 7 0 = 0 ∨ 32 < bits b 5 0 ∨ cbs = 0 ∨ pbs = 0)) s
    (modWQueue i (fun x =>
      let x := x.filledAt t
      { x with cir := BitVec.ofNat 18 (bits a 31 14), aware := bit a 8, weight := BitVec.ofNat 8 a, pir := BitVec.ofNat 18 (bits b 31 14),
               yelMax := BitVec.ofNat 6 b, cbs := BitVec.ofNat 24 cbs, pbs := BitVec.ofNat 24 pbs,
               tc := x.tc.map (min (cbs * byteUnits)), tp := x.tp.map (min (pbs * byteUnits)) }) s)

/-- SLC_CTRL and SLC_DOM: their W1C flags. -/
def writeSluice (off : Nat) (v : W32) (s : State) : State :=
  if off = 0 then (if v.getLsbD 1 then withSlc (fun x => { x with overflow := false }) s else s)
  else if 0x100 ≤ off ∧ off < 0x200 ∧ off % 16 = 0 then
    modDom ((off - 0x100) / 16) (fun d =>
      { d with lateBase := d.lateBase && !v.getLsbD 24, gapFail := d.gapFail && !v.getLsbD 23 }) s
  else s

/-- The Weir's registers. -/
def writeWeir (off : Nat) (v : W32) (s : State) : State :=
  if off = 0 then
    let en := v.extractLsb' 0 8
    let s := withWeir (fun w => { w with laneEn := en }) s
    forEach ((List.range 8).filter fun l => !en.getLsbD l) s fun s l => weirLaneDown l s
  else if 0x40 ≤ off ∧ off < 0x60 then
    (if v.getLsbD 30 then modLane ((off - 0x40) / 4) (fun l => { l with downSeen := false }) s else s)
  else if 0x1000 ≤ off ∧ off < 0x1000 + 16 * s.part.ports then writePortCfg ((off - 0x1000) / 16) (off % 16 / 4) v s
  else if 0x10000 ≤ off ∧ off < 0x10000 + 128 * s.part.ports then writeQueue ((off - 0x10000) / 16) (off % 16 / 4) v s
  else s

/-- The Cladal registers. -/
def writeCladal (off : Nat) (v : W32) (s : State) : State :=
  if off = 0 then
    let g := bits v.toNat 27 16
    unlessBad (decide (g < 1000 ∨ 2500 < g)) s (setCldCtrl (BitVec.ofNat 12 g) (v.extractLsb' 0 2) s)
  else if off = 4 then clearCld v s
  else s

/-! ### Timebase and tracker -/

/-- A register image at its place in TIME_SET's payload. -/
def timeImage (i off : Nat) (v : W32) : List Byte := le 1 (2 ^ i) ++ zeros (off - 1) ++ le 4 v.toNat ++ zeros (32 - off)

/-- TB_CTRL: a write of any value sets the time state to FREE. -/
def writeTb (v : W32) (s : State) : State :=
  let v := v &&& ~~~(0x07000F1E : W32)
  if v = tbCtrlWord s.tb then holdPps (chooseParent (setTs .free s)) else writeTbCtrl {} v.toNat s

/-- The registers of the timebase and the tracker; a value that a table refuses is ignored with an error. -/
def writeTimebase (off : Nat) (v : W32) (s : State) : State :=
  let n := v.toNat
  let cal := fun (port : Nat) (second : Bool) => modMgmt port (fun g =>
    if second then { g with asym := v } else { g with egrLat := v.extractLsb' 16 16, ingLat := v.extractLsb' 0 16 }) s
  if off = 0 then unlessBad (timeRefused (timeImage 0 4 v)) s (writeTb v s)
  else if off = 4 then
    withTb (fun b => { b with ppsDisagree := b.ppsDisagree && !v.getLsbD 9, jumpRefused := b.jumpRefused && !v.getLsbD 8 }) s
  else if off = 0xC then
    unlessBad (timeRefused (timeImage 1 8 (v &&& 0x3FFFFFFF))) s (withTb (fun b => { b with thr := v.extractLsb' 0 30 }) s)
  else if off = 0x10 then
    unlessBad (timeRefused (timeImage 2 12 v)) s
      (withTb (fun b => { b with slewPpm := v.extractLsb' 26 6, holdLimit := v.extractLsb' 0 17 }) s)
  else if off = 0x14 then withTb (fun b => { b with ppsDelay := v.extractLsb' 0 16 }) s
  else if off = 0x40 then cal 0 false
  else if off = 0x44 then cal 0 true
  else if off = 0x48 then cal 1 false
  else if off = 0x4C then cal 1 true
  else if off = 0x100 then
    unlessBad (decide (bits n 15 0 = 0)) s (withTrk (fun t => { t with udpPort := v.extractLsb' 16 16, ageMax := v.extractLsb' 0 16 }) s)
  else if off = 0x104 then withTrk (fun t => { t with corridor := v.extractLsb' 16 16, unit := v.extractLsb' 0 9 }) s
  else if off = 0x108 then
    unlessBad (decide (bits n 15 0 = 0)) s (freshen (withTrk (fun t => { t with staleMs := v.extractLsb' 0 16 }) s))
  else s

/-! ### Dike (R325, R328) -/

/-- DIKE_SRC_CFG[n] word 0 (R328). -/
def writeSrcCfg (n : Nat) (v : W32) (s : State) : State :=
  let win := v.extractLsb' 16 16
  let thresh := v.extractLsb' 8 8
  let mask := v.getLsbD 7
  unlessBad (srcAbsent s.part n || decide (n ≤ 3 ∨ win = 0 ∨ thresh = 0 ∨ (mask ∧ srcClass n ≠ .minor))) s (configSource n win thresh mask s)

/-- The Dike's registers. -/
def writeDike (off : Nat) (v : W32) (s : State) : State :=
  if off = 4 then writeInj v s
  else if 0x70 ≤ off ∧ off < 0x88 then
    forEach ((ones 32 v).map fun b => 32 * ((off - 0x70) / 4) + b) s fun s n => clearSource n s
  else if 0x400 ≤ off ∧ off < 0xA00 then
    let n := (off - 0x400) / 8
    if off % 8 = 0 then writeSrcCfg n v s else unlessBad (decide (n ≤ 3)) s s
  else s

/-! ### Event router (R361) -/

/-- A word of the channel table that names a reserved source or task. -/
def chanWordBad (k n : Nat) : Bool :=
  let task := fun (t : Nat) => decide (448 ≤ t ∧ t ≠ 0x1FF)
  if k = 0 then decide (320 ≤ bits n 8 0) else task (bits n 8 0) || task (bits n 24 16)

/-- The router's registers: once LOCK is set every write is ignored and answered with an error. -/
def writeRouter (off : Nat) (v : W32) (s : State) : State :=
  let c := (off - 0x100) / 32
  let k := off % 32 / 4
  if s.plat.lock then badWrite s
  else if off = 0 then { s with plat := { s.plat with lock := v.getLsbD 31 } }
  else if 0x100 ≤ off ∧ c < 96 ∧ k < 5 then
    unlessBad (chanWordBad k v.toNat) s
      { s with plat := { s.plat with chan := smod chanReset s.plat.chan c fun w => w.set k (v &&& (if k = 0 then 0x800001FF else 0x01FF01FF)) } }
  else s

/-! ### The commands -/

/-- A byte of SRAM written: the mailbox region is the window's slot and ring memory (R354, log entry 39). -/
def writeSram (off : Nat) (b : Byte) (s : State) : State :=
  if 0x3F5000 ≤ off then withMbx (fun m => { m with mem := sset 0 m.mem (off - 0x3F4000) b }) s
  else { s with plat := { s.plat with sram := sset 0 s.plat.sram off b } }

/-- A word's bytes, least significant first, written by `f` at the addresses from `off` on that lie below `size`. -/
def writeBytes (f : Nat → Byte → State → State) (off size : Nat) (v : W32) (s : State) : State :=
  forEach ([0, 1, 2, 3].filter fun k => decide (off + k < size)) s fun s k => f (off + k) (v.extractLsb' (8 * k) 8) s

/-- A write that reaches its target; reserved offsets, read-only registers and the registers of blocks that the spec does not lay out are
left alone (log entry 39). -/
def writeTarget (t : BusTarget) (a : Nat) (v : W32) (s : State) : State :=
  match t with
  | .jets => writeJet ((a - 0x20000000) / 0x10000) (a % 0x10000) v s
  | .wells => writeWell ((a - 0x30000000) / 0x10000) (a % 0x10000) v s
  | .dacs => writeDac (a - 0x38000000) v s
  | .sluice =>
    let off := a - 0x40000000
    if off < 0x10000 then writeSluice off v s
    else if off < 0x40000 then writeWeir (off - 0x10000) v s
    else writeCladal (off - 0x40000) v s
  | .timebase => writeTimebase (a - 0x50000000) v s
  | .dike => writeDike (a - 0x60000000) v s
  | .router => writeRouter (a - 0x70000000) v s
  | .sram => writeBytes writeSram (a - 0x10000000) 0x400000 v s
  | .basin => writeBasin ((a - 0x1000000000) / 4 * 4) v s
  | _ => s

/-- A write that a target port has taken, counted as BUS_TXN (R369); a target that ignores it answers with an error. -/
def granted (m : Master) (q : Priv) (a : Nat) (s : State) : State :=
  let err := s.out.contains .busError
  let x : Txn := { master := masterNo m, priv := levelOf m q, addr := a, write := true, err := err }
  countTxn 0x0201 x (if err then takeError m s else s)

/-- REGISTER_WRITE: the processor's own writes need running cores, and no master writes without the reference clock (R376). -/
def writeRegister (m : Master) (q : Priv) (addr : Nat) (v : W32) (s : State) : State :=
  let a := matrixAddr s m addr
  if !s.pwr.refclk || (m = .cpu && s.pwr.halted) then s
  else
    match reached s.part m q a with
    | some t => granted m q a (writeTarget t a v s)
    | none => answerError 8 m q a true s

/-- REGISTER_WRITE (R8). -/
def execRegisterWrite (dt : Nat) (master : Master) (priv : Priv) (addr : Nat) (value : W32) (s : State) : Host.Outcome State Fault Refusal :=
  live dt s (writeRegister master priv addr value)

/-- A debugger's write of a register through JTAG, in the states whose port opens debug (R386): made as the processor makes it (log entry
98). -/
def tapDebugWrite (addr : Nat) (v : W32) (s : State) : State := if tapDebug (lcNow s) then writeRegister .cpu .p0 addr v s else s

/-- A transaction that its target took and did not complete (R358): granted, and answered with an error. Without the reference clock the
matrix stands still, and halted cores make no access (R376). -/
def timeOut (m : Master) (q : Priv) (addr : Nat) (write : Bool) (s : State) : State :=
  let a := matrixAddr s m addr
  let x : Txn := { master := masterNo m, priv := levelOf m q, addr := a, write := write, err := true }
  if !s.pwr.refclk || (m = .cpu && s.pwr.halted) then s
  else answerError 9 m q a write (if (reached s.part m q a).isSome then countTxn 0x0201 x s else s)

/-- BUS_TIMEOUT (R358). -/
def execBusTimeout (dt : Nat) (master : Master) (priv : Priv) (addr : Nat) (write : Bool) (s : State) : Host.Outcome State Fault Refusal :=
  live dt s (timeOut master priv addr write)

/-- EVR_LOCK (R361): firmware sets LOCK during Boot. -/
def execEvrLock (dt : Nat) (s : State) : Host.Outcome State Fault Refusal :=
  live dt s fun s => if fwLive s then { s with plat := { s.plat with lock := true } } else s

end Sys2Proof.Machine
end

