-- ==== Sys2Proof/Machine/Dispatch.lean ====
section
/-! DEFINITION. Which meaning each command has: one arm per constructor of Instr. -/

namespace Sys2Proof.Machine

/-- The effect of a command on everything but the queue. -/
def exec (i : Instr) (s : State) : Host.Outcome State Fault Refusal :=
  match i with
  | .powerOn dt => Sys2Proof.Machine.execPowerOn dt s
  | .powerRemoved dt => Sys2Proof.Machine.execPowerRemoved dt s
  | .supplyTrip dt rail => Sys2Proof.Machine.execSupplyTrip dt rail s
  | .supplyWarn dt rail => Sys2Proof.Machine.execSupplyWarn dt rail s
  | .resetNLow dt => Sys2Proof.Machine.execResetNLow dt s
  | .resetRelease dt pairSide hostSel => Sys2Proof.Machine.execResetRelease dt pairSide hostSel s
  | .watchdogExpiry dt => Sys2Proof.Machine.execWatchdogExpiry dt s
  | .watchdogRestart dt => Sys2Proof.Machine.execWatchdogRestart dt s
  | .pllLock dt => Sys2Proof.Machine.execPllLock dt s
  | .basinTrained dt => Sys2Proof.Machine.execBasinTrained dt s
  | .wipeComplete dt => Sys2Proof.Machine.execWipeComplete dt s
  | .firmwareHandover dt valveCodes failedJets failedWells => Sys2Proof.Machine.execFirmwareHandover dt valveCodes failedJets failedWells s
  | .storeLoaded dt => Sys2Proof.Machine.execStoreLoaded dt s
  | .refclkLoss dt => Sys2Proof.Machine.execRefclkLoss dt s
  | .perst dt => Sys2Proof.Machine.execPerst dt s
  | .spiTransaction dt bytes => Sys2Proof.Machine.execSpiTransaction dt bytes s
  | .hostWindowWrite dt offset data => Sys2Proof.Machine.execHostWindowWrite dt offset data s
  | .mbxDoorbell dt value => Sys2Proof.Machine.execMbxDoorbell dt value s
  | .commandAcceptance dt => Sys2Proof.Machine.execCommandAcceptance dt s
  | .barrierStart dt slot => Sys2Proof.Machine.execBarrierStart dt slot s
  | .mbxCompleteClear dt value => Sys2Proof.Machine.execMbxCompleteClear dt value s
  | .mbxIrqMaskWrite dt value => Sys2Proof.Machine.execMbxIrqMaskWrite dt value s
  | .mbxRingConsWrite dt value => Sys2Proof.Machine.execMbxRingConsWrite dt value s
  | .mbxRingLostRead dt => Sys2Proof.Machine.execMbxRingLostRead dt s
  | .identify dt slot => Sys2Proof.Machine.execIdentify dt slot s
  | .status dt slot => Sys2Proof.Machine.execStatus dt slot s
  | .reset dt slot => Sys2Proof.Machine.execReset dt slot s
  | .setMode dt slot => Sys2Proof.Machine.execSetMode dt slot s
  | .modeChange dt => Sys2Proof.Machine.execModeChange dt s
  | .calibrate dt slot => Sys2Proof.Machine.execCalibrate dt slot s
  | .calibrationEnd dt success failedCells failedJets result durationMs => Sys2Proof.Machine.execCalibrationEnd dt success failedCells failedJets result durationMs s
  | .domainSet dt slot => Sys2Proof.Machine.execDomainSet dt slot s
  | .domainGet dt slot => Sys2Proof.Machine.execDomainGet dt slot s
  | .connect dt slot => Sys2Proof.Machine.execConnect dt slot s
  | .configDefine dt slot => Sys2Proof.Machine.execConfigDefine dt slot s
  | .configDelete dt slot => Sys2Proof.Machine.execConfigDelete dt slot s
  | .configRead dt slot => Sys2Proof.Machine.execConfigRead dt slot s
  | .configApply dt slot => Sys2Proof.Machine.execConfigApply dt slot s
  | .cellMark dt slot => Sys2Proof.Machine.execCellMark dt slot s
  | .cellRead dt slot => Sys2Proof.Machine.execCellRead dt slot s
  | .setGap dt slot => Sys2Proof.Machine.execSetGap dt slot s
  | .loopRead dt slot => Sys2Proof.Machine.execLoopRead dt slot s
  | .loopSet dt slot => Sys2Proof.Machine.execLoopSet dt slot s
  | .loopEnable dt slot => Sys2Proof.Machine.execLoopEnable dt slot s
  | .recentre dt slot => Sys2Proof.Machine.execRecentre dt slot s
  | .rangeSet dt slot => Sys2Proof.Machine.execRangeSet dt slot s
  | .setRate dt slot => Sys2Proof.Machine.execSetRate dt slot s
  | .loopCfg dt slot => Sys2Proof.Machine.execLoopCfg dt slot s
  | .heaterB dt slot => Sys2Proof.Machine.execHeaterB dt slot s
  | .calWrite dt slot => Sys2Proof.Machine.execCalWrite dt slot s
  | .calCommit dt slot => Sys2Proof.Machine.execCalCommit dt slot s
  | .calCommitDone dt => Sys2Proof.Machine.execCalCommitDone dt s
  | .calStop dt slot => Sys2Proof.Machine.execCalStop dt slot s
  | .calRead dt slot => Sys2Proof.Machine.execCalRead dt slot s
  | .calStatus dt slot => Sys2Proof.Machine.execCalStatus dt slot s
  | .trainBind dt slot => Sys2Proof.Machine.execTrainBind dt slot s
  | .trainRead dt slot => Sys2Proof.Machine.execTrainRead dt slot s
  | .entryWrite dt slot => Sys2Proof.Machine.execEntryWrite dt slot s
  | .entryCommit dt slot => Sys2Proof.Machine.execEntryCommit dt slot s
  | .entryCommitDone dt => Sys2Proof.Machine.execEntryCommitDone dt s
  | .entryDelete dt slot => Sys2Proof.Machine.execEntryDelete dt slot s
  | .entryRead dt slot => Sys2Proof.Machine.execEntryRead dt slot s
  | .telegram dt slot => Sys2Proof.Machine.execTelegram dt slot s
  | .trackCfg dt slot => Sys2Proof.Machine.execTrackCfg dt slot s
  | .weirPort dt slot => Sys2Proof.Machine.execWeirPort dt slot s
  | .weirQueue dt slot => Sys2Proof.Machine.execWeirQueue dt slot s
  | .weirLanes dt slot => Sys2Proof.Machine.execWeirLanes dt slot s
  | .weirRead dt slot => Sys2Proof.Machine.execWeirRead dt slot s
  | .timeSet dt slot => Sys2Proof.Machine.execTimeSet dt slot s
  | .timeRead dt slot => Sys2Proof.Machine.execTimeRead dt slot s
  | .setTod dt slot => Sys2Proof.Machine.execSetTod dt slot s
  | .timeStep dt slot => Sys2Proof.Machine.execTimeStep dt slot s
  | .timeStepApply dt => Sys2Proof.Machine.execTimeStepApply dt s
  | .netSet dt slot => Sys2Proof.Machine.execNetSet dt slot s
  | .pairSet dt slot => Sys2Proof.Machine.execPairSet dt slot s
  | .pairRead dt slot => Sys2Proof.Machine.execPairRead dt slot s
  | .promote dt slot => Sys2Proof.Machine.execPromote dt slot s
  | .exchange dt slot => Sys2Proof.Machine.execExchange dt slot s
  | .exchangeRelease => Sys2Proof.Machine.execExchangeRelease s
  | .faultRead dt slot => Sys2Proof.Machine.execFaultRead dt slot s
  | .faultClear dt slot => Sys2Proof.Machine.execFaultClear dt slot s
  | .faultCfg dt slot => Sys2Proof.Machine.execFaultCfg dt slot s
  | .faultInject dt slot => Sys2Proof.Machine.execFaultInject dt slot s
  | .captureStart dt slot => Sys2Proof.Machine.execCaptureStart dt slot s
  | .captureStop dt slot => Sys2Proof.Machine.execCaptureStop dt slot s
  | .captureRead dt slot => Sys2Proof.Machine.execCaptureRead dt slot s
  | .inject dt slot => Sys2Proof.Machine.execInject dt slot s
  | .tempRead dt slot => Sys2Proof.Machine.execTempRead dt slot s
  | .tempCfg dt slot => Sys2Proof.Machine.execTempCfg dt slot s
  | .wearRead dt slot => Sys2Proof.Machine.execWearRead dt slot s
  | .pmonSet dt slot => Sys2Proof.Machine.execPmonSet dt slot s
  | .pmonRead dt slot => Sys2Proof.Machine.execPmonRead dt slot s
  | .attest dt slot otp => Sys2Proof.Machine.execAttest dt slot otp s
  | .attestRead dt slot => Sys2Proof.Machine.execAttestRead dt slot s
  | .measureRead dt slot => Sys2Proof.Machine.execMeasureRead dt slot s
  | .fwWrite dt slot => Sys2Proof.Machine.execFwWrite dt slot s
  | .fwActivate dt slot => Sys2Proof.Machine.execFwActivate dt slot s
  | .fwActivateDone dt back => Sys2Proof.Machine.execFwActivateDone dt back s
  | .lcTransition dt slot => Sys2Proof.Machine.execLcTransition dt slot s
  | .registerWrite dt master priv addr value => Sys2Proof.Machine.execRegisterWrite dt master priv addr value s
  | .busTimeout dt master priv addr write => Sys2Proof.Machine.execBusTimeout dt master priv addr write s
  | .wellSchedWrite dt well entry value late => Sys2Proof.Machine.execWellSchedWrite dt well entry value late s
  | .wellChanWrite dt well chan value late => Sys2Proof.Machine.execWellChanWrite dt well chan value late s
  | .wellTakeover dt well => Sys2Proof.Machine.execWellTakeover dt well s
  | .wellFrame dt well raw => Sys2Proof.Machine.execWellFrame dt well raw s
  | .wellWakeEnd dt well => Sys2Proof.Machine.execWellWakeEnd dt well s
  | .rangeStepDown dt well chan => Sys2Proof.Machine.execRangeStepDown dt well chan s
  | .rangeStepUp dt well chan => Sys2Proof.Machine.execRangeStepUp dt well chan s
  | .wellSliceFail dt well => Sys2Proof.Machine.execWellSliceFail dt well s
  | .dacWrite dt out byJet value => Sys2Proof.Machine.execDacWrite dt out byJet value s
  | .rangeChangeEnd dt heater => Sys2Proof.Machine.execRangeChangeEnd dt heater s
  | .jetSwapWrite dt jet hi value => Sys2Proof.Machine.execJetSwapWrite dt jet hi value s
  | .roundStart dt lateFetch => Sys2Proof.Machine.execRoundStart dt lateFetch s
  | .skipLimitExceeded dt jet => Sys2Proof.Machine.execSkipLimitExceeded dt jet s
  | .skipWindowEnd dt jet => Sys2Proof.Machine.execSkipWindowEnd dt jet s
  | .lockLossTimeout dt cell => Sys2Proof.Machine.execLockLossTimeout dt cell s
  | .driftScan dt => Sys2Proof.Machine.execDriftScan dt s
  | .sramCopyRefresh dt => Sys2Proof.Machine.execSramCopyRefresh dt s
  | .jetTakeover dt jet => Sys2Proof.Machine.execJetTakeover dt jet s
  | .routeRequest dt => Sys2Proof.Machine.execRouteRequest dt s
  | .routeComplete dt => Sys2Proof.Machine.execRouteComplete dt s
  | .cellFailureReroute dt cell cond => Sys2Proof.Machine.execCellFailureReroute dt cell cond s
  | .backgroundRerouteDone dt => Sys2Proof.Machine.execBackgroundRerouteDone dt s
  | .reconfArm dt => Sys2Proof.Machine.execReconfArm dt s
  | .tClose => Sys2Proof.Machine.execTClose s
  | .tDark => Sys2Proof.Machine.execTDark s
  | .levelReadback mismatch => Sys2Proof.Machine.execLevelReadback mismatch s
  | .tOpen => Sys2Proof.Machine.execTOpen s
  | .settleDeadline => Sys2Proof.Machine.execSettleDeadline s
  | .reconfReport dt seq => Sys2Proof.Machine.execReconfReport dt seq s
  | .entryPrepare dt tracked domain entry => Sys2Proof.Machine.execEntryPrepare dt tracked domain entry s
  | .entryArm dt tracked domain entry => Sys2Proof.Machine.execEntryArm dt tracked domain entry s
  | .recheckDone dt => Sys2Proof.Machine.execRecheckDone dt s
  | .calendarStart domain => Sys2Proof.Machine.execCalendarStart domain s
  | .calendarWindow domain => Sys2Proof.Machine.execCalendarWindow domain s
  | .calendarResume domain => Sys2Proof.Machine.execCalendarResume domain s
  | .telegramReceive dt port stamp frame => Sys2Proof.Machine.execTelegramReceive dt port stamp frame s
  | .trainStale train => Sys2Proof.Machine.execTrainStale train s
  | .ptpMessageRx dt port stamp env msg => Sys2Proof.Machine.execPtpMessageRx dt port stamp env msg s
  | .delayReqTx dt stamp => Sys2Proof.Machine.execDelayReqTx dt stamp s
  | .announceTimeout dt => Sys2Proof.Machine.execAnnounceTimeout dt s
  | .syncTimeout dt => Sys2Proof.Machine.execSyncTimeout dt s
  | .ppsInEdge dt stamp => Sys2Proof.Machine.execPpsInEdge dt stamp s
  | .ppsTimeout dt => Sys2Proof.Machine.execPpsTimeout dt s
  | .holdoverExpiry dt => Sys2Proof.Machine.execHoldoverExpiry dt s
  | .secondBoundary => Sys2Proof.Machine.execSecondBoundary s
  | .ppsOutEnd => Sys2Proof.Machine.execPpsOutEnd s
  | .tbNowRead dt => Sys2Proof.Machine.execTbNowRead dt s
  | .arpRequest dt port addr env => Sys2Proof.Machine.execArpRequest dt port addr env s
  | .mgmtFrameOther dt frame => Sys2Proof.Machine.execMgmtFrameOther dt frame s
  | .mgmtLinkChange dt port up => Sys2Proof.Machine.execMgmtLinkChange dt port up s
  | .laneUp dt lane => Sys2Proof.Machine.execLaneUp dt lane s
  | .laneDown dt lane => Sys2Proof.Machine.execLaneDown dt lane s
  | .weirRequest dt lane msg => Sys2Proof.Machine.execWeirRequest dt lane msg s
  | .weirDecision dt port => Sys2Proof.Machine.execWeirDecision dt port s
  | .timeMessageTx dt lane => Sys2Proof.Machine.execTimeMessageTx dt lane s
  | .heartbeatTx dt => Sys2Proof.Machine.execHeartbeatTx dt s
  | .heartbeatRx dt msg => Sys2Proof.Machine.execHeartbeatRx dt msg s
  | .linkDownTimeout dt => Sys2Proof.Machine.execLinkDownTimeout dt s
  | .mirrorSend dt => Sys2Proof.Machine.execMirrorSend dt s
  | .mirrorItemRx dt msg item => Sys2Proof.Machine.execMirrorItemRx dt msg item s
  | .followRx dt lane msg => Sys2Proof.Machine.execFollowRx dt lane msg s
  | .retransmitRequest dt msg => Sys2Proof.Machine.execRetransmitRequest dt msg s
  | .resyncItemRx dt msg part => Sys2Proof.Machine.execResyncItemRx dt msg part s
  | .resyncComplete dt => Sys2Proof.Machine.execResyncComplete dt s
  | .calPosPeriodic dt => Sys2Proof.Machine.execCalPosPeriodic dt s
  | .roleInChange dt a b => Sys2Proof.Machine.execRoleInChange dt a b s
  | .roleInReleased dt => Sys2Proof.Machine.execRoleInReleased dt s
  | .roleSplit dt => Sys2Proof.Machine.execRoleSplit dt s
  | .presentInChange dt level => Sys2Proof.Machine.execPresentInChange dt level s
  | .presentFault dt => Sys2Proof.Machine.execPresentFault dt s
  | .dualActive dt => Sys2Proof.Machine.execDualActive dt s
  | .promotion => Sys2Proof.Machine.execPromotion s
  | .takeoverReport dt => Sys2Proof.Machine.execTakeoverReport dt s
  | .faultOccurrence dt source holds => Sys2Proof.Machine.execFaultOccurrence dt source holds s
  | .faultWindowClose dt source stayed => Sys2Proof.Machine.execFaultWindowClose dt source stayed s
  | .dikeInjGo dt value => Sys2Proof.Machine.execDikeInjGo dt value s
  | .evrLock dt => Sys2Proof.Machine.execEvrLock dt s
  | .tempMeasurementStart dt => Sys2Proof.Machine.execTempMeasurementStart dt s
  | .tempMeasurementDone dt readings => Sys2Proof.Machine.execTempMeasurementDone dt readings s
  | .wearFold dt => Sys2Proof.Machine.execWearFold dt s
  | .wearSave dt => Sys2Proof.Machine.execWearSave dt s
  | .eolPrediction dt => Sys2Proof.Machine.execEolPrediction dt s
  | .heaterBPendingInsert dt cell => Sys2Proof.Machine.execHeaterBPendingInsert dt cell s
  | .heaterBTIns cell => Sys2Proof.Machine.execHeaterBTIns cell s
  | .heaterBReopen cell => Sys2Proof.Machine.execHeaterBReopen cell s
  | .railGood dt rail => Sys2Proof.Machine.execRailGood dt rail s
  | .resetNHigh dt => Sys2Proof.Machine.execResetNHigh dt s
  | .supplyInRange dt rail => Sys2Proof.Machine.execSupplyInRange dt rail s
  | .injectionDurationEnd dt target => Sys2Proof.Machine.execInjectionDurationEnd dt target s

end Sys2Proof.Machine
end

