-- ==== Sys2Proof/WellFormed.lean ====
section
/-! DEFINITION. Which commands are well formed on a part: every number lies in the range of what it numbers. An ill-formed command
names nothing that the device has. -/

namespace Sys2Proof

/-- A lane that exists: eight Weir lanes (R209), two Cladal lanes (R239). -/
def LaneId.wf : LaneId → Bool
  | .weir l => decide (l < 8)
  | .cld i => decide (i < 2)

/-- A drive output that a part has: two heaters a cell, a port ladder for each ingress equaliser and egress valve, a flip driver a
cell (R75, R82). -/
def DacOut.wf (p : Part) : DacOut → Bool
  | .htr n => decide (n < 2 * p.cells)
  | .port n => decide (n < p.ports ∨ (256 ≤ n ∧ n < 256 + p.ports))
  | .flip c => decide (c < p.cells)

/-- Device times: the NS field of R152 stays below 10^9 by the form of `Time`, and the SEC field has 48 bits. -/
def timeWf (t : Time) : Bool := decide (t < 2 ^ 48 * (1000000000 * 65536))

/-- Mailbox slots number 0 to 7 (R267). -/
abbrev slotWf (slot : Nat) : Bool := decide (slot < 8)

/-- Sources that a calibration may step (R136): a cell by either way, a valve by its code, by a step that changes its heat word; seen
through all 512 rounds. -/
def Response.wf (p : Part) (r : Response) : Bool :=
  let k := r.source.toNat
  decide (r.after.length = 512 ∧ r.heat ≠ 0) &&
    (decide (k < p.cells) || decide (r.how = .code ∧ p.cells + p.ports ≤ k ∧ k < p.loops))

/-- Groups of sources (R136): no two of a group within eight columns and eight rows of each other, and at most 32 on the Kolox 256. -/
def groupsWf (p : Part) (l : List Response) : Bool :=
  l.all fun r =>
    let mates := ((l.filter fun x => x.group == r.group).map fun x => x.source.toNat).eraseDups
    decide (p = .kx256 → mates.length ≤ 32) && mates.all fun k => decide (k = r.source.toNat) || !near p 8 8 r.source.toNat k

/-- A calibration's measurements. -/
def CalResult.wf (p : Part) (r : CalResult) : Bool :=
  let l := r.steps.flatMap (·.2)
  r.steps.all (fun e => decide (e.1 < p.loops)) && l.all (·.wf p) && groupsWf p l

/-- A command that names only what a part has. -/
def Instr.wf (p : Part) : Instr → Bool
  | .powerOn _ | .powerRemoved _ | .supplyTrip _ _ | .supplyWarn _ _ | .resetNLow _ | .resetRelease _ _ _ | .watchdogExpiry _
  | .watchdogRestart _ | .pllLock _ | .basinTrained _ | .wipeComplete _ | .storeLoaded _ | .refclkLoss _ | .perst _
  | .spiTransaction _ _ | .mbxDoorbell _ _ | .commandAcceptance _ | .mbxCompleteClear _ _ | .mbxIrqMaskWrite _ _
  | .mbxRingConsWrite _ _ | .mbxRingLostRead _ | .modeChange _ | .calCommitDone _ | .entryCommitDone _ | .timeStepApply _
  | .exchangeRelease | .fwActivateDone _ _ | .driftScan _ | .sramCopyRefresh _ | .routeRequest _ | .routeComplete _
  | .backgroundRerouteDone _ | .reconfArm _ | .reconfReport _ _ | .tClose | .tDark | .tOpen | .settleDeadline | .recheckDone _
  | .announceTimeout _ | .syncTimeout _ | .ppsTimeout _ | .holdoverExpiry _ | .secondBoundary | .ppsOutEnd | .tbNowRead _
  | .heartbeatTx _ | .linkDownTimeout _ | .mirrorSend _ | .resyncComplete _ | .calPosPeriodic _ | .roleInChange _ _ _ | .roleInReleased _
  | .roleSplit _ | .presentInChange _ _ | .presentFault _ | .dualActive _ | .promotion | .takeoverReport _ | .dikeInjGo _ _
  | .evrLock _ | .tempMeasurementStart _ | .wearFold _ | .wearSave _ | .eolPrediction _ | .railGood _ _ | .resetNHigh _
  | .supplyInRange _ _ => true
  | .firmwareHandover _ codes jets wells =>
    decide (codes.length = p.ports) && (jets ++ wells).all fun k => decide (k < p.jets + p.spares)
  | .hostWindowWrite _ offset data => decide (data ≠ [] ∧ offset.toNat + data.length ≤ 0x10000)
  | .calibrationEnd _ _ cells jets r _ =>
    (cells.all fun c => decide (c < p.cells)) && (jets.all fun j => decide (j < p.jets + p.spares)) && r.wf p
  | .barrierStart _ k | .identify _ k | .status _ k | .reset _ k | .setMode _ k | .calibrate _ k | .domainSet _ k | .domainGet _ k
  | .connect _ k | .configDefine _ k | .configDelete _ k | .configRead _ k | .configApply _ k | .cellMark _ k | .cellRead _ k
  | .setGap _ k | .loopRead _ k | .loopSet _ k | .loopEnable _ k | .recentre _ k | .rangeSet _ k | .setRate _ k | .loopCfg _ k
  | .heaterB _ k | .calWrite _ k | .calCommit _ k | .calStop _ k | .calRead _ k | .calStatus _ k | .trainBind _ k | .trainRead _ k
  | .entryWrite _ k | .entryCommit _ k | .entryDelete _ k | .entryRead _ k | .telegram _ k | .trackCfg _ k | .weirPort _ k
  | .weirQueue _ k | .weirLanes _ k | .weirRead _ k | .timeSet _ k | .timeRead _ k | .setTod _ k | .timeStep _ k | .netSet _ k
  | .pairSet _ k | .pairRead _ k | .promote _ k | .exchange _ k | .faultRead _ k | .faultClear _ k | .faultCfg _ k
  | .faultInject _ k | .captureStart _ k | .captureStop _ k | .captureRead _ k | .inject _ k | .tempRead _ k | .tempCfg _ k
  | .wearRead _ k | .pmonSet _ k | .pmonRead _ k | .attest _ k _ | .attestRead _ k | .measureRead _ k | .fwWrite _ k
  | .fwActivate _ k | .lcTransition _ k => slotWf k
  | .registerWrite _ _ _ addr _ | .busTimeout _ _ _ addr _ => decide (addr < 2 ^ 40 ∧ addr % 4 = 0)
  | .wellSchedWrite _ w e _ _ => decide (w < p.jets + p.spares ∧ e < 80)
  | .wellChanWrite _ w ch _ _ => decide (w < p.jets + p.spares ∧ ch < 80)
  | .wellTakeover _ w | .wellWakeEnd _ w | .wellSliceFail _ w => decide (w < p.jets + p.spares)
  | .wellFrame _ w raw => decide (w < p.jets + p.spares ∧ raw.length = 80) && raw.all fun r => decide (r < 2 ^ 14)
  | .rangeStepDown _ w ch | .rangeStepUp _ w ch => decide (w < p.jets + p.spares ∧ ch < 80)
  | .dacWrite _ out _ _ => out.wf p
  | .rangeChangeEnd _ h => decide (h < 2 * p.cells)
  | .jetSwapWrite _ j _ _ | .skipLimitExceeded _ j | .skipWindowEnd _ j | .jetTakeover _ j => decide (j < p.jets + p.spares)
  | .roundStart _ late => late.all fun l => decide (l < p.loops)
  | .lockLossTimeout _ c | .cellFailureReroute _ c _ | .heaterBPendingInsert _ c | .heaterBTIns c | .heaterBReopen c =>
    decide (c < p.cells)
  | .levelReadback cells => cells.all fun c => decide (c < p.cells)
  | .entryPrepare _ _ d e | .entryArm _ _ d e => decide (d < 16 ∧ e < 8192)
  | .calendarStart d | .calendarWindow d | .calendarResume d => decide (d < 16)
  | .telegramReceive _ port stamp _ | .ptpMessageRx _ port stamp _ _ => decide (port < 2) && timeWf stamp
  | .trainStale t => decide (t < 64)
  | .delayReqTx _ stamp | .ppsInEdge _ stamp => timeWf stamp
  | .arpRequest _ port _ _ | .mgmtLinkChange _ port _ => decide (port < 2)
  | .mgmtFrameOther _ f => decide (f.port < 2)
  | .laneUp _ l | .laneDown _ l => l.wf
  | .heartbeatRx _ m | .mirrorItemRx _ m _ | .retransmitRequest _ m | .resyncItemRx _ m _ => decide (m.lane < 2 ∧ m.bytes.length ≤ 4096)
  | .followRx _ l msg => decide (l < 2 ∧ msg.length ≤ 4096)
  | .weirRequest _ l msg => decide (l < 8 ∧ msg.length ≤ 64)
  | .weirDecision _ port => decide (port < p.ports)
  | .timeMessageTx _ l => decide (l < 8)
  | .faultOccurrence _ n _ | .faultWindowClose _ n _ => decide (n < 192)
  | .tempMeasurementDone _ r => decide (r.length = 56)
  | .injectionDurationEnd _ t => decide (t < p.loops)

end Sys2Proof
end

