-- ==== Sys2Proof/Safety.lean ====
section
/-! DEFINITION. The terms that statements use: what a safe run keeps, and when a command is due. -/

namespace Sys2Proof.Machine

/-- The byte memories of a state are in canonical form. -/
def memWf (s : State) : Bool := swf 0 s.mbx.mem && swf 0 s.plat.capture.mem && swf 0 s.sec.staging && swf 0 s.plat.sram && swf 0 s.plat.basin &&
  swf 0 s.pld.scratch

/-- The unit is out of Reset. -/
abbrev awake (a : State) : Bool := !decide (a.sys.mode = .reset)

/-- The slot holds the command `c` of opcode `op`, with payload `p`, which firmware comes to now: it may begin, and nothing makes its
group BUSY. -/
def due (a : State) (slot op : Nat) (c : SlotCmd) (p : List Byte) : Bool :=
  awake a && served a op && decide (readyCmd a slot op = some c) && decide (slotPayload a slot = p) && !busyNow a op

/-- R14 and R16: in Operate no degraded condition is present and in Degraded one is, but while a host's mode command waits for its change, which
goes first (log entry 124); of Maintenance it says nothing. -/
def degradedInv (s : State) : Bool :=
  modeOrdered s || if s.sys.mode = .operate then !degradedCond s else if s.sys.mode = .degraded then degradedCond s else true

/-- R13 and R148: outside Reset no valve of the part is open unless mode and role let light out. -/
def valveInv (s : State) : Bool :=
  decide (s.sys.mode = .reset) || valvesLive s.sys || (ones s.part.ports s.fab.openPorts).isEmpty

/-- R237 and R431: outside Reset a unit whose partner is neither present nor asserting its role, and that is not promoting, is Solo. -/
def soloInv (s : State) : Bool :=
  decide (s.sys.mode = .reset) || decide (s.sys.role = .solo) || s.cld.present || s.cld.asserted || s.pair.promo.isSome

end Sys2Proof.Machine
end

