-- ==== Sys2Proof/Certificates/Slice0/Obligations.lean ====
section
/-! DEFINITION. The statements for the provers. A statement that a command answers an exact next state rests on the model's conventions on
device time, happenings, slots and what follows a command (log entries 1 to 3, 6 and 8); the others it rests on are named in its
docstring. -/

open Sys2Proof Sys2Proof.Machine

/-! ### The queue and the step -/

/-- A command at the front of the queue runs on the queue's rest; with none waiting the block idles (log entry 31). -/
def Obligations.StepTakesTheFrontCommand : Prop :=
  ∀ s : State, (∀ (c : Instr) (rest : List Instr), s.pending = c :: rest → step s = exec c { s with pending := rest }) ∧
    (s.pending = [] → step s = .next s)

/-- Every command answers a next state, on every part and in every state, and leaves the queue alone. (Choices: log entries 6, 32.) -/
def Obligations.EveryCommandAnswersAndKeepsTheQueue : Prop :=
  ∀ (c : Instr) (s : State), ∃ t, exec c s = .next t ∧ t.pending = s.pending

/-! ### Power and Reset -/

/-- Reset triggers and their ends complete (R14, R15, R392 to R395): what the device is after each. A FATAL latch of an
earlier Jet round holds off RESET_N and the watchdog, and one of the same round does not (R16); power-on clears it. (Choices: log
entries 4, 36, 44, 124.) -/
def Obligations.ResetTriggersComplete : Prop :=
  ∀ (dt : Nat) (rail : Rail) (s : State), let a := begun dt s
    exec (.powerRemoved dt) s = .next { intoReset a with
      pwr := { (intoReset a).pwr with powered := false, tripped := [.vddCore, .vddIo, .vdd18, .vdd33, .vmem, .vhtr, .vpin] } } ∧
    (a.pwr.powered = false →
      exec (.powerOn dt) s = .next { intoReset a with
        pwr := { (intoReset a).pwr with powered := true, tripped := [] }, dike := {}, mbx := {}, pcie := {}, tap := {} }) ∧
    (a.pwr.powered = true → a.pwr.tripped.contains rail = false →
      exec (.supplyTrip dt rail) s = .next (intoReset { a with pwr := { a.pwr with tripped := rail :: a.pwr.tripped } })) ∧
    ((a.dike.fatal = false ∨ ∃ t, a.dike.fatalAt = some t ∧ sameRound a t a.tb.now = true) →
      exec (.resetNLow dt) s = .next (intoReset { a with pwr := { a.pwr with resetLow := true } }) ∧
      exec (.watchdogExpiry dt) s = .next (intoReset a)) ∧
    (a.dike.fatal = true → (∀ t, a.dike.fatalAt = some t → sameRound a t a.tb.now = false) →
      exec (.resetNLow dt) s = .next (after a { a with pwr := { a.pwr with resetLow := true } }) ∧
      exec (.watchdogExpiry dt) s = .next (after a a)) ∧
    exec (.railGood dt rail) s = .next (after a (if a.pwr.powered then
      { a with pwr := { a.pwr with tripped := a.pwr.tripped.filter (· ≠ rail) } } else a)) ∧
    exec (.resetNHigh dt) s = .next (after a { a with pwr := { a.pwr with resetLow := false } }) ∧
    exec (.perst dt) s = .next (after a { a with mbx := { a.mbx with msixOn := false }, pcie := {} }) ∧
    (a.pwr.warned.contains rail = false →
      exec (.supplyWarn dt rail) s =
        .next (after a (setLevel 19 true { a with pwr := { a.pwr with warned := rail :: a.pwr.warned } }))) ∧
    (a.pwr.warned = [rail] →
      exec (.supplyInRange dt rail) s = .next (after a (setLevel 19 false { a with pwr := { a.pwr with warned := [] } })))

/-- What a Reset leaves (R15, R320, R390, R394): mode Reset, role Solo, no valve open, no command in a slot, the FATAL latch and the
records of sources 0 to 3 alone of the Dike. All of flash and OTP stay, the secrets among them, and of the Polder the scratch RAM, the
log and what the boot chose are cleared; the endpoint but for its pending messages (R278), the test access port and the queue stay.
(Choices: log entries 4, 36, 44, 98.) -/
def Obligations.ResetLeaves : Prop :=
  ∀ s : State, let t := intoReset s
    t.sys.mode = .reset ∧ t.sys.role = .solo ∧ t.fab.openPorts = 0 ∧ t.fab.conns = [] ∧ t.mbx.cmds = [] ∧ t.jets.loops = [] ∧
    t.slc.entries = [] ∧ t.wear = [] ∧ t.tb.now = 0 ∧ t.tb.ts = .free ∧
    t.dike.fatal = s.dike.fatal ∧ (∀ n, src t.dike n = if n ≤ 3 then src s.dike n else srcReset n) ∧
    t.pld = { s.pld with scratch := [], log := [], frozen := false, keyUsed := false, slotUsed := false, fwDigest := 0, imgSvn := 0,
                         imgRevoke := false } ∧
    t.plat.sram = [] ∧ t.plat.basin = [] ∧ t.sec.staging = [] ∧
    t.pcie = { s.pcie with pend := 0 } ∧ t.tap = s.tap ∧ t.pending = s.pending ∧ t.part = s.part

/-- Release of the internal reset at t0 completes, RESET_N being no trigger while FATAL is latched (R15, R395 to R397, R408): Boot,
outputs driven, straps sampled, first role. (Choices: log entries 5, 44, 70.) -/
def Obligations.ResetReleaseCompletes : Prop :=
  ∀ (dt : Nat) (sideB spi : Bool) (s : State), let a := begun dt s
    a.sys.mode = .reset → a.pwr.powered = true → a.pwr.tripped = [] → (a.pwr.resetLow = false ∨ a.dike.fatal = true) →
    a.pwr.warned = [] →
    exec (.resetRelease dt sideB spi) s = .next (after a { a with
      pwr := { a.pwr with hiZ := false, t0 := a.tb.now, watchdog := a.tb.now }
      sys := { a.sys with mode := .boot, sideB := sideB, spi := spi, role := if a.cld.present then .standby else .solo }
      cld := { a.cld with asserted := roleIn a, resyncWait := roleIn a && a.cld.present } })

/-- The boot timeline completes (R353, R376, R388, R390, R396, R248); the boot ROM reads the life cycle as it starts. (Choices: log
entries 7, 90.) -/
def Obligations.BootTimelineCompletes : Prop :=
  ∀ (dt : Nat) (s : State), let a := begun dt s
    (awake a → answers a = true → exec (.watchdogRestart dt) s = .next (after a { a with pwr := { a.pwr with watchdog := a.tb.now } })) ∧
    (a.sys.mode = .boot →
      exec (.pllLock dt) s = .next (after a { a with pwr := { a.pwr with refclk := true, plls := true } })) ∧
    (a.sys.mode = .boot → a.pwr.plls = true →
      exec (.basinTrained dt) s = .next (after a { a with pwr := { a.pwr with basin := true } })) ∧
    (a.sys.mode = .boot → a.pwr.plls = true → a.pwr.basin = true → a.pwr.wiped = false →
      exec (.wipeComplete dt) s =
        .next (after a { a with
          mbx := { msixOn := a.mbx.msixOn }, pcie := { a.pcie with pend := 0 }, pwr := { a.pwr with wiped := true },
          pld := readLc a.pld })) ∧
    (awake a → a.pwr.refclk = true →
      exec (.refclkLoss dt) s =
        .next (after a (raise 14 (releaseRole (safeValves { a with pwr := { a.pwr with refclk := false, plls := false } })))))

/-- The handover completes (R380, R382, R398): with a valid image the boot ROM measures it and starts firmware, which blocks every
valve. (Choices: log entries 16, 34, 46.) -/
def Obligations.HandoverCompletes : Prop :=
  ∀ (dt : Nat) (k : Bool) (img : List Byte) (codes : List (BitVec 14 × BitVec 14)) (jets wells : List Nat) (s : State), let a := begun dt s
    let m := { a with pld := if a.pld.log.isEmpty then measure (otpEntry a.pld) (measure Config.romDigest a.pld) else a.pld }
    let d := digestNat (imageBytes img)
    a.sys.mode = .boot → a.pwr.wiped = true → a.pwr.refclk = true → a.sys.fwRun = false → a.pwr.stopped = false →
    bootChoice a.part m.pld = some (k, img) →
    exec (.firmwareHandover dt codes jets wells) s = .next (after a (startFirmware img codes jets wells
      { m with pld := { measure d m.pld with
          fwDigest := d, slotUsed := k, keyUsed := bit (fld img 11 1) 0, imgSvn := fld img 12 4,
          imgRevoke := bit (fld img 24 1) 0 } }))

/-- The entry into Dark completes (R385, R399, R400, R344): with an authentic CAL record the fabric is prepared from it, without one
CALSTORE_AUTH occurs; wear is loaded, the channel table locked and measured, and Dark entered. (Choices: log entries 17, 35, 48, 49,
91.) -/
def Obligations.StoreLoadCompletes : Prop :=
  ∀ (dt : Nat) (r : CalRec) (s : State), let a := begun dt s
    let last := fun u : State => enterMode .dark
      { u with plat := { u.plat with lock := true },
               pld := settlePolder (measure (digestNat (chanBytes { u.plat with lock := true })) u.pld) }
    a.sys.mode = .boot → fwLive a = true → a.temp.measured = true →
    (calRecord a.pld = some r →
      let u := loadWear (prepareFabric (some (decide (r.hdr.band = 1))) r.data { a with pld := measure (digestNat (calBytes r)) a.pld })
      u.sys.mode = .boot → exec (.storeLoaded dt) s = .next (after a (last u))) ∧
    (calRecord a.pld = none →
      let u := loadWear (raise 190 { a with pld := measure 0 a.pld })
      u.sys.mode = .boot → exec (.storeLoaded dt) s = .next (after a (last u)))

/-! ### The host's window -/

/-- Accesses of the host's window complete (R262, R264, R265, R273, R275, R276, R278, R362): doorbells with their event, completions, the
interrupt mask, CONS and LOST; an aligned word of any register, any other access of the registers, a byte to a slot that is not BUSY, one
to a BUSY slot, one outside the slots, SPI writes and reads. A write of a register clears the pending message of each condition that is
served. An endpoint in D3hot refuses every access, a refused access raises PCIE_AER (R311), and before the wipe is complete none has an
effect. (Choices: log entries 42, 96, 98.) -/
def Obligations.WindowComplete : Prop :=
  ∀ (dt n k : Nat) (v : W32) (off : BitVec 16) (b hi lo op : Byte) (data : List Byte) (s : State), let a := begun dt s
    (windowLive a = true → portAsleep a = false →
      let e := ev 292 a
      exec (.mbxDoorbell dt v) s = .next (after a (servePend { e with mbx := { e.mbx with
        hostErr := e.mbx.hostErr || decide (v.extractLsb' 0 8 &&& e.mbx.busy ≠ 0)
        rung := e.mbx.rung ||| (v.extractLsb' 0 8 &&& ~~~e.mbx.busy)
        busy := e.mbx.busy ||| v.extractLsb' 0 8 } })) ∧
      exec (.mbxCompleteClear dt v) s =
        .next (after a (servePend { a with mbx := { a.mbx with done := a.mbx.done &&& ~~~(v.extractLsb' 0 8) } })) ∧
      exec (.mbxIrqMaskWrite dt v) s = .next (after a (servePend
        (forEach ((presentVectors a.mbx).filter fun k => a.mbx.irqMask.getLsbD k)
          { a with mbx := { a.mbx with irqMask := v.extractLsb' 0 11 } } fun s k => signal k
            (if k = 8 && tells s 8 then { s with mbx := { s.mbx with ringArmed := false } } else s)))) ∧
      ((a.mbx.prod - v).toNat ≤ 96 → exec (.mbxRingConsWrite dt v) s =
        .next (after a (servePend (flushLost { a with mbx := { a.mbx with cons := v, ringArmed := true } })))) ∧
      (96 < (a.mbx.prod - v).toNat → exec (.mbxRingConsWrite dt v) s =
        .next (after a (servePend { a with mbx := { a.mbx with hostErr := true } }))) ∧
      exec (.mbxRingLostRead dt) s =
        .next (after a { a with out := a.out ++ [.readData (a.mbx.lost.zeroExtend 32)], mbx := { a.mbx with lost := 0 } }) ∧
      (a.sys.spi = false →
        (data.length = 4 → off.toNat + 4 ≤ 0x1000 → off.toNat % 4 = 0 → exec (.hostWindowWrite dt off data) s =
          .next (after a (windowWrite off.toNat (BitVec.ofNat 32 (leNat data)) a))) ∧
        (off.toNat + data.length ≤ 0x10000 → off.toNat < 0x1000 → (data.length ≠ 4 ∨ off.toNat % 4 ≠ 0) →
          exec (.hostWindowWrite dt off data) s =
            .next (after a (raise 187 { a with pcie := { a.pcie with urSeen := true }, out := a.out ++ [.unsupported] }))) ∧
        (0x1000 ≤ off.toNat → off.toNat + data.length ≤ 0x10000 →
          exec (.hostWindowWrite dt off data) s = .next (after a (memoryWrites off.toNat data a))) ∧
        (slotAt off.toNat = some n → a.mbx.busy.getLsbD n = false → exec (.hostWindowWrite dt off [b]) s =
          .next (after a { a with mbx := { a.mbx with mem := sset 0 a.mbx.mem off.toNat b } })) ∧
        (slotAt off.toNat = some n → a.mbx.busy.getLsbD n = true →
          exec (.hostWindowWrite dt off [b]) s = .next (after a { a with mbx := { a.mbx with hostErr := true } })) ∧
        (0x9000 ≤ off.toNat → exec (.hostWindowWrite dt off [b]) s = .next (after a a)))) ∧
    windowWrite 0x0008 v a = servePend { a with mbx := { a.mbx with
      statChg := a.mbx.statChg && !v.getLsbD 0, faultChg := a.mbx.faultChg && !v.getLsbD 1,
      ringOvf := a.mbx.ringOvf && !v.getLsbD 2, hostErr := a.mbx.hostErr && !v.getLsbD 3 } } ∧
    (k ≠ 0x0008 → k ≠ 0x0010 → k ≠ 0x0014 → k ≠ 0x0018 → k ≠ 0x0024 → windowWrite k v a = servePend a) ∧
    (a.sys.spi = true →
      (windowLive a = true → exec (.spiTransaction dt (0x02 :: hi :: lo :: data)) s =
        .next (after a (spiWrite (hi.toNat * 256 + lo.toNat) [] data a))) ∧
      (windowLive a = true → exec (.spiTransaction dt (0x03 :: hi :: lo :: data)) s =
        .next (after a (emit (.spi (spiRead (data.length - 1) (hi.toNat * 256 + lo.toNat) none [] a).1)
          (spiRead (data.length - 1) (hi.toNat * 256 + lo.toNat) none [] a).2))) ∧
      (windowLive a = false → exec (.spiTransaction dt (0x02 :: hi :: lo :: data)) s = .next (after a a) ∧
        exec (.spiTransaction dt (0x03 :: hi :: lo :: data)) s =
          .next (after a { a with out := a.out ++ [.spi (List.replicate (data.length - 1) 0xFF)] })) ∧
      (op ≠ 0x02 → op ≠ 0x03 → exec (.spiTransaction dt (op :: data)) s = .next (after a a))) ∧
    (portAsleep a = true →
      let refused := after a (raise 187 { a with pcie := { a.pcie with urSeen := true }, out := a.out ++ [.unsupported] })
      exec (.mbxDoorbell dt v) s = .next refused ∧ exec (.mbxCompleteClear dt v) s = .next refused ∧
      exec (.mbxIrqMaskWrite dt v) s = .next refused ∧ exec (.mbxRingConsWrite dt v) s = .next refused ∧
      exec (.mbxRingLostRead dt) s = .next refused ∧
      (off.toNat + data.length ≤ 0x10000 → exec (.hostWindowWrite dt off data) s = .next refused)) ∧
    (windowLive a = false → portAsleep a = false →
      exec (.mbxDoorbell dt v) s = .next (after a a) ∧ exec (.mbxCompleteClear dt v) s = .next (after a a) ∧
      exec (.mbxIrqMaskWrite dt v) s = .next (after a a) ∧ exec (.mbxRingConsWrite dt v) s = .next (after a a) ∧
      exec (.mbxRingLostRead dt) s = .next (after a { a with out := a.out ++ [.readData 0xFFFFFFFF] }) ∧
      exec (.hostWindowWrite dt off data) s = .next (after a a))

/-- Acceptance completes (R270, R274, R371): each slot rung is taken in turn, in ascending order. A LENGTH above 4,080 is answered at once,
whatever else the frame holds, and so is an unsound frame or an unknown opcode; a sound frame of a known opcode becomes a command of its
slot, and a CONNECT or CONFIG_APPLY may be tagged. A barrier falls once nothing accepted before it is still due. (Choices: log entry 3.) -/
def Obligations.AcceptanceCompletes : Prop :=
  ∀ (dt n code : Nat) (c : SlotCmd) (s : State), let a := begun dt s
    awake a → n < 8 →
    (served a 0x0100 = true →
      exec (.commandAcceptance dt) s = .next (after a (forEach (ones 8 a.mbx.rung) a fun s n => acceptSlot n s))) ∧
    (∀ u : State, let h := slotHeader u n
      let w := { u with mbx := { u.mbx with rung := setBit u.mbx.rung n false } }
      let b := { w with mbx := { w.mbx with cmds := w.mbx.cmds ++
        [{ slot := n, opcode := fld h 0 2, seq := BitVec.ofNat 16 (fld h 2 2), notify := bit (fld h 8 4) 0,
           barrier := bit (fld h 8 4) 1 && !u.mbx.cmds.isEmpty, acc := u.tb.now }] } }
      (4080 < fld h 4 4 → acceptSlot n u = respond n (fld h 0 2) (fld h 2 2) 0x10 [] w) ∧
      (fld h 4 4 ≤ 4080 → frameFails w h (slotPayload u n) = some code →
        acceptSlot n u = respond n (fld h 0 2) (fld h 2 2) code [] w) ∧
      (fld h 4 4 ≤ 4080 → frameFails w h (slotPayload u n) = none →
        acceptSlot n u = if fld h 0 2 = 0x0202 ∨ fld h 0 2 = 0x0206 then tagEnter (some n) none b else b)) ∧
    (cmdAt a n = some c → c.barrier = true → (a.mbx.cmds.takeWhile (· != c)) = [] →
      exec (.barrierStart dt n) s = .next (after a { a with mbx := { a.mbx with
        cmds := a.mbx.cmds.map fun x => if x = c then { x with barrier := false } else x } }))

/-! ### Host commands -/

/-- R285: the first check that fails decides. In this order a command outside its mode set is answered MODE, one whose life cycle
forbids it LIFE_CYCLE, one in a role that may not give it ROLE, and one whose group is busy BUSY. (Choices: log entry 3.) -/
def Obligations.ChecksInOrder : Prop :=
  ∀ (q : Req) (dt slot : Nat) (c : SlotCmd) (effect : SlotCmd → List Byte → State → State) (s : State), let a := begun dt s
    let p := slotPayload a slot
    let answer := fun code => hostCmd q dt slot effect s =
      .next (after a (tagDrop (tagOfSlot slot) (finish c (c.opcode / 256 * 256 + code) [] a)))
    awake a → served a q.opcode = true → readyCmd a slot q.opcode = some c →
    (q.modes a.sys.mode = false → answer 3) ∧
    (q.modes a.sys.mode = true → q.lcBad a p = true → answer 7) ∧
    (q.modes a.sys.mode = true → q.lcBad a p = false → q.roles a.sys.role = false → answer 4) ∧
    (q.modes a.sys.mode = true → q.lcBad a p = false → q.roles a.sys.role = true → busyNow a q.opcode = true → answer 5)

/-- R268 and R273: a response stands in its slot, header, CRC and payload; BUSY clears and DONE is set; nothing outside the slot's
bytes changes, no register of the window but BUSY and DONE, and nothing else of the device but the message sent or left pending. -/
def Obligations.ResponseWritten : Prop :=
  ∀ (n opcode seq status : Nat) (payload : List Byte) (s : State), n < 8 → payload.length ≤ 4080 →
    let t := respond n opcode seq status payload s
    let frame := frameBytes opcode seq status payload
    mread t.mbx.mem (slotBase n) frame.length = frame ∧
    (∀ x, x < slotBase n ∨ slotBase n + frame.length ≤ x → sget 0 t.mbx.mem x = sget 0 s.mbx.mem x) ∧
    (∀ k, t.mbx.busy.getLsbD k = (s.mbx.busy.getLsbD k && !decide (k = n))) ∧
    (∀ k, t.mbx.done.getLsbD k = (s.mbx.done.getLsbD k || decide (k = n))) ∧
    t = { s with mbx := { s.mbx with mem := t.mbx.mem, busy := t.mbx.busy, done := t.mbx.done }, out := t.out,
                 pcie := { s.pcie with pend := t.pcie.pend } } ∧
    (s.mbx.done.getLsbD n = true → t.out = s.out ∧ t.pcie = s.pcie)

/-- System commands complete (R272, R287 to R289): identity and status, RESET, SET_MODE, CALIBRATE. (Choices: log entries 3, 45, 49.) -/
def Obligations.SystemCommandsComplete : Prop :=
  ∀ (dt slot : Nat) (c : SlotCmd) (p : List Byte) (s : State), let a := begun dt s
    (due a slot 0x0100 c [] → exec (.identify dt slot) s = .next (after a (finish c 0 (identifyBytes a) a))) ∧
    (due a slot 0x0101 c [] → exec (.status dt slot) s = .next (after a (finish c 0 (statusBytes a) a))) ∧
    (due a slot 0x0102 c [0, 0, 0, 0] → (inRun a.sys.mode ∨ a.sys.mode = .safe) → a.dike.fatal = false →
      let b := loseCommands (finish c 0 [] (keepWear a))
      exec (.reset dt slot) s = .next (after a { b with sys := { b.sys with resetAt := some (b.tb.now + ns 10000) } })) ∧
    (due a slot 0x0103 c p → inRun a.sys.mode → p.length = 4 → fld p 1 3 = 0 → reachable a.sys.mode (fld p 0 1) →
      a.sys.trans = none → (fld p 0 1 = 1 → lcNow a ≠ .returned ∧ calibrated a) →
      let b := hold c a
      exec (.setMode dt slot) s = .next (after a { b with sys := { b.sys with
        trans := some ⟨targetMode (fld p 0 1), slot, a.jets.round, false⟩ } })) ∧
    (due a slot 0x0104 c p → a.sys.mode = .dark → p.length = 4 + 2 * fld p 2 2 → calBad p = false →
      (∀ k ∈ calCellsOf p, k < a.part.cells) → noDefer a = false →
      let b := deferCmd c a
      exec (.calibrate dt slot) s = .next (after a (openEqualisers (enterMode .calibrate { b with sys := { b.sys with
        calFull := decide (fld p 0 1 = 0), calBand := bit (fld p 1 1) 0, calCells := calCellsOf p } }))))

/-- A command-driven mode change and a calibration's end complete (R14, R16, R17, R136, R137, R287, R289, R400): in a later Jet round than
its order the mode is entered, and a degraded condition turns Operate into Degraded; in a later round than that the command is answered
with the MODE and ROLE of then. Of a calibration whose steps could all be measured the coupling rows are computed and chosen and its results
are in force; on success the store is written and a full run makes the calibration valid, and otherwise it is not written, conditions and
band stay, and the measured cells are left uncalibrated; Dark is entered; the deferred CALIBRATE ends with its result. A response's
coefficient is the change averaged over rounds 256 to 511 by the change in the source's heat word. (Choices: log entries 8, 18, 47, 62, 116,
124.) -/
def Obligations.ModeChangeCompletes : Prop :=
  ∀ (dt : Nat) (t : Trans) (c : SlotCmd) (r : CalResult) (ms : W32) (s : State), let a := begun dt s
    (awake a → fwLive a = true → a.sys.trans = some t → t.made = false → t.round ≠ a.jets.round →
    let m := nextMode a.sys t
    exec (.modeChange dt) s = .next (after a (settleDegraded (enterMode m { a with sys := { a.sys with
      trans := some { t with round := a.jets.round, made := true }
      fromDark := if m = .maintenance then decide (a.sys.mode = .dark) else a.sys.fromDark } })))) ∧
    (a.sys.trans = some t → t.made = true → t.round ≠ a.jets.round →
      answerMode a = finishSlot t.slot 0 (le 1 (modeCode a.sys.mode) ++ le 1 (roleCode a.sys.role) ++ zeros 2)
        { a with sys := { a.sys with trans := none } }) ∧
    (fwLive a = true → a.sys.mode = .calibrate →
    let x := fitMatrix a (calNamed a) (stepRows a.part r)
    x.bad = [] → (unmeasured a.part (calNamed a) r).filter (· < a.part.cells) = [] →
    let left := if a.sys.calFull then [] else a.sys.uncal.filter fun k => !a.sys.calCells.contains k
    (let v := useResults true [] [] x.touched x.cal a
     let u := { v with sys := { v.sys with calValid := a.sys.calFull || a.sys.calValid, uncal := left } }
     let d := enterMode .dark { u with pld := storeCal (u.sys.band.getD false) u.cal u.pld }
     deferredCmd d 0x0104 = some c →
     exec (.calibrationEnd dt true [] [] r ms) s =
        .next (after a (finish c 0 (le 1 0 ++ zeros 1 ++ le 2 0 ++ le 4 ms.toNat ++ le 8 0) d))) ∧
    (let v := useResults false [] [] x.touched x.cal a
     let d := enterMode .dark { v with sys := { v.sys with
       calValid := a.sys.calValid, uncal := (List.range a.part.cells).filter (calNamed a) ++ left } }
     deferredCmd d 0x0104 = some c →
     exec (.calibrationEnd dt false [] [] r ms) s =
        .next (after a (finish c 0 (le 1 1 ++ zeros 1 ++ le 2 0 ++ le 4 ms.toNat ++ le 8 0) d)))) ∧
    (∀ x : Response, x.after.length = 512 →
      let v := quot (((x.after.drop 256).map fun y => y - x.before).sum) (256 * x.heat)
      v < 32768 → -32768 ≤ v → (coefOf x).a.toInt = v ∧ (coefOf x).source = x.source ∧ (coefOf x).dh = x.dh)

/-! ### Domains, connections, configurations and the route engine -/

/-- CONNECT, CONFIG_DEFINE and CELL_MARK complete their part (R45, R291 to R293): the command waits for its route, which is asked of the
engine behind those that wait. (Choices: log entries 3, 33, 92.) -/
def Obligations.RoutingCommandsComplete : Prop :=
  ∀ (dt slot : Nat) (c : SlotCmd) (p : List Byte) (s : State), let a := begun dt s
    let b := hold c a
    (due a slot 0x0202 c p → inSvc a.sys.mode → roleLit a.sys.role → p.length = 516 → fld p 2 1 ≤ 1 → fld p 3 1 = 0 →
      mapForm a (BitVec.ofNat 16 (fld p 0 2)) (sub p 4 512) → mapRange a (sub p 4 512) →
      notStatic a (BitVec.ofNat 16 (fld p 0 2)) = false →
      exec (.connect dt slot) s = .next (after a { b with fab := { b.fab with queue := b.fab.queue ++
        [{ origin := .connect slot 0 (bit (fld p 2 1) 0), want := mapConns (sub p 4 512),
           scope := BitVec.ofNat 16 (fld p 0 2) }] } })) ∧
    (due a slot 0x0203 c p → inSvc a.sys.mode → roleLit a.sys.role → p.length = 520 → fld p 4 1 ≤ 1 → fld p 5 3 = 0 →
      mapForm a (BitVec.ofNat 16 (fld p 2 2)) (sub p 8 512) → mapRange a (sub p 8 512) →
      ((cfgOf a.fab (fld p 0 2)).valid → bit (fld p 4 1) 0) →
      (∀ d ∈ namers a (fld p 0 2), BitVec.ofNat 16 (fld p 2 2) = bitAt 16 d) →
      exec (.configDefine dt slot) s = .next (after a { b with fab := { b.fab with queue := b.fab.queue ++
        [{ origin := .define slot (fld p 0 2) (BitVec.ofNat 16 (fld p 2 2)), want := mapConns (sub p 8 512),
           scope := BitVec.ofNat 16 (fld p 2 2), forEntry := !(namers a (fld p 0 2)).isEmpty }] } })) ∧
    (due a slot 0x0207 c p → inSvc a.sys.mode → p.length = 4 → fld p 3 1 = 0 → fld p 0 2 < a.part.cells → 1 ≤ fld p 2 1 →
      fld p 2 1 ≤ 3 →
      exec (.cellMark dt slot) s = .next (after a (markCell (fld p 0 2) (condOf (fld p 2 1)) (some slot) b)))

/-- Domain commands, SET_GAP and the configuration and cell commands without a route complete (R24, R43, R139, R182, R290, R292, R293).
(Choices: log entry 3.) -/
def Obligations.ConfigurationCommandsComplete : Prop :=
  ∀ (dt slot : Nat) (c : SlotCmd) (p : List Byte) (s : State), let a := begun dt s
    let n := fld p 0 2
    (due a slot 0x0200 c p → a.sys.mode = .dark → roleLit a.sys.role → p.length = 532 → fld p 530 2 = 0 →
      (∀ k < 256, a.part.ports ≤ k → fld p k 1 = 0 ∧ fld p (256 + k) 1 = 0) → (∀ b ∈ sub p 0 512, b.toNat ≤ 15) →
      (∀ b ∈ sub p 512 16, b.toNat ≤ 2) → crossDomain (domainsOf a.part p) a.fab.conns = false →
      exec (.domainSet dt slot) s = .next (after a (finish c 0 [] (setDomains (domainsOf a.part p) a)))) ∧
    (due a slot 0x0201 c [] → inRun a.sys.mode →
      exec (.domainGet dt slot) s = .next (after a (finish c 0 (domainBytes a.fab.dom) a))) ∧
    (due a slot 0x0209 c p → a.sys.mode = .dark → p.length = 4 → fld p 2 2 = 0 → 600 ≤ fld p 0 2 → fld p 0 2 ≤ 10000 →
      exec (.setGap dt slot) s =
        .next (after a (finish c 0 [] { a with jets := { a.jets with gap := BitVec.ofNat 14 (fld p 0 2) } }))) ∧
    (due a slot 0x0204 c p → inSvc a.sys.mode → roleLit a.sys.role → p.length = 4 → fld p 2 2 = 0 → (cfgOf a.fab n).valid →
      namers a n = [] →
      let b := { a with fab := { a.fab with configs := smod {} a.fab.configs n fun r => { r with valid := false } } }
      exec (.configDelete dt slot) s = .next (after a (finish c 0 [] (mirror (configItem b n) b)))) ∧
    (due a slot 0x0205 c p → inRun a.sys.mode → p.length = 4 → fld p 2 2 = 0 →
      exec (.configRead dt slot) s = .next (after a (finish c 0 (recordBytes a n) a))) ∧
    (due a slot 0x0206 c p → inSvc a.sys.mode → roleLit a.sys.role → p.length = 4 → fld p 2 2 = 0 →
      (cfgOf a.fab n).valid → notStatic a (cfgOf a.fab n).scope = false → compatibleNow a n →
      exec (.configApply dt slot) s = .next (after a (tagStage (tagOfSlot slot) 1 (applyReady slot n 0 (hold c a))))) ∧
    (due a slot 0x0208 c p → inRun a.sys.mode → p.length = 4 → 1 ≤ fld p 2 2 → fld p 2 2 ≤ 2048 → n + fld p 2 2 ≤ a.part.cells →
      exec (.cellRead dt slot) s = .next (after a
        (finish c 0 ((List.range (fld p 2 2)).flatMap fun i => le 1 (sget 0 a.fab.cond (n + i)).toNat) a)))

/-- The engine's work completes (R45 to R53, R126, R432): it begins the first request that waits; a CONNECT's route ends in an answer or
on its way to be armed, or begins again where another reconfiguration was armed while it was computed; the first route that is ready is
armed. (Choices: log entries 13, 21, 26, 58, 59, 121.) -/
def Obligations.RouteEngineCompletes : Prop :=
  ∀ (dt cell k tries : Nat) (cond : Cond) (check : Bool) (q : RouteReq) (rest : List RouteReq) (r : Routed) (ready : List Routed)
    (s : State), let a := begun dt s
    awake a → slcClock a = true →
    (a.fab.active = none → a.fab.queue = q :: rest →
      let x := routeEngine a.fab.routes (requestOf a q) (requestOf (unprotected a) q)
      exec (.routeRequest dt) s = .next (after a { a with fab := { a.fab with
        queue := rest, routes := a.fab.routes + 1,
        active := some { req := q, report := x.1, cells := x.2, conns := (requestOf a q).after, armSeq := a.fab.seq } } })) ∧
    (a.fab.active = some r → r.req.origin = .connect k tries check → r.armSeq ≠ a.fab.seq →
      exec (.routeComplete dt) s =
        .next (after a { a with fab := { a.fab with active := none, queue := r.req :: a.fab.queue } })) ∧
    (a.fab.active = some r → r.req.origin = .connect k tries check → r.armSeq = a.fab.seq →
      let b := { a with fab := { a.fab with active := none } }
      (Disturb.rejected r.report = true →
        exec (.routeComplete dt) s =
          .next (after a (tagDrop (tagOfSlot k) (finishSlot k 0x0220 (disturbBytes r.report) b)))) ∧
      (Disturb.rejected r.report = false → check = true →
        exec (.routeComplete dt) s =
          .next (after a (tagDrop (tagOfSlot k) (finishSlot k 0 (disturbBytes r.report) b)))) ∧
      (Disturb.rejected r.report = false → check = false →
        exec (.routeComplete dt) s = .next (after a (tagStage (tagOfSlot k) 1
          { b with fab := { b.fab with ready := b.fab.ready ++ [r] } })))) ∧
    (a.fab.ready = r :: ready → r.req.origin = .connect k tries check → (∀ x ∈ ready, x.req.origin.isReroute = false) →
      r.armSeq = a.fab.seq →
      let b := { a with fab := { a.fab with ready := ready } }
      let soon := b.tb.now + armLead
      exec (.reconfArm dt) s =
        .next (after a (tagArm (tagOfSlot k) b.fab.seq (arm soon (r.target b soon 0xFFFFFFFF) b)))) ∧
    (fwLive a = true → inSvc a.sys.mode = true →
      exec (.cellFailureReroute dt cell cond) s = .next (after a (markCell cell cond none a))) ∧
    (∀ n, fwLive a = true → a.sys.mode ≠ .safe → a.fab.active = none →
      (a.fab.queue.any fun x => x.origin.isReroute) = false → bgNext a = some n →
      let x := rerouteRecord a n ((cfgOf a.fab n).entryRouted || (namedConfigs a).contains n)
      let b := { a with fab := { a.fab with routes := a.fab.routes + 1 } }
      Disturb.rejected x.1 = false →
      exec (.backgroundRerouteDone dt) s =
        .next (after a (notify 0xE (le 2 n ++ le 1 0 ++ zeros 1 ++ le 4 (sget 0 a.fab.fired n)) (putRecord n x.2 b))))

/-- R22, R41 and R49: a request that joins ports of different domains is rejected with code 3, one that names a port twice with code 5, and
a rejection leaves every cell as it is. -/
def Obligations.EngineRejections : Prop :=
  ∀ (rank : Nat) (r free : RouteIn),
    ((∃ e ∈ r.after, sget 0 r.dom.ing e.1 ≠ sget 0 r.dom.egr e.2) →
      (routeEngine rank r free).1.outcome = 3 ∧ (routeEngine rank r free).2 = r.base) ∧
    ((∀ e ∈ r.after, sget 0 r.dom.ing e.1 = sget 0 r.dom.egr e.2) →
      ¬((r.after.map (·.1)).Nodup ∧ (r.after.map (·.2)).Nodup) →
      (routeEngine rank r free).1.outcome = 5 ∧ (routeEngine rank r free).2 = r.base) ∧
    (Disturb.rejected (routeEngine rank r free).1 = true → (routeEngine rank r free).2 = r.base)

/-- R48 and R50: what a route's report says of the change. FLIPS counts the cells of the part whose state changes, and OUTCOME is 0
exactly where no unchanged connection has moved. (Choices: log entries 13, 21, 59.) -/
def Obligations.EngineReport : Prop :=
  ∀ (rank : Nat) (r free : RouteIn), let x := routeEngine rank r free
    Disturb.rejected x.1 = false →
    x.1.flips = (ones r.part.cells (x.2 ^^^ r.base)).length ∧
    x.1.moved = (movedConns r.strict x.2).length ∧
    (x.1.outcome = 0 ↔ movedConns r.strict x.2 = []) ∧ (x.1.outcome = 0 ∨ x.1.outcome = 1) ∧
    x.1.blocker = 0xFFFFFFFF ∧ (x.1.phase = 1 ∨ x.1.phase = 2 ∨ x.1.phase = 3)

/-- R30 to R33: the wiring between two stages is a permutation of the lines; and whatever the cells' states, light from each ingress
port leaves by an egress port of the part, and the port that it comes from is found by going back from there: the fabric is a
permutation of its ports. -/
def Obligations.FabricIsAPermutation : Prop :=
  (∀ (p : Part) (k x : Nat), k < p.stages → x < p.ports →
    wire p k x < p.ports ∧ unwire p k x < p.ports ∧ unwire p k (wire p k x) = x ∧ wire p k (unwire p k x) = x) ∧
  (∀ (p : Part) (v : CellMap) (n : Nat), n < p.ports →
    pathEnd p v n < p.ports ∧ pathStart p v (pathEnd p v n) = n ∧ pathStart p v n < p.ports ∧ pathEnd p v (pathStart p v n) = n)

/-! ### The reconfiguration sequence -/

/-- The sequence's commands complete (R129 to R132, R135, R143, R149, R197): T_close, T_dark, the read-back, T_open, the settle deadline.
(Choices: log entry 2.) -/
def Obligations.SequenceCompletes : Prop :=
  ∀ (r : Reconf) (mismatch : List Nat) (s : State), let a := begun 0 s
    awake a →
    (firstIn .armed a.fab = some r →
      let b := setReconf r.seq (fun x => { x with phase := .closed }) (seqValves r r.closure (fun _ => false) (reach r.tClose a))
      exec .tClose s = .next (after a (tagStage (tagOfSeq r.seq) 3
        (followClosed r (forEach (r.entries.filter (·.tracked)) (ev 273 b) fun s e => fireEntry e.entry s))))) ∧
    (firstIn .closed a.fab = some r →
      exec .tDark s = .next (after a (reheat r.flips (darkWrites r (reach (tDarkOf r.tClose) a))))) ∧
    (firstIn .dark a.fab = some r →
      let bad := mismatch.eraseDups.filter fun c => r.flips.getLsbD c && !flipRefused a c
      let b := setReconf r.seq (fun x => { x with unmade := x.unmade + bad.length }) (reach (tDarkOf r.tClose + ns 30) a)
      exec (.levelReadback mismatch) s = .next (after a (if r.flips = 0 then b
        else if inverted b 164 || bad.isEmpty then checkNow 164 b else raise 164 b))) ∧
    (firstIn .dark a.fab = some r → exec .tOpen s = .next (after a (tagStage (tagOfSeq r.seq) 4 (doOpen a)))) ∧
    (firstIn .opened a.fab = some r →
      exec .settleDeadline s = .next (after a (tagStage (tagOfSeq r.seq) 5
        (setReconf r.seq (fun x => { x with phase := .judged, late := x.todo })
          (reach (tOpenOf r.tClose r.gap + settleTime a.jets.rate) a)))))

/-- R130 and R148: at T_open the valves of the opening set are written with OPEN_CODE where mode and role let light out and no insertion
holds them, and with BLOCK_CODE elsewhere; no other valve is written, and the sequence moves on to its judgement. (Choices: log
entry 2.) -/
def Obligations.OpeningWritesTheValves : Prop :=
  ∀ (r : Reconf) (s : State), firstIn .dark s.fab = some r → (∀ n < s.part.ports, valveRefused s n = false) →
    let t := doOpen s
    (∀ n < s.part.ports, r.opening.getLsbD n = true →
      t.fab.openPorts.getLsbD n = (valvesLive s.sys && !(insertBlocked s).getLsbD n) ∧
      (sget {} t.dac.port (256 + n) : PortDac).code =
        (if valvesLive s.sys && !(insertBlocked s).getLsbD n then openCode s n else blockCode s n)) ∧
    (∀ n < s.part.ports, r.opening.getLsbD n = false →
      t.fab.openPorts.getLsbD n = s.fab.openPorts.getLsbD n ∧ sget {} t.dac.port (256 + n) = sget {} s.dac.port (256 + n)) ∧
    (∃ x ∈ t.fab.recon, x.seq = r.seq ∧ x.phase = .opened) ∧ (∀ x ∈ t.fab.recon, x.seq = r.seq → x.phase = .opened) ∧
    t.fab.lastClose = some r.tClose ∧ t.fab.cells = s.fab.cells ∧ t.fab.conns = s.fab.conns

/-- R95, R132 and R430: a level write makes the flip level what is asked; where that changes it, the loop's demodulation is negated and
its STATE set, and a flip is counted where the level rises; a write of the level that stands leaves the loop as it is. Every other cell's
driver and loop stay as they were, and so do the cells' applied states. -/
def Obligations.LevelWrite : Prop :=
  ∀ (c : Nat) (level : Bool) (s : State), let t := writeLevel c level s
    (sget {} t.dac.flip c : Flip).level = level ∧
    ((sget {} s.dac.flip c : Flip).level ≠ level →
      (loopOf t c).desc.st = level ∧ (loopOf t c).desc.con = -(loopOf s c).desc.con ∧
      (loopOf t c).desc.iAcc = -(loopOf s c).desc.iAcc ∧ (loopOf t c).desc.qAcc = -(loopOf s c).desc.qAcc) ∧
    ((sget {} s.dac.flip c : Flip).level = level → loopOf t c = loopOf s c) ∧
    (sget {} t.wear c : Wear).addFlips =
      (sget {} s.wear c : Wear).addFlips + (if level ∧ (sget {} s.dac.flip c : Flip).level = false then 1 else 0) ∧
    (∀ k, k ≠ c → sget {} t.dac.flip k = sget {} s.dac.flip k ∧ loopOf t k = loopOf s k) ∧
    t.dac.port = s.dac.port ∧ t.dac.htr = s.dac.htr ∧ t.fab = s.fab ∧ t.mbx = s.mbx ∧ t.sys = s.sys

/-- A reconfiguration's report completes (R149, R150): the path power check's mismatches, the notification and its event, the mirrored
map, the checks of R432, and the answer of the command behind it. (Choices: log entries 60, 61, 119.) -/
def Obligations.ReconfReportCompletes : Prop :=
  ∀ (dt : Nat) (r : Reconf) (s : State), let a := begun dt s
    awake a → fwLive a = true → a.fab.recon.find? (fun r => decide (r.phase = .judged ∨ r.phase = .abandoned)) = some r →
    r.phase = .judged → r.late = [] → r.entries = [] → r.todo = [] → r.source = 0 →
    let u := { a with fab := { a.fab with recon := a.fab.recon.filter fun x => x.seq ≠ r.seq } }
    let bad := if r.noWrites then 0 else (powerFails a r).length
    let b := ev 275 (notifyAt u.tb.now 2 (aboutSlot u (originSlot r.origin) 0) false (reconfBytes a.part r bad false) u)
    let d := if bad = 0 then b else ev 277 b
    exec (.reconfReport dt r.seq) s = .next (after a (tagStage (tagOfSeq r.seq) 6
      (answerOrigin r (reconfBytes a.part r bad false) (recheckConfigs (mirror (.applied d.fab.conns r.seq) d)))))

/-! ### Loops, Jets, wells and ladders -/

/-- Loop commands complete (R42, R79, R92, R106 to R108, R110, R111, R114, R123, R294, R295): reading, a bank, parameters, enabling and
disabling, RECENTRE, which waits for the next round start and is made there, RANGE_SET, SET_RATE and LOOP_CFG. An OPAQUE cell's loop
is not enabled, and its heaters' range stays.
(Choices: log entries 3, 11, 18, 63, 115.) -/
def Obligations.LoopCommandsComplete : Prop :=
  ∀ (dt slot : Nat) (c : SlotCmd) (p : List Byte) (s : State), let a := begun dt s
    let l := fld p 0 2
    (due a slot 0x0300 c p → inRun a.sys.mode → p.length = 4 → fld p 2 2 = 0 → l < a.part.loops →
      exec (.loopRead dt slot) s = .next (after a
        (modLoop l (fun v => { v with hops := 0, skips := 0, clamps := 0 }) (finish c 0 (loopBytes a l) a)))) ∧
    (due a slot 0x0301 c p → inRun a.sys.mode → p.length = 48 → fld p 3 1 = 0 → fld p 2 1 < 32 → paramsBad a p = false →
      l < a.part.loops → bit (fld p 2 1) 0 = true → jetCycles a l (bankOf (sub p 4 32)) ≤ jetRoom a →
      exec (.loopSet dt slot) s = .next (after a (setBank l (bankOf (sub p 4 32)) (setParams l p (hold c a))))) ∧
    (due a slot 0x0301 c p → inRun a.sys.mode → p.length = 48 → fld p 3 1 = 0 → fld p 2 1 < 32 → paramsBad a p = false →
      l < a.part.loops → bit (fld p 2 1) 0 = false →
      exec (.loopSet dt slot) s = .next (after a (finish c 0 [] (setParams l p a)))) ∧
    (due a slot 0x0302 c p → inRun a.sys.mode → p.length = 4 → fld p 3 1 = 0 → l < a.part.loops → fld p 2 1 = 1 →
      forerunnerOn a l = false → (loopOf a l).enabled = false →
      exec (.loopEnable dt slot) s = .next (after a (finish c 0 [] (startLoop l a)))) ∧
    (due a slot 0x0302 c p → inRun a.sys.mode → p.length = 4 → fld p 3 1 = 0 → l < a.part.cells → fld p 2 1 = 0 →
      onPath a l = false → exec (.loopEnable dt slot) s = .next (after a (finish c 0 [] (stopLoop l a)))) ∧
    (due a slot 0x0303 c p → inSvc a.sys.mode → p.length = 4 → fld p 2 2 = 0 → l < a.part.cells → recentreBad a l = false →
      exec (.recentre dt slot) s = .next (after a (hold c a))) ∧
    (∀ u : State, u.mbx.cmds = [c] → c.started = true → c.deferred = false → c.opcode = 0x0303 →
      let k := fld (slotPayload u c.slot) 0 2
      let x := recentreOf u k
      let b := modLoop k (fun v => { v with desc := { v.desc with base := x.2.1, integ := x.2.2 } }) u
      (x.1 = 0 → recentreAll u = finish c 0 (le 1 0 ++ zeros 3) b) ∧
      (x.1 ≠ 0 → litThrough u k = false → recentreAll u = finish c 0 (le 1 x.1 ++ zeros 3)
        (notifyHop k (decide (x.1 = 2)) (some { opcode := 0x0303, seq := c.seq.toNat, status := 0, slot := c.slot })
          (ev (runnerOf b k) (modLoop k (fun v => { v with hops := satInc v.hops }) b))))) ∧
    (due a slot 0x0304 c p → inRun a.sys.mode → p.length = 4 → fld p 3 1 = 0 → l < a.part.cells → fld p 2 1 ≤ 1 →
      let n := htrIdx l (loopOf a l).desc.htrB
      let range := decide (fld p 2 1 = 1)
      ((htrOf a n).rcBusy = true →
        exec (.rangeSet dt slot) s = .next (after a (modHtr n (fun h => { h with rcSlot := some slot }) (hold c a)))) ∧
      ((htrOf a n).rcBusy = false → (htrOf a n).range = range ∨ frozenCell a l = true →
        exec (.rangeSet dt slot) s = .next (after a (finish c 0 [] a))) ∧
      ((htrOf a n).rcBusy = false → (htrOf a n).range ≠ range → frozenCell a l = false →
        exec (.rangeSet dt slot) s = .next (after a (modHtr n (fun h => { h with rcSlot := some slot })
          (modHtr n (fun h => if h.rcBusy || h.range == range then h
            else { h with range := range, rcBusy := true, held := h.code }) (hold c a)))))) ∧
    (l < a.part.cells → frozenCell a l = true → startLoop l a = a) ∧
    (due a slot 0x0305 c p → (a.sys.mode = .calibrate ∨ a.sys.mode = .dark) → p.length = 4 → fld p 1 3 = 0 → fld p 0 1 ≤ 2 →
      let b := hold c a
      exec (.setRate dt slot) s =
        .next (after a { b with jets := { b.jets with newRate := some (BitVec.ofNat 2 (fld p 0 1)) } })) ∧
    (due a slot 0x0306 c p → inRun a.sys.mode → p.length = 8 → fld p 5 1 = 0 → 1 ≤ fld p 0 4 → fld p 0 4 ≤ 604800 →
      fld p 4 1 ≠ 0 → fld p 6 2 ≠ 0 →
      exec (.loopCfg dt slot) s = .next (after a (finish c 0 [] { a with jets := { a.jets with
        horizon := BitVec.ofNat 32 (fld p 0 4)
        regs := smap {} (a.part.jets + a.part.spares) a.jets.regs fun _ x =>
          { x with limit := BitVec.ofNat 8 (fld p 4 1), win := BitVec.ofNat 16 (fld p 6 2) } } })))

/-- Wells complete (R55 to R57, R59, R61, R70, R71): settings wait for a frame start, a frame converts its entries, the start-up delay
ends, range selection steps the gain, a slice's failure raises its source; each result tagged clipped raises its event (R362). (Choices: log
entries 7, 9, 23, 24, 136.) -/
def Obligations.WellsComplete : Prop :=
  ∀ (dt w e ch : Nat) (v : W32) (late : Bool) (raw : List Nat) (t : Time) (s : State), let a := begun dt s
    let x := wellOf a w
    awake a → w < a.part.jets + a.part.spares →
    (a.pwr.refclk = true → schedOk x e (schedFrom v) = true →
      exec (.wellSchedWrite dt w e v late) s =
        .next (after a (modWell w (fun x => { x with pend := x.pend ++ [.sched (flag late) e (schedFrom v)] }) a))) ∧
    (a.pwr.refclk = true → ch < 72 → chanOk (chanFrom v) = true → (chanFrom v).filtK = 0 →
      exec (.wellChanWrite dt w ch v late) s =
        .next (after a (modWell w (fun x => { x with pend := x.pend ++ [.chan (flag late) ch (chanFrom v)] }) a))) ∧
    (a.pwr.refclk = true →
      let b := modWell w (fun _ => frameOf a.tb.now raw x) a
      exec (.wellFrame dt w raw) s = .next (after a (checkNow (88 + w)
        (forEach (frameClips a.tb.now raw x) b fun s t => evAt t (136 + w) s)))) ∧
    (x.wakeAt = some t → t + ns 1200 ≤ a.tb.now →
      exec (.wellWakeEnd dt w) s = .next (after a (modWell w (fun x => { x with wakeAt := none }) a))) ∧
    (ch < 72 → 4 ≤ (sget {} x.win ch : Window).clips → (chanOf x ch).gain ≠ 0 →
      exec (.rangeStepDown dt w ch) s = .next (after a (modWell w (stepGain a.tb.now ch ((chanOf x ch).gain - 1)) a))) ∧
    (ch < 72 → 1024 ≤ (sget {} x.win ch : Window).lows → (chanOf x ch).gain ≠ 3 →
      exec (.rangeStepUp dt w ch) s = .next (after a (modWell w (stepGain a.tb.now ch ((chanOf x ch).gain + 1)) a))) ∧
    exec (.wellSliceFail dt w) s = .next (after a (raise (88 + w) a))

/-- Takeovers complete (R74, R81, R121, R340): a sound idle spare takes a failed well's taps or a failed Jet's loops, each valve's SAFE_CODE
written with its descriptor. (Choices: log entries 46, 138.) -/
def Obligations.TakeoversComplete : Prop :=
  ∀ (dt w j : Nat) (s : State), let a := begun dt s
    let sp := spareWell a.part w
    let q := a.part.jets + spareGroup a.part j
    awake a → fwLive a = true → a.sys.mode ≠ .safe →
    (w < a.part.jets → (wellOf a w).failed = true → (wellOf a w).away = false →
      a.dike.wellSpare.contains (spareGroup a.part w) = false → (wellOf a sp).failed = false → (jetOf a w).takenBy = none →
      let b := modJet w (fun j => { j with wellSel := some sp })
        (modWell w (fun x => { x with away := true }) (modWell sp (takeTaps (w % 16) (wellOf a w)) a))
      let d := { b with dike := { b.dike with wellSpare := spareGroup a.part w :: b.dike.wellSpare } }
      exec (.wellTakeover dt w) s = .next (after a (ev 293 (notify 0xF (wearBody 6 0 w sp) d)))) ∧
    (j < a.part.jets → (jetOf a j).failed = true → (jetOf a j).takenBy = none →
      a.dike.jetSpare.contains (spareGroup a.part j) = false → (jetOf a q).failed = false → seqBusy a.fab = false →
      insertingIn a j = false →
      let taking := fun y : Jet =>
        { y with takeIdx := BitVec.ofNat 4 (j % 16), takeEn := true, wellSel := some ((jetOf a j).wellSel.getD j), run := true,
                 cap := (jetOf a j).cap }
      let b := modJet q taking (modJet j (fun x => { x with takenBy := some q, remap := true }) a)
      let d := forEach (loopsOfJet a.part j) b fun s l =>
        let u := modLoop l (fun v => takenLoop (valveInteg s l) (spareCopy s true q l v) v) (lockEvent l s)
        if kindOf u.part l = .valve then
          modPortDac (portIdx u.part l) (fun x => { x with safeCode := (loopOf u l).desc.setpt.extractLsb' 16 14 }) u
        else u
      exec (.jetTakeover dt j) s = .next (after a (ev 293 (notify 0xF (wearBody 5 0 j q)
        { d with dike := { d.dike with jetSpare := spareGroup a.part j :: d.dike.jetSpare } }))))

/-- Ladder writes complete (R13, R33, R42, R76, R77, R79 to R82, R95, R330, R430): of each kind of output, from either owner. The owner
that is selected writes the code, a write from the other is answered with an error and leaves the output as it was, a processor's word may
turn the range of a heater, and nothing else of the device changes but what a level brings: its flip count, with a Jet's write its loop's
signs, and its cell's state, and LAST_CODE of a loop whose Jet has written its ladder (R123). A heater that is not in use takes no code (R34),
and the heaters of an OPAQUE cell stand, whose level is never written. In Safe all but the valves stand; a range change ends and answers the
RANGE_SET that waited. (Choices: log entries 7, 88, 110, 111, 115, 123.) -/
def Obligations.LadderWritesComplete : Prop :=
  ∀ (dt n : Nat) (byJet : Bool) (v : W32) (s : State), let a := begun dt s
    let put := fun l (c : BitVec 16) => if byJet then { loopOf a l with desc := { (loopOf a l).desc with lastCode := c } } else loopOf a l
    awake a → a.pwr.refclk = true →
    (a.sys.mode = .safe → (n < 256 → n < a.part.ports → exec (.dacWrite dt (.port n) byJet v) s = .next (after a a)) ∧
      (n < 2 * a.part.cells → exec (.dacWrite dt (.htr n) byJet v) s = .next (after a a)) ∧
      (n < a.part.cells → exec (.dacWrite dt (.flip n) byJet v) s = .next (after a a))) ∧
    (n < 2 * a.part.cells → frozenCell a (n / 2) = true → exec (.dacWrite dt (.htr n) byJet v) s = .next (after a a)) ∧
    (a.sys.mode ≠ .safe → n < 2 * a.part.cells → frozenCell a (n / 2) = false → let h := htrOf a n
      let turns := v.getLsbD 30 ≠ h.range ∧ mayTurn a (n / 2) = true
      let used : Prop := n = htrIdx (n / 2) (loopOf a (n / 2)).desc.htrB
      let code := if n = htrIdx (n / 2) (loopOf a (n / 2)).desc.htrB then v.extractLsb' 0 16 else h.code
      ∃ t, exec (.dacWrite dt (.htr n) byJet v) s = .next (after a t) ∧ (∀ k, k ≠ n → htrOf t k = htrOf a k) ∧
        t = { a with dac := { a.dac with htr := t.dac.htr }, jets := { a.jets with loops := t.jets.loops }, out := t.out } ∧
        (∀ k, loopOf t k = if k = n / 2 ∧ used ∧ h.rcBusy = false ∧ h.own = true then put k (v.extractLsb' 0 16) else loopOf a k) ∧
        (h.rcBusy = true → htrOf t n = h ∧ t.out = a.out) ∧
        (h.rcBusy = false → byJet = true →
          (h.own = true → htrOf t n = { h with code := code } ∧ t.out = a.out) ∧
          (h.own = false → htrOf t n = h ∧ t.out = a.out ++ [.busError])) ∧
        (h.rcBusy = false → byJet = false → ¬turns →
          (v.getLsbD 31 = false → htrOf t n = { h with own := false, code := code } ∧ t.out = a.out) ∧
          (v.getLsbD 31 = true → htrOf t n = { h with own := true } ∧ t.out = a.out ++ (if h.own then [.busError] else []))) ∧
        (h.rcBusy = false → byJet = false → turns → htrOf t n =
          { h with own := v.getLsbD 31, range := v.getLsbD 30, rcBusy := true, held := h.code } ∧ t.out = a.out)) ∧
    ((n < a.part.ports ∧ a.sys.mode ≠ .safe) ∨ (256 ≤ n ∧ n < 256 + a.part.ports) → let d := portDacOf a n
      let safe := if n < 256 then d.safeCode else v.extractLsb' 16 14
      let l := if n < 256 then eqLoop a.part n else valveLoop a.part (n - 256)
      ∃ t, exec (.dacWrite dt (.port n) byJet v) s = .next (after a t) ∧ (∀ k, k ≠ n → portDacOf t k = portDacOf a k) ∧
        t = { a with dac := { a.dac with port := t.dac.port }, jets := { a.jets with loops := t.jets.loops }, out := t.out } ∧
        (∀ k, loopOf t k = if k = l ∧ d.own = true then put k ((v.extractLsb' 0 14).setWidth 16) else loopOf a k) ∧
        (byJet = true → d.own = true → portDacOf t n = { d with code := v.extractLsb' 0 14 } ∧ t.out = a.out) ∧
        (byJet = true → d.own = false → portDacOf t n = d ∧ t.out = a.out ++ [.busError]) ∧
        (byJet = false → v.getLsbD 31 = false →
          portDacOf t n = { d with own := false, safeCode := safe, code := v.extractLsb' 0 14 } ∧ t.out = a.out) ∧
        (byJet = false → v.getLsbD 31 = true → portDacOf t n = { d with own := true, safeCode := safe } ∧
          t.out = a.out ++ (if d.own && decide (safe = d.safeCode) then [.busError] else []))) ∧
    (a.sys.mode ≠ .safe → n < a.part.cells → let f := flipOf a n
      let level := if frozenCell a n then f.level else v.getLsbD 8
      ∃ t, exec (.dacWrite dt (.flip n) byJet v) s = .next (after a t) ∧
        t = { a with dac := { a.dac with flip := t.dac.flip }, jets := { a.jets with loops := t.jets.loops }, wear := t.wear,
                     fab := t.fab, out := t.out } ∧
        (∀ k, k ≠ n → flipOf t k = flipOf a k ∧ loopOf t k = loopOf a k ∧ (sget {} t.wear k : Wear) = sget {} a.wear k) ∧
        ((if byJet then f.own = true else v.getLsbD 31 = false) → t.out = a.out ∧
          (byJet = true → flipOf t n = { f with level := level } ∧ loopOf t n = if f.level = level then loopOf a n else
            { loopOf a n with desc := { (loopOf a n).desc with con := -(loopOf a n).desc.con, iAcc := -(loopOf a n).desc.iAcc,
                                                               qAcc := -(loopOf a n).desc.qAcc, st := level } }) ∧
          (byJet = false → loopOf t n = loopOf a n ∧ flipOf t n =
            { f with own := false, level := level, preemph := v.extractLsb' 12 3, iset := v.extractLsb' 0 8 }) ∧
          (sget {} t.wear n : Wear) = { (sget {} a.wear n : Wear) with
            addFlips := (sget {} a.wear n : Wear).addFlips + (if level = true ∧ f.level = false then 1 else 0) } ∧
          t.fab = if condAt a.fab n = .good then { a.fab with cells := setBit a.fab.cells n level } else a.fab) ∧
        (byJet = true → f.own = false → t = { a with out := a.out ++ [.busError] }) ∧
        (byJet = false → v.getLsbD 31 = true → flipOf t n = { f with own := true } ∧ loopOf t n = loopOf a n ∧ t.fab = a.fab ∧
          t.wear = a.wear ∧ t.out = a.out ++ (if f.own then [.busError] else []))) ∧
    (let h := htrOf a n
     let left := decide (n % 2 = 0) && (loopOf a (n / 2)).desc.htrB
     let b := modHtr n (fun h => { h with rcBusy := false, rcSlot := none, code := if left then 0 else h.code }) a
     (h.rcBusy = true → h.rcSlot = none → exec (.rangeChangeEnd dt n) s = .next (after a b)) ∧
     (∀ k, h.rcBusy = true → h.rcSlot = some k → exec (.rangeChangeEnd dt n) s = .next (after a (finishSlot k 0 [] b))) ∧
     (h.rcBusy = false → exec (.rangeChangeEnd dt n) s = .next (after a a)))

/-- Jets complete (R91, R93, R106 to R108, R114, R115, R117, R121, R123): a round, which begins with the Recentres that wait and in Safe
leaves the Jets alone, bank swaps asked for within the slot budget, skip windows and their limit, a lock lost for 1 ms, the drift scan, the
SRAM copy. At a round start a requested swap makes the shadow bank active and leaves both banks as written, and the parameters that wait
take effect; a loop that nothing was asked of stays as it was. (Choices: log entries 7, 9, 18, 25, 65.) -/
def Obligations.JetsComplete : Prop :=
  ∀ (dt j cell : Nat) (hi : Bool) (v : W32) (late : List Nat) (s : State), let a := begun dt s
    awake a →
    (a.pwr.refclk = true →
      let b := { a with jets := { a.jets with round := a.jets.round + 1, roundAt := a.tb.now } }
      (a.sys.mode ≠ .safe → exec (.roundStart dt late) s =
        .next (after a (pairReport (roundReplies (injectedRound (captureRound (jetsRound late (recentreAll b)))))))) ∧
      (a.sys.mode = .safe → exec (.roundStart dt late) s = .next (after a (pairReport b)))) ∧
    (j < a.part.jets + a.part.spares → a.pwr.refclk = true →
      let asked := (ones (if hi then 8 else 32) v).map ((if hi then 32 else 0) + ·)
      let cycles := slotCycles a j fun k x => (x.desc.kind, if asked.contains k then x.shadow else x.coming)
      (cycles ≤ jetRoom a → exec (.jetSwapWrite dt j hi v) s =
        .next (after a (forEach asked a fun s k => modSlot j k (fun x => { x with swap := true }) s))) ∧
      (jetRoom a < cycles → exec (.jetSwapWrite dt j hi v) s = .next (after a a))) ∧
    (j < a.part.jets + a.part.spares → (jetOf a j).limit.toNat < (jetOf a j).skipped →
      exec (.skipLimitExceeded dt j) s =
        .next (after a (raise (156 + spareGroup a.part j) (modJet j (fun x => { x with skipped := 0 }) a)))) ∧
    (j < a.part.jets + a.part.spares →
      exec (.skipWindowEnd dt j) s = .next (after a (modJet j (fun x => { x with skipped := 0 }) a))) ∧
    (cell < a.part.cells → (loopOf a cell).lock = false → onPath a cell = true →
      exec (.lockLossTimeout dt cell) s =
        .next (after a (raise (160 + spareGroup a.part (jetOfLoop a.part cell)) a))) ∧
    exec (.driftScan dt) s = .next (after a (scanDrift a)) ∧
    (fwLive a = true →
      exec (.sramCopyRefresh dt) s = .next (after a { a with jets := { a.jets with sram := a.jets.loops.filterMap fun e =>
        if (jetOf a (runnerOf a e.1)).failed then (a.jets.sram.find? fun x => x.1 == e.1) else some e } })) ∧
    (∀ x : Loop, let t := paramStart x
      t.desc.abank = (x.desc.abank ^^ x.swap) ∧ t.bank0 = x.bank0 ∧ t.bank1 = x.bank1 ∧ t.swap = false ∧
      t.active = (if x.swap then x.shadow else x.active) ∧
      t.desc.lightMin = x.setLight.getD x.desc.lightMin ∧ t.desc.setpt = x.setSetpt.getD x.desc.setpt ∧
      t.desc.rampStep = x.setRamp.getD x.desc.rampStep ∧ t.desc.lockBand = x.setLock.getD x.desc.lockBand ∧
      (x.swap = false → x.setLight = none → x.setSetpt = none → x.setRamp = none → x.setLock = none → t = x) ∧
      t.desc.integ = x.desc.integ ∧ t.desc.base = x.desc.base ∧ t.desc.con = x.desc.con ∧ t.desc.st = x.desc.st)

/-! ### Calendars, tracked entries and the Sluice -/

/-- Calendar commands complete (R187, R192, R194, R296, R297): writing, committing, stopping, reading and status. (Choices: log entries
3, 57.) -/
def Obligations.CalendarCommandsComplete : Prop :=
  ∀ (dt slot : Nat) (c : SlotCmd) (p : List Byte) (s : State), let a := begun dt s
    let d := fld p 0 1
    (due a slot 0x0400 c p → inSvc a.sys.mode → roleLit a.sys.role → 8 ≤ p.length → fld p 1 1 = 1 →
      p.length = 40 + 16 * fld p 4 2 → fld p 6 2 = 0 → d ≤ 15 → fld p 4 2 ≤ 252 → fld p 2 2 + fld p 4 2 ≤ 4096 →
      exec (.calWrite dt slot) s = .next (after a (finish c 0 [] (modDom d (fun v =>
        v.setShadow (writeEntries (fld p 2 2) (p.drop 40) { hdr := sub p 8 32, ents := [] })) (withdrawWaiting d a))))) ∧
    (due a slot 0x0401 c p → inSvc a.sys.mode → roleLit a.sys.role → p.length = 4 → fld p 1 3 = 0 → d ≤ 15 → noDefer a = false →
      exec (.calCommit dt slot) s = .next (after a (modDom d (fun v => { v with checkAt := some slot }) (deferCmd c a)))) ∧
    (due a slot 0x0402 c p → inSvc a.sys.mode → roleLit a.sys.role → p.length = 4 → fld p 1 3 = 0 → d ≤ 15 →
      exec (.calStop dt slot) s = .next (after a (modDom d (fun v => { v with stopAfter := some slot }) (hold c a)))) ∧
    (due a slot 0x0403 c p → inRun a.sys.mode → p.length = 8 → fld p 6 2 = 0 → d ≤ 15 → fld p 1 1 ≤ 1 → fld p 4 2 ≤ 252 →
      fld p 2 2 + fld p 4 2 ≤ 4096 →
      let b := if fld p 1 1 = 0 then (slcDom a d).active else (slcDom a d).shadow
      exec (.calRead dt slot) s = .next (after a (finish c 0
        (pad 32 b.hdr ++ (List.range (fld p 4 2)).flatMap fun i => pad 16 (entryOf b (fld p 2 2 + i))) a))) ∧
    (due a slot 0x0404 c p → inRun a.sys.mode → p.length = 4 → fld p 1 3 = 0 → d ≤ 15 →
      exec (.calStatus dt slot) s = .next (after a (modDom d (fun v =>
          { v with skipped := 0, refused := 0, late := 0, advanced := 0, lateBase := false, gapFail := false })
        (finish c 0 (((slcDomWords a d).flatMap fun w => le 4 w.toNat) ++ timeBytes (slcDom a d).start ++ zeros 4) a))))

/-- A calendar's commit and course complete (R188 to R194, R297): the checks end once
what it names is routed or the engine is free, it starts at its start instant, its windows pass, and it resumes, each window passed in
between counted and reported as skipped. (Choices: log entries 2, 57.) -/
def Obligations.CalendarCourseCompletes : Prop :=
  ∀ (dt d : Nat) (c : Cal) (k : SlotCmd) (t : Time) (s : State), let a := begun dt s; let a0 := begun 0 s
    (awake a → fwLive a = true → ((List.range 16).find? fun d => (slcDom a d).checkAt.isSome) = some d →
      deferredCmd a 0x0401 = some k →
      commitTurn a k.acc (((calOf (slcDom a d).shadow).map Cal.names).getD []) = true →
      let x := commitCal (aboutCmd (some k)) d (modDom d (fun v => { v with checkAt := none }) a)
      exec (.calCommitDone dt) s = .next (after a (finish k (if x.2.1 then 0x0420 else 0) x.2.2 x.1))) ∧
    (awake a0 → calWaiting (slcDom a0 d) = some c →
      let v := slcDom a0 d
      let u := reach v.start a0
      exec (.calendarStart d) s = .next (after a0 (notifyCal {} d 0 v.start (refit d c u.fab.conns (modDom d (fun w =>
        { w with abank := !w.abank, waiting := false, state := if sluiceRuns u then .running else .suspended,
                 follows := !roleLit u.sys.role, entry := 0, cycle := w.startCycle, firstCycle := w.startCycle,
                 startConn := u.fab.conns, resume := none, unfired := !sluiceRuns u && roleLit u.sys.role }) u))))) ∧
    (awake a0 → calActive (slcDom a0 d) = some c → (slcDom a0 d).state = .running →
      let n := c.next (slcDom a0 d).cycle (slcDom a0 d).entry.toNat
      ((slcDom a0 d).waiting = true → c.start n.1 n.2 < (slcDom a0 d).start) →
      exec (.calendarWindow d) s =
        .next (after a0 (modDom d (enterWindow n.1 n.2) (reach (c.start n.1 n.2) a0)))) ∧
    (awake a0 → calActive (slcDom a0 d) = some c → (slcDom a0 d).resume = some t → (slcDom a0 d).state = .suspended →
      sluiceRuns a0 = true →
      let first := (slcDom a0 d).cycle * c.count + (slcDom a0 d).entry.toNat + flag (!(slcDom a0 d).unfired)
      let missed := (c.at t).1 * c.count + (c.at t).2 - first
      exec (.calendarResume d) s = .next (after a0 (notifyCal {} d 3 t (forEach (List.range missed) (modDom d (fun v =>
        { enterWindow (c.at t).1 (c.at t).2 v with state := .running, resume := none, skipped := satAdd v.skipped missed })
          (reach t a0)) fun s j => ev 279 (postEntry ⟨false, d, (first + j) % c.count, (c.cfg ((first + j) % c.count)).getD 0,
            (first + j) / c.count, c.start ((first + j) / c.count) ((first + j) % c.count), 0, 0xFF, false, false, 0⟩ 5 none
            0xFFFFFFFF s)))))

/-- Tracking commands complete (R171, R172, R196, R197, R298, R299). (Choices: log entries 3, 55.) -/
def Obligations.TrackingCommandsComplete : Prop :=
  ∀ (dt slot : Nat) (c : SlotCmd) (p : List Byte) (s : State), let a := begun dt s
    let id : W32 := BitVec.ofNat 32 (fld p 4 4)
    (due a slot 0x0500 c p → inSvc a.sys.mode → roleLit a.sys.role → p.length = 8 → fld p 2 2 = 0 → fld p 0 1 ≤ 63 →
      fld p 1 1 = 0 → (∀ t ∈ a.trk.trains, t.2.bound = true → t.2.id = id → t.1 = fld p 0 1) →
      exec (.trainBind dt slot) s = .next (after a (finish c 0 []
        (pendEntries (fld p 0 1) [.scheduled, .fired, .skipped, .refused]
          (putTrain (fld p 0 1) { id := id, bound := true } a))))) ∧
    (due a slot 0x0500 c p → inSvc a.sys.mode → roleLit a.sys.role → p.length = 8 → fld p 2 2 = 0 → fld p 0 1 ≤ 63 →
      fld p 1 1 = 1 → id = 0 →
      exec (.trainBind dt slot) s =
        .next (after a (finish c 0 [] (pendEntries (fld p 0 1) [.scheduled] (putTrain (fld p 0 1) {} a))))) ∧
    (due a slot 0x0501 c p → inRun a.sys.mode → p.length = 4 → fld p 1 3 = 0 → fld p 0 1 ≤ 63 →
      exec (.trainRead dt slot) s = .next (after a (finish c 0 (trainBytes (trainOf a (fld p 0 1))) a))) ∧
    (due a slot 0x0506 c p → inRun a.sys.mode → p.length = 64 →
      exec (.telegram dt slot) s = .next (after a (finish c 0 (le 1 (takeTelegram 2 a.tb.now p a).1 ++ zeros 3)
        (takeTelegram 2 a.tb.now p a).2))) ∧
    (due a slot 0x0507 c p → inRun a.sys.mode → p.length = 12 → fld p 10 2 = 0 → fld p 2 2 ≠ 0 → fld p 6 2 ≤ 511 →
      fld p 8 2 ≠ 0 →
      exec (.trackCfg dt slot) s = .next (after a (finish c 0 [] (freshen { a with trk := { a.trk with
        udpPort := BitVec.ofNat 16 (fld p 0 2), ageMax := BitVec.ofNat 16 (fld p 2 2), corridor := BitVec.ofNat 16 (fld p 4 2),
        unit := BitVec.ofNat 9 (fld p 6 2), staleMs := BitVec.ofNat 16 (fld p 8 2) } }))))

/-- Entry commands complete (R184, R196, R298, R299): staging, a commit that needs no routing, one that does and its end once its
configurations are routed, deletion, reading. (Choices: log entries 3, 53, 56.) -/
def Obligations.EntryCommandsComplete : Prop :=
  ∀ (dt slot k : Nat) (c : SlotCmd) (p : List Byte) (s : State), let a := begun dt s
    (due a slot 0x0502 c p → inSvc a.sys.mode → roleLit a.sys.role → p.length = 8 + 32 * fld p 2 2 → fld p 4 4 = 0 →
      (∀ i < fld p 2 2, rsvd (writtenEntry p i) 3 1 = false ∧ rsvd (writtenEntry p i) 6 2 = false ∧
        rsvd (writtenEntry p i) 16 16 = false) → 1 ≤ fld p 2 2 → fld p 2 2 ≤ 127 → fld p 0 2 + fld p 2 2 ≤ 8192 →
      exec (.entryWrite dt slot) s = .next (after a (finish c 0 [] { a with slc := { a.slc with
        staged := (List.range (fld p 2 2)).foldl (fun m i => sset [] m (fld p 0 2 + i) (writtenEntry p i)) a.slc.staged } }))) ∧
    (due a slot 0x0503 c p → inSvc a.sys.mode → roleLit a.sys.role → p.length = 4 → fld p 0 4 = 0 → entryFails a = none →
      (unroutedOf a = [] →
        exec (.entryCommit dt slot) s = .next (after a (finish c 0 (commitStaged a).2 (commitStaged a).1))) ∧
      (unroutedOf a ≠ [] → noDefer a = false →
        let b := deferCmd c a
        exec (.entryCommit dt slot) s = .next (after a { b with slc := { b.slc with commitSlot := some slot } }))) ∧
    (due a slot 0x0504 c p → inSvc a.sys.mode → roleLit a.sys.role → p.length = 4 → fld p 0 2 + fld p 2 2 ≤ 8192 →
      (∀ n ∈ entryRange p, (sget {} a.slc.entries n : TEntry).used = true → (sget {} a.slc.entries n : TEntry).state ≠ .armed) →
      exec (.entryDelete dt slot) s = .next (after a (finish c 0 [] (forEach (entryRange p) a fun s n =>
        let e : TEntry := sget {} s.slc.entries n
        let b := { s with slc := { s.slc with staged := sset [] s.slc.staged n [] } }
        if e.used then mirror (.entry n none) (modEntry n (fun _ => {}) (dropPrep true e.domain n b)) else b)))) ∧
    (due a slot 0x0505 c p → inRun a.sys.mode → p.length = 4 → 1 ≤ fld p 2 2 → fld p 2 2 ≤ 127 →
      fld p 0 2 + fld p 2 2 ≤ 8192 →
      exec (.entryRead dt slot) s =
        .next (after a (finish c 0 ((entryRange p).flatMap fun n => entryBytesOf (sget {} a.slc.entries n)) a))) ∧
    (let b := { a with slc := { a.slc with commitSlot := none } }
     let x := routeAll6 (unroutedOf b) (placeStaged b)
     let y := commitStaged { b with fab := x.1.fab }
     awake a → fwLive a = true → a.slc.commitSlot = some k → deferredCmd a 0x0503 = some c →
     commitTurn a c.acc (unroutedOf a) = true → x.2 = none → armedStaged b = none →
     exec (.entryCommitDone dt) s = .next (after a (finish c 0 y.2 y.1)))

/-- The Sluice's work completes (R199 to R201): an entry is prepared, armed with all that fall together with it, and the
armings that wait for a re-check proceed in turn, each for the window that it was asked for. (Choices: log entries 53, 54.) -/
def Obligations.SluiceCompletes : Prop :=
  ∀ (dt d e : Nat) (x : Due) (s : State), let a := begun dt s
    let n : TEntry := sget {} a.slc.entries e
    awake a → sluiceRuns a = true →
    ((a.slc.prep.any fun p => p.tracked == true && p.domain == d && p.entry == e) = false → n.used = true → n.domain = d →
      n.state = .scheduled → n.tFire ≤ a.tb.now + ns 1000000 → a.slc.prep.length < 256 →
      let b := tagEnter none (some (true, d, e)) a
      exec (.entryPrepare dt true d e) s = .next (after a (tagStage (tagOfEntry true d e) 1 { b with slc := { b.slc with
        prep := b.slc.prep ++ [⟨true, d, e, 0, cfgOf b.fab n.config, 0⟩] } }))) ∧
    (∀ w, toPrepare a false d e = some w → a.slc.prep.length < 256 →
      let b := tagEnter none (some (false, d, e)) a
      exec (.entryPrepare dt false d e) s = .next (after a (tagStage (tagOfEntry false d e) 1 { b with slc := { b.slc with
        prep := b.slc.prep ++ [⟨false, d, e, w.2.1, cfgOf b.fab w.1, w.2.2⟩] } }))) ∧
    (∀ tracked, dueNow a tracked d e = some x → recheckRuns a = false →
      exec (.entryArm dt tracked d e) s = .next (after a (armDue x a))) ∧
    (∀ tracked, dueNow a tracked d e = some x → recheckRuns a = true →
      exec (.entryArm dt tracked d e) s =
        .next (after a { a with slc := { a.slc with recheck := a.slc.recheck ++ [(tracked, d, e, a.tb.now)] } })) ∧
    (let b := { a with slc := { a.slc with recheckAt := none, recheck := [] } }
     exec (.recheckDone dt) s = .next (after a (forEach a.slc.recheck b fun s x => armSince x.2.2.2 x.1 x.2.1 x.2.2.1 s))) ∧
    (∀ tracked t0, let b := { a with slc := { a.slc with recheckAt := none, recheck := [] } }
      a.slc.recheck = [(tracked, d, e, t0)] → dueSince t0 b tracked d e = some x →
      exec (.recheckDone dt) s = .next (after a (armDue x b)))

/-- R169 and R171: a telegram takes the code of the first check that it fails, in their order, and 0 where it fails none; an accepted one
leaves its fields in the record of its train, and a dropped one is counted and changes no train's motion and no entry. (Choices: log
entry 95.) -/
def Obligations.TelegramChecks : Prop :=
  ∀ (via : Nat) (stamp : Time) (p : List Byte) (s : State), let code := (telegramCheck s stamp p).1
    let t := (takeTelegram via stamp p s).2
    let fix := timeOf p 16
    let slot := slotOfTrain s (BitVec.ofNat 32 (fld p 8 4))
    let format : Prop := p.length = 64 ∧ fld p 0 2 = 0x5054 ∧ fld p 2 1 = 1 ∧ fld p 3 1 < 4 ∧ fld p 52 8 = 0 ∧ timeOk p 16 = true
    let crc : Prop := fld p 60 4 = (crc32c (p.take 60)).toNat
    let corridor : Prop := fld p 4 2 = s.trk.corridor.toNat
    (¬ format → code = 1) ∧
    (format → ¬ crc → code = 2) ∧
    (format → crc → ¬ corridor → code = 3) ∧
    (format → crc → corridor → slot = none → code = 4) ∧
    (∀ k, format → crc → corridor → slot = some k →
      let n := (BitVec.ofNat 32 (fld p 12 4) - (trainOf s k).seq).toNat
      let clock : Prop := s.tb.ts ≠ .free ∧ s.tb.ts ≠ .acquiring
      let past : Prop := tdiff fix stamp ≤ (ns 1000000 : Nat)
      let fresh : Prop := tdiff stamp fix ≤ (ns 1000000 * s.trk.ageMax.toNat : Nat)
      let newer : Prop := (trainOf s k).valid = true → 1 ≤ n ∧ n < 2 ^ 31
      let later_ : Prop := (trainOf s k).valid = true → later fix (trainOf s k).fix = true
      (¬ clock → code = 5) ∧
      (clock → ¬ past → code = 6) ∧
      (clock → past → ¬ fresh → code = 7) ∧
      (clock → past → fresh → ¬ newer → code = 8) ∧
      (clock → past → fresh → newer → ¬ later_ → code = 9) ∧
      (clock → past → fresh → newer → later_ → roleLit s.sys.role = false → code = 10) ∧
      (clock → past → fresh → newer → later_ → roleLit s.sys.role = true → code = 0) ∧
      (code = 0 → trainOf t k = { trainOf s k with
        valid := true, stale := false, gone := bit (fld p 3 1) 1, accValid := bit (fld p 3 1) 0, via := via,
        seq := BitVec.ofNat 32 (fld p 12 4), fix := fix, arrival := stamp,
        pos := BitVec.ofNat 32 (fld p 28 4), vel := BitVec.ofNat 32 (fld p 32 4),
        acc := if bit (fld p 3 1) 0 then BitVec.ofNat 32 (fld p 36 4) else 0,
        uPos := BitVec.ofNat 32 (fld p 40 4), uVel := BitVec.ofNat 32 (fld p 44 4), uAcc := BitVec.ofNat 32 (fld p 48 4) })) ∧
    (takeTelegram via stamp p s).1 = code ∧
    (∀ k, code ≠ 0 →
      (trainOf t k).pos = (trainOf s k).pos ∧ (trainOf t k).vel = (trainOf s k).vel ∧ (trainOf t k).seq = (trainOf s k).seq ∧
      (trainOf t k).fix = (trainOf s k).fix ∧ t.slc = s.slc) ∧
    (code ≠ 0 → sget 0 t.trk.drops code = satInc (sget 0 s.trk.drops code))

/-- R153: two instants compare by the signed 64-bit difference of their counts modulo 2^64, which is their true difference wherever that
lies within ±2^63 units. -/
def Obligations.InstantsCompare : Prop :=
  let count := fun (p : List Byte) (i : Nat) => ((fld p (i + 6) 6 * 10 ^ 9 + fld p (i + 2) 4) * 2 ^ 16 + fld p i 2) % 2 ^ 64
  (∀ (p q : List Byte) (i j : Nat), let d := (BitVec.ofNat 64 (count p i) - BitVec.ofNat 64 (count q j)).toInt
    tdiff (timeOf p i) (timeOf q j) = d ∧ (later (timeOf p i) (timeOf q j) = true ↔ 0 < d)) ∧
  (∀ a b : Time, tdiff a b = (BitVec.ofNat 64 (a % 2 ^ 64) - BitVec.ofNat 64 (b % 2 ^ 64)).toInt ∧ (later a b = true ↔ 0 < tdiff a b)) ∧
  (∀ a b : Time, -(2 ^ 63 : Int) ≤ (a : Int) - b → (a : Int) - b < 2 ^ 63 → tdiff a b = (a : Int) - b ∧ (later a b = true ↔ b < a))

/-- R188: every instant from BASE on belongs to exactly the window that `Cal.at` names: it starts at or before the instant, and the next
one starts after it. -/
def Obligations.InstantBelongsToItsWindow : Prop :=
  ∀ (c : Cal) (t : Time), c.offs.Pairwise (· < ·) → c.offs.head? = some 0 → (∀ o ∈ c.offs, o < c.cycle) → c.base ≤ t →
    let w := c.at t
    let n := c.next w.1 w.2
    w.2 < c.count ∧ c.start w.1 w.2 ≤ t ∧ t < c.start n.1 n.2 ∧
    ∀ k i, i < c.count →
      c.start k i = c.base + k * c.cycle + (c.offs[i]?).getD 0 ∧
      c.start (c.next k i).1 (c.next k i).2 = c.base + k * c.cycle + (c.offs[i + 1]?).getD c.cycle ∧
      (c.start k i ≤ t → t < c.start (c.next k i).1 (c.next k i).2 → (k, i) = w)

/-! ### The Weir and the lanes -/

/-- Weir commands complete (R209, R210, R216, R226, R300). (Choices: log entries 3, 67.) -/
def Obligations.WeirCommandsComplete : Prop :=
  ∀ (dt slot : Nat) (c : SlotCmd) (p : List Byte) (s : State), let a := begun dt s
    let n := fld p 0 2
    let w0 := fld p 4 4
    let w1 := fld p 8 4
    let w2 := fld p 12 4
    let w3 := fld p 16 4
    (due a slot 0x0600 c p → inRun a.sys.mode → p.length = 20 → fld p 2 2 = 0 → bits w0 13 6 = 0 → bits w1 15 10 = 0 →
      bits w2 13 0 = 0 → bits w3 31 24 = 0 → n < a.part.ports → bits w0 31 14 ≤ 200000 → 1000 ≤ bits w1 31 16 →
      bits w1 31 16 ≤ 40000 → bits w2 31 14 ≤ bits w0 31 14 → calHolds a n = false →
      exec (.weirPort dt slot) s = .next (after a (finish c 0 [] (modWPort n (fun v =>
        { v with lineRate := BitVec.ofNat 18 (bits w0 31 14), overhead := BitVec.ofNat 6 w0,
                 glead := BitVec.ofNat 16 (bits w1 31 16), guard := BitVec.ofNat 10 w1,
                 shapeRate := BitVec.ofNat 18 (bits w2 31 14), shapeBurst := BitVec.ofNat 24 w3,
                 level := v.levelNow a.tb.now, levelAt := a.tb.now }) a)))) ∧
    (due a slot 0x0601 c p → inRun a.sys.mode → p.length = 20 → fld p 2 2 = 0 → bits w0 13 9 = 0 → bits w1 13 6 = 0 →
      bits w2 31 24 = 0 → bits w3 31 24 = 0 → n < 8 * a.part.ports → bits w0 31 14 ≤ bits w1 31 14 → bits w1 31 14 ≤ 200000 →
      bits w0 7 0 ≠ 0 → bits w1 5 0 ≤ 32 → w2 ≠ 0 → w3 ≠ 0 →
      exec (.weirQueue dt slot) s = .next (after a (finish c 0 [] (modWQueue n (fun v => let v := v.filledAt a.tb.now
        { v with cir := BitVec.ofNat 18 (bits w0 31 14), aware := bit w0 8, weight := BitVec.ofNat 8 w0,
                 pir := BitVec.ofNat 18 (bits w1 31 14), yelMax := BitVec.ofNat 6 w1,
                 cbs := BitVec.ofNat 24 w2, pbs := BitVec.ofNat 24 w3,
                 tc := v.tc.map (min (w2 * byteUnits)), tp := v.tp.map (min (w3 * byteUnits)) }) a)))) ∧
    (due a slot 0x0602 c p → inRun a.sys.mode → p.length = 4 → fld p 1 3 = 0 →
      let en : BitVec 8 := BitVec.ofNat 8 (fld p 0 1)
      exec (.weirLanes dt slot) s = .next (after a (finish c 0 []
        (forEach ((List.range 8).filter fun l => !en.getLsbD l) { a with weir := { a.weir with laneEn := en } }
          fun s l => weirLaneDown l s)))) ∧
    (due a slot 0x0603 c p → inRun a.sys.mode → p.length = 4 → fld p 2 2 = 0 → n < a.part.ports →
      exec (.weirRead dt slot) s = .next (after a (clearWeir n (finish c 0
        (wordBytes (portCfgWords (wportOf a n) ++ portCntWords (wportOf a n) ++
          ((queuesOf n).flatMap fun k => queueWords (wqueueOf a k)) ++
          [laneStatWord (sget {} a.weir.lanes (laneOf a.part n)), weirCtrlWord a, a.weir.ignored])) a))))

/-- Lanes come up and go down, and the Weir works (R210, R212, R217, R223, R239): a Weir lane that goes down empties its agents' queues
and raises its source; a Cladal lane that goes down beside another leaves the link; a request that passes every check is queued, a
queue's head that fits is granted, a lane's time message goes out. (Choices: log entries 9, 67, 68, 90.) -/
def Obligations.LanesAndGrantsComplete : Prop :=
  ∀ (dt l n : Nat) (m : List Byte) (s : State), let a := begun dt s
    awake a →
    (l < 8 → a.weir.laneEn.getLsbD l = true → a.pwr.refclk = true →
      exec (.laneUp dt (.weir l)) s = .next (after a (modLane l (fun x => { x with up := true }) a))) ∧
    (l < 2 → a.cld.laneEn.getLsbD l = true → a.pwr.refclk = true →
      exec (.laneUp dt (.cld l)) s = .next (after a (modCldLane l (fun x => { x with up := true }) a))) ∧
    ((sget {} a.weir.lanes l : Lane).up = true →
      let agents := (List.range a.part.ports).filter fun n => laneOf a.part n == l
      exec (.laneDown dt (.weir l)) s = .next (after a (raise (171 + l) (ev 285 (modLane l (fun x =>
        { x with up := false, downSeen := true, flushed := satAdd x.flushed ((agents.map (queuedAt a)).sum) })
          (forEach agents a fun s n => clearPort n s)))))) ∧
    (l < 2 → (cldLane a l).up = true → (cldLane a (1 - l)).up = true → a.pwr.refclk = true →
      exec (.laneDown dt (.cld l)) s =
        .next (after a (modCldLane l (fun x => { x with up := false, downSeen := true }) a))) ∧
    ((sget {} a.weir.lanes l : Lane).up = true → a.pwr.refclk = true → crcOk m = true → fld m 0 1 = 1 → fld m 1 1 = n → n < a.part.ports →
      laneOf a.part n = l → roleLit a.sys.role = true →
      let k := 8 * n + fld m 2 1 % 8
      let u := count 0x0205 1 a
      let b := countedLen (wportOf u n) (fld m 4 3)
      let x := (wqueueOf u k).meter a.tb.now (bits (fld m 2 1) 4 3) b
      requestOk m = true → scheduled u n = true → b ≤ (wportOf u n).maxFit → x.1 ≠ 2 →
      x.2.reqs.length < (if x.1 = 0 then 32 else x.2.yelMax.toNat) →
      exec (.weirRequest dt l m) s = .next (after a
        (enqueue n k ⟨fld m 4 3, BitVec.ofNat 16 (fld m 8 2), x.1⟩ (modWQueue k (fun _ => x.2) u)))) ∧
    (∀ t k, n < a.part.ports → sluiceRuns a = true → scheduled a n = true → (slcDom a (domOf a.fab n)).state ≠ .suspended →
      readyQueues a n ≠ [] →
      let v := wportOf a n
      let t0 := max v.nextFree (max (a.tb.now + ns v.glead.toNat) (v.shapedAt a.tb.now))
      firstIv a n t0 (grantIn a n t0) = some (t, k) →
      exec (.weirDecision dt n) s = .next (after a (grantAt n k t a))) ∧
    (l < 8 → a.weir.laneEn.getLsbD l = true → a.pwr.refclk = true →
      exec (.timeMessageTx dt l) s = .next (after a { a with out := a.out ++ [.weirTx l (timeMsg a l)] }))

/-! ### Time -/

/-- Time commands complete (R154, R157, R158, R163, R301); an instant is within the horizon where it lies at most 36 h from device time.
(Choices: log entries 3, 37, 52.) -/
def Obligations.TimeCommandsComplete : Prop :=
  (∀ now t : Time, inHorizon now t = true ↔ t ≤ now + 36 * 3600 * sec ∧ now ≤ t + 36 * 3600 * sec) ∧
  ∀ (dt slot : Nat) (c : SlotCmd) (p : List Byte) (s : State), let a := begun dt s
    (due a slot 0x0700 c p → inRun a.sys.mode → p.length = 36 → fld p 0 1 ≤ 63 → fld p 1 3 = 0 → timeUnmarked p = false →
      (bit (fld p 0 1) 0 = true → fld p 4 4 &&& 0x07000F1E = 0) → (bit (fld p 0 1) 1 = true → fld p 8 4 &&& 0xC0000000 = 0) →
      (bit (fld p 0 1) 2 = true → fld p 12 4 &&& 0x03FE0000 = 0) → (bit (fld p 0 1) 3 = true → fld p 16 4 &&& 0xFFFF0000 = 0) →
      timeRefused p = false →
      let b1 := if bit (fld p 0 1) 1 then { a with tb := { a.tb with thr := BitVec.ofNat 30 (fld p 8 4) } } else a
      let b2 := if bit (fld p 0 1) 2 then { b1 with tb := { b1.tb with
        slewPpm := BitVec.ofNat 6 (bits (fld p 12 4) 31 26), holdLimit := BitVec.ofNat 17 (fld p 12 4) } } else b1
      let b3 := if bit (fld p 0 1) 3 then { b2 with tb := { b2.tb with ppsDelay := BitVec.ofNat 16 (fld p 16 4) } } else b2
      let b4 := if bit (fld p 0 1) 4 then writePortCal 0 p 20 b3 else b3
      let b5 := if bit (fld p 0 1) 5 then writePortCal 1 p 28 b4 else b4
      exec (.timeSet dt slot) s =
        .next (after a (finish c 0 [] (if bit (fld p 0 1) 0 then
          writeTbCtrl { opcode := 0x0700, seq := c.seq.toNat, status := 0, slot := slot } (fld p 4 4) b5 else b5)))) ∧
    (due a slot 0x0701 c [] → inRun a.sys.mode → a.servo.master = none →
      let b := finish c 0 (le 4 (tbStatusWord a.tb).toNat ++ le 4 a.tb.offset.toNat ++ timeBytes a.tb.now ++ zeros 18 ++
        le 2 a.servo.utc.toNat ++ zeros 8) a
      exec (.timeRead dt slot) s =
        .next (after a { b with tb := { b.tb with outliers := 0, jumpRefused := false, ppsDisagree := false } })) ∧
    (due a slot 0x0702 c p → inRun a.sys.mode → p.length = 8 → fld p 6 2 = 0 → (a.tb.ts = .free ∨ a.tb.ts = .acquiring) →
      a.tb.src = 2 →
      let b := setClock (fld p 0 6 * sec + a.tb.now % sec) a
      exec (.setTod dt slot) s = .next (after a (finish c 0 [] { b with servo := { b.servo with todSet := true } }))) ∧
    (due a slot 0x0703 c p → a.sys.mode = .dark → p.length = 8 → (sgn 64 (fld p 0 8)).natAbs ≤ horizon → a.servo.step = none →
      let b := hold c a
      exec (.timeStep dt slot) s =
        .next (after a { b with servo := { b.servo with step := some (sgn 64 (fld p 0 8), some slot) } })) ∧
    (∀ d, awake a → a.servo.step = some (d, none) → a.pwr.refclk = true →
      exec (.timeStepApply dt) s = .next (after a (notifyTime 3
        (setClock (((a.tb.now : Int) + d).toNat) { a with servo := { a.servo with step := none } })))) ∧
    (∀ d, awake a → a.servo.step = some (d, some slot) → a.pwr.refclk = true →
      let b := setClock (((a.tb.now : Int) + d).toNat) { a with servo := { a.servo with step := none } }
      exec (.timeStepApply dt) s = .next (after a (notifyTimeOf (aboutSlot a (some slot) 0) 3
        (finishSlot slot 0 (timeBytes b.tb.now) { b with tb := { b.tb with slew := false } })))) ∧
    (due a slot 0x0704 c p → inRun a.sys.mode → p.length = 48 → fld p 9 1 = 0 → bit (fld p 2 2) 15 = false → fld p 0 1 ≤ 1 →
      fld p 1 1 ≤ 8 → fld p 2 2 % 4096 ≠ 4095 → 1 ≤ fld p 8 1 → fld p 8 1 ≤ 32 → bit (fld p 10 1) 0 = false →
      exec (.netSet dt slot) s = .next (after a (finish c 0 [] (modMgmt (fld p 0 1) (fun g =>
        { g with addr := BitVec.ofNat 32 (fld p 4 4), prefixLen := BitVec.ofNat 8 (fld p 8 1), vlan := BitVec.ofNat 16 (fld p 2 2),
                 mac := macField p 10,
                 groups := (List.range (fld p 1 1)).map fun i => BitVec.ofNat 32 (fld p (16 + 4 * i) 4) }) a))))

/-- The timebase's sources complete (R156, R161, R162, R164, R165): PTP, 1PPS, their losses, holdover's end, a second's boundary.
(Choices: log entries 7, 38, 50.) -/
def Obligations.TimeSourcesComplete : Prop :=
  ∀ (dt port : Nat) (stamp : Time) (env : Envelope) (m : PtpMsg) (f : Foreign) (s : State), let a := begun dt s; let a0 := begun 0 s
    awake a →
    (∀ origin corr, receives a port env = true → ptpPort a port = true → ptpTo a port m = true →
      m.body = .sync false origin corr → ptpTaken a m = true → a.tb.src ≠ 2 → fromParent a port m = true →
      exec (.ptpMessageRx dt port stamp env m) s =
        .next (after a (ptpSync port (lineStamp (mgmtOf a port) stamp) m false origin corr a))) ∧
    (a.servo.hasParent = true → a.pwr.refclk = true →
      let port := flag a.tb.parent
      exec (.delayReqTx dt stamp) s = .next (after a { a with
        out := a.out ++ [.delayReq port (tagOfPort a port) (macOf a port) (clockId a) (port + 1) a.servo.delaySeq]
        servo := { a.servo with
          delayT3 := some (a.servo.delaySeq, stamp - (mgmtOf a port).egrLat.toNat * 4096)
          delaySeq := (a.servo.delaySeq + 1) % 65536 } })) ∧
    (a.servo.master = some f →
      exec (.announceTimeout dt) s = .next (after a (chooseParent (modMgmt (flag a.tb.parent)
        (fun g => { g with foreign := g.foreign.filter fun x => !sameMaster x f }) a)))) ∧
    (a.servo.hasParent = true →
      exec (.syncTimeout dt) s = .next (after a
        (loseSource { a with servo := { a.servo with hasParent := false, lastSync := none, ptpOff := none } }))) ∧
    (a.tb.src = 0 → a.pwr.refclk = true →
      exec (.ppsInEdge dt stamp) s = .next (after a { a with
        tb := { a.tb with ppsSeen := true }, servo := { a.servo with ppsLost := false } }) ∧
      exec (.ppsTimeout dt) s = .next (after a { a with
        tb := { a.tb with ppsSeen := false }, servo := { a.servo with ppsLost := true, disagree := 0 } })) ∧
    (a.tb.src = 1 → a.pwr.refclk = true → a.servo.ppsLost = false → a.servo.first = false →
      let t := ((stamp : Int) - (a.tb.ppsDelay.toNat * 4096 : Nat)).toNat
      let b := { a with tb := { a.tb with ppsSeen := true }, servo := { a.servo with ppsLost := false } }
      exec (.ppsInEdge dt stamp) s = .next (after a (measureOffset (fromSecond t) (comparePps t (fromSecond t) b)))) ∧
    (a.tb.ts = .holdover → exec (.holdoverExpiry dt) s = .next (after a (setTs .free a))) ∧
    (a0.sys.mode ≠ .reset → a0.pwr.refclk = true → a0.tb.ppsOutEn = true → a0.tb.ts ≠ .free →
      let b := ev 286 (reach ((a0.tb.now / sec + 1) * sec) a0)
      exec .secondBoundary s = .next (after a0 (emit (.pps true)
        { b with servo := { b.servo with ppsHigh := true, ppsFall := b.tb.now + ns 100000000 } }))) ∧
    (a0.sys.mode ≠ .reset → a0.pwr.refclk = true → a0.servo.ppsHigh = true →
      let b := reach a0.servo.ppsFall a0
      exec .ppsOutEnd s = .next (after a0 (emit (.pps false) { b with servo := { b.servo with ppsHigh := false } }))) ∧
    (let b := timeBytes a.tb.now
     let w := [BitVec.ofNat 32 (fld b 0 4), BitVec.ofNat 32 (fld b 4 4), BitVec.ofNat 32 (fld b 8 4)]
     exec (.tbNowRead dt) s = .next (after a { a with out := a.out ++ [.latched w], tb := { a.tb with latch := w } }))

/-- The management ports' work and STALE complete (R163, R168 to R172, R311, R414): a telegram, ARP, other frames, a lost link.
(Choices: log entries 51, 95.) -/
def Obligations.ManagementPortsComplete : Prop :=
  ∀ (dt port k : Nat) (stamp : Time) (f : Frame) (addr : BitVec 32) (env : Envelope) (s : State), let a := begun dt s; let a0 := begun 0 s
    (awake a → receives a port f.env = true → slcClock a = true → inTurn a port (lineStamp (mgmtOf a port) stamp) = true →
      a.trk.udpPort ≠ 0 → f.udp = a.trk.udpPort.toNat → (mgmtOf a port).addr ≠ 0 → f.ip = (mgmtOf a port).addr →
      exec (.telegramReceive dt port stamp f) s =
        .next (after a (takeTelegram port (lineStamp (mgmtOf a port) stamp) f.payload a).2)) ∧
    (awake a0 → (trainOf a0 k).bound = true → (trainOf a0 k).valid = true → (trainOf a0 k).stale = false → slcClock a0 = true →
      exec (.trainStale k) s = .next (after a0 (notifyTrain k 0
        (modTrain k (fun t => { t with stale := true }) (reach (staleAt a0 (trainOf a0 k)) a0))))) ∧
    (awake a → receives a port env = true →
    ((mgmtOf a port).addr = addr → addr ≠ 0 →
      exec (.arpRequest dt port addr env) s = .next (after a { a with out := a.out ++ [.arpReply port (tagOfPort a port) (macOf a port) addr] })) ∧
    exec (.mgmtFrameOther dt ⟨port, env⟩) s =
      .next (after a (modMgmt port (fun m => { m with other := satInc m.other }) a)) ∧
    exec (.mgmtLinkChange dt port false) s =
      .next (after a (setLevel (188 + port) true (modMgmt port (fun g => { g with linkUp := false }) a))))

/-! ### The pair -/

/-- Pair commands complete (R234, R249, R259, R302, R303). (Choices: log entries 3, 73, 74, 75.) -/
def Obligations.PairCommandsComplete : Prop :=
  ∀ (dt slot : Nat) (c : SlotCmd) (p : List Byte) (s : State), let a := begun dt s
    (due a slot 0x0800 c p → inRun a.sys.mode → p.length = 4 → fld p 3 1 = 0 → fld p 2 1 = 3 → 1000 ≤ fld p 0 2 → fld p 0 2 ≤ 2500 →
      exec (.pairSet dt slot) s = .next (after a (finish c 0 []
        { a with cld := { a.cld with bbm := BitVec.ofNat 12 (fld p 0 2), laneEn := 3 } }))) ∧
    (due a slot 0x0801 c p → inRun a.sys.mode → p.length = 4 → BitVec.ofNat 32 (fld p 0 4) &&& ~~~cldW1c = 0 →
      exec (.pairRead dt slot) s = .next (after a (finish c 0
        (wordBytes [cldStatusWord a, a.cld.seqTx, a.cld.seqAck, 0] ++
          (if a.cld.partnerSeen then heartbeatBytes a.cld.partner else zeros 16) ++ le 32 a.pair.held.toNat)
        (clearCld (BitVec.ofNat 32 (fld p 0 4)) a)))) ∧
    (due a slot 0x0802 c [0, 0, 0, 0] → mayPromote a.sys.mode → a.sys.role = .standby → eligible a.sys = true → roleIn a = false →
      a.pair.promo = none →
      exec (.promote dt slot) s = .next (after a (hold c { a with pair := { a.pair with
        promo := some { tRec := c.acc, tProm := c.acc + bbm a, slot := some slot, report := true } } }))) ∧
    (due a slot 0x0803 c p → inService a.sys.mode → a.sys.role = .active → p.length = 16 → fld p 12 4 = 0 → timeOk p 0 = true →
      a.tb.now + ns 100000 ≤ timeOf p 0 → timeOf p 0 ≤ a.tb.now + 10 * sec → noDefer a = false →
      exchangeRefused a (timeOf p 0) = none →
      let t := timeOf p 0
      let w : Weir := { a.weir with blackouts := a.weir.blackouts ++ [⟨t, t + ns 3000, mapOf 256 (List.range a.part.ports)⟩] }
      let b := { a with weir := w }
      exec (.exchange dt slot) s = .next (after a (deferCmd c { b with pair := { b.pair with exch := some ⟨t, slot⟩ } })))

/-- A change of roles completes (R236 to R238, R249 to R252, R259): the role lines and what they bring, a promotion, its report, the
release at an exchange. (Choices: log entries 69 to 73, 77, 78.) -/
def Obligations.RolesComplete : Prop :=
  ∀ (dt : Nat) (x : Promo) (e : Exch) (k : SlotCmd) (rep : List Byte) (s : State), let a := begun dt s; let a0 := begun 0 s
    awake a →
    (a.cld.asserted = false → ¬ (a.sys.role = .standby ∧ a.cld.present = true) →
      exec (.roleInChange dt true true) s = .next (after a (let b := abandonPromotion { a with cld := { a.cld with
        roleInA := true, roleInB := true } }
        { b with cld := { b.cld with asserted := true } }))) ∧
    (a.cld.asserted = true → a.cld.roleInA = false → a.cld.roleInB = false → eligible a.sys = true → a.cld.armedBy = true →
      a.pair.promo = none →
      exec (.roleInReleased dt) s = .next (after a { a with
        cld := { a.cld with asserted := false }
        pair := { a.pair with promo := some { tRec := a.tb.now, tProm := a.tb.now + bbm a } } })) ∧
    (a.cld.roleInA ≠ a.cld.roleInB →
      exec (.roleSplit dt) s = .next (after a (raise 179 { a with cld := { a.cld with roleSplit := true } }))) ∧
    (a.cld.present = false → a.sys.role = .solo →
      exec (.presentInChange dt true) s = .next (after a { a with
        cld := { a.cld with present := true }
        sys := { a.sys with role := if inService a.sys.mode then .active else .standby } })) ∧
    (a.cld.present = false → roleIn a = true → (a.sys.role = .standby ∨ a.sys.role = .resync) →
      exec (.presentFault dt) s = .next (after a (raise 179 { a with cld := { a.cld with presentFault := true } }))) ∧
    (a.sys.role = .active → roleIn a = true → a.sys.sideB = false →
      exec (.dualActive dt) s = .next (after a (raise 182 { a with cld := { a.cld with dualActive := true } }))) ∧
    (a0.sys.mode ≠ .reset → a0.pair.promo = some x → eligible (reach x.tProm a0).sys = true → roleIn (reach x.tProm a0) = false →
      exec .promotion s = .next (after a0 (takeOver x (reach x.tProm a0)))) ∧
    (fwLive a = true → a.pair.takeover = some (none, rep) →
      exec (.takeoverReport dt) s = .next (after a
        (notifyAt a.tb.now 4 {} false rep { a with pair := { a.pair with takeover := none } }))) ∧
    (a0.sys.mode ≠ .reset → a0.sys.role = .active → a0.pair.exch = some e →
      let b := sendDue { reach e.tX a0 with pair := { (reach e.tX a0).pair with exch := none } }
      deferredCmd b 0x0803 = some k →
      exec .exchangeRelease s = .next (after a0 (releaseRole (finish k 0 (timeBytes b.tb.now) b))))

/-- The link's messages complete (R239 to R243, R246, R253 to R256): a message that fails a check is dropped and counted, whatever its
row; a sound one takes its effect. (Choices: log entries 74, 76 to 79, 126 to 128.) -/
def Obligations.PairMessagesComplete : Prop :=
  ∀ (dt lane : Nat) (m : List Byte) (h : Heartbeat) (i : Item) (item : Option Item) (final : Bool) (f : Follow) (l : List Item)
    (k : ItemKey) (rest : List ItemKey) (s : State), let a := begun dt s
    let q := seqOf m
    let heard := { a with cld := { a.cld with seqAck := q } }
    awake a →
    (let x := CldMsg.heartbeat a.cld.hbCount (heartbeatOf a)
     let lanes := (if a.cld.lane0.up then [0] else []) ++ (if a.cld.lane1.up then [1] else [])
     cldCanSend a = true → exec (.heartbeatTx dt) s = .next (after a { a with
        out := a.out ++ lanes.map fun n => .cldTx n x (cldBytes a.part x), cld := { a.cld with hbCount := satInc a.cld.hbCount } })) ∧
    (a.cld.linkUp = true → a.pwr.refclk = true →
      exec (.linkDownTimeout dt) s = .next (after a (raise 181 (ev 289 { a with cld := { a.cld with
        linkUp := false, hbLost := true, mirrorStale := a.cld.mirrorStale || decide (a.sys.role = .standby) } })))) ∧
    (a.sys.role = .active → a.cld.pairMis = false → a.pwr.refclk = true →
      a.pair.outbox = i :: l → exec (.mirrorSend dt) s =
      .next (after a (sendItem (fun q j => .mirror q j i) i { a with pair := { a.pair with outbox := l } }))) ∧
    (a.sys.role = .active → a.cld.pairMis = false → a.pwr.refclk = true →
      a.pair.outbox = [] → a.pair.resyncOut = k :: rest → a.cld.linkUp = true →
      exec (.mirrorSend dt) s = .next (after a
        (sendItem (fun q j => .resync q j (itemOf a k)) (itemOf a k) { a with pair := { a.pair with resyncOut := rest } }))) ∧
    ((cldLane a lane).up = true → a.pwr.refclk = true →
      cldBad m = true → let b := { a with cld := { a.cld with badMsg := satInc a.cld.badMsg } }
      exec (.heartbeatRx dt ⟨lane, m⟩) s = .next (after a b) ∧ exec (.mirrorItemRx dt ⟨lane, m⟩ item) s = .next (after a b) ∧
      exec (.followRx dt lane m) s = .next (after a b) ∧ exec (.retransmitRequest dt ⟨lane, m⟩) s = .next (after a b) ∧
      exec (.resyncItemRx dt ⟨lane, m⟩ ⟨item, final⟩) s = .next (after a b)) ∧
    ((cldLane a lane).up = true → a.pwr.refclk = true →
      cldBad m = false → fld m 0 1 = 1 → heartbeatIn (m.drop 16) = some h → a.cld.linkUp = true →
      a.cld.mirrorStale = false → a.sys.role ≠ .active → h.gap = a.jets.gap.toNat → h.rate = a.jets.rate.toNat → h.part = a.part →
      exec (.heartbeatRx dt ⟨lane, m⟩) s = .next (after a (setLevel 183 false { a with cld := { a.cld with
        partner := h, partnerSeen := true, settingMis := false, pairMis := false } }))) ∧
    ((cldLane a lane).up = true → a.pwr.refclk = true →
      cldBad m = false → fld m 0 1 = 2 → hears a = true → a.sys.role = .standby → q = a.cld.seqAck + 1 →
      (exec (.mirrorItemRx dt ⟨lane, m⟩ none) s = .next (after a (caughtUp heard))) ∧
      (itemCode i = fld m 2 2 → exec (.mirrorItemRx dt ⟨lane, m⟩ (some i)) s = .next (after a (caughtUp (applyItem i heard))))) ∧
    ((cldLane a lane).up = true → a.pwr.refclk = true →
      cldBad m = false → fld m 0 1 = 3 → followIn (m.drop 16) = some f → hears a = true →
      a.sys.role = .standby → q = a.cld.seqAck + 1 →
      exec (.followRx dt lane m) s = .next (after a (caughtUp (ev 290 (takeFollow q f heard))))) ∧
    ((cldLane a lane).up = true → a.pwr.refclk = true →
      cldBad m = false → fld m 0 1 = 4 → fld m 1 1 = 0 → a.sys.role = .active → a.cld.pairMis = false →
      cldCanSend a = true → let n := (a.cld.seqTx + 1 - q).toNat
      n ≠ 0 → n < 2 ^ 31 → (storedFrom a q).length = n → exec (.retransmitRequest dt ⟨lane, m⟩) s =
        .next (after a (forEach (storedFrom a q).reverse a fun s x => sendOn x s))) ∧
    ((cldLane a lane).up = true → a.pwr.refclk = true →
      cldBad m = false → fld m 0 1 = 5 → hears a = true → a.sys.role = .resync →
      (fld m 2 2 = 1 → itemCode i = 1 → mayPromote a.sys.mode = true → let b := forgetMirrored a
        exec (.resyncItemRx dt ⟨lane, m⟩ ⟨some i, final⟩) s = .next (after a (applyItem i { b with
          cld := { b.cld with seqAck := q }, pair := { b.pair with resyncSeen := true, resyncDone := false } }))) ∧
      (fld m 2 2 ≠ 1 → itemCode i = fld m 2 2 → a.pair.resyncSeen = true → q = a.cld.seqAck + 1 → let b := applyItem i heard
        exec (.resyncItemRx dt ⟨lane, m⟩ ⟨some i, final⟩) s =
          .next (after a (caughtUp { b with pair := { b.pair with resyncDone := b.pair.resyncDone || final } })))) ∧
    (resynced a = true → fwLive a = true → mayPromote a.sys.mode = true →
      exec (.resyncComplete dt) s = .next (after a (becomeEligible { a with
        sys := { a.sys with role := .standby }, cld := { a.cld with mirrorStale := false } }))) ∧
    exec (.calPosPeriodic dt) s = .next (after a (mirror (.calPos (calPositions a)) a))

/-- What one unit puts on the link the other reads as it was (R151, R152, R209, R239, R240, R245): no message that a unit forms fails a
check, a heartbeat and a follow read back whole, as an instant in its 12 bytes does, and the descrambler undoes the scrambler whatever was
sent before. (Choices: log entries 126,
127: the scrambler's polynomial and the items' payloads.) -/
def Obligations.LinkReadsBack : Prop :=
  (∀ (p : Part) (m : CldMsg), cldBad (cldBytes p m) = false ∧ (cldBytes p m).length % 16 = 0) ∧
  (∀ h : Heartbeat, h.gap < 65536 → h.rate < 4 → heartbeatIn (heartbeatBytes h) = some h) ∧
  (∀ (p : Part) (f : Follow), f.source < 256 → timeWf f.tClose = true →
    (f.config ≠ 0xFFFFFFFF → f.map = []) → f.map.Pairwise (fun a b => a.1 < b.1) → (∀ e ∈ f.map, e.1 < p.ports ∧ e.2 < p.ports) →
    followIn (followBytes p f) = some f) ∧
  (∀ t : Time, timeWf t = true → timeOf (timeBytes t) 0 = t ∧ timeOk (timeBytes t) 0 = true ∧ (timeBytes t).length = 12) ∧
  (∀ (b : List Bool) (h : BitVec 58), descramble (scramble b h) h = b)

/-! ### Faults -/

/-- Fault commands complete (R304, R305, R325 to R328): an injection starts, on the Kolox 256 in FACTORY with its command running to the
injection's end, and a write of DIKE_INJ takes each of its forms. (Choices: log entries 3, 80, 117.) -/
def Obligations.FaultCommandsComplete : Prop :=
  ∀ (dt slot : Nat) (c : SlotCmd) (p : List Byte) (v : W32) (s : State), let a := begun dt s
    (due a slot 0x0900 c [] → (inRun a.sys.mode ∨ a.sys.mode = .safe) →
      exec (.faultRead dt slot) s = .next (after a (finish c 0 (sourceBytes a.dike (·.sticky) ++
        sourceBytes a.dike (·.lasting) ++ le 4 (summaryWord a.dike).toNat ++ zeros 4) a))) ∧
    (due a slot 0x0901 c p → inRun a.sys.mode → p.length = 24 →
      let b := forEach ((List.range 192).filter fun n => bit (fld p (n / 8) 1) (n % 8)) a fun s n => clearSource n s
      exec (.faultClear dt slot) s = .next (after a (finish c 0 (sourceBytes b.dike (·.sticky)) b))) ∧
    (due a slot 0x0902 c p → inRun a.sys.mode → p.length = 8 → fld p 5 3 = 0 → fld p 1 1 ≤ 1 → 3 < fld p 0 1 → fld p 0 1 < 192 →
      srcAbsent a.part (fld p 0 1) = false → fld p 2 2 ≠ 0 → fld p 4 1 ≠ 0 → (fld p 1 1 = 1 → srcClass (fld p 0 1) = .minor) →
      exec (.faultCfg dt slot) s = .next (after a (finish c 0 [] (configSource (fld p 0 1) (BitVec.ofNat 16 (fld p 2 2))
        (BitVec.ofNat 8 (fld p 4 1)) (decide (fld p 1 1 = 1)) a)))) ∧
    (due a slot 0x0903 c p → a.sys.mode = .maintenance → a.part ≠ .kx256 → p.length = 4 → fld p 2 2 = 0 → fld p 0 1 < 192 →
      fld p 1 1 ≠ 0 → srcAbsent a.part (fld p 0 1) = false → srcCheck (fld p 0 1) = true →
      exec (.faultInject dt slot) s =
        .next (after a (finish c 0 [] (startInjection (BitVec.ofNat 8 (fld p 0 1)) (BitVec.ofNat 8 (fld p 1 1)) none a)))) ∧
    (due a slot 0x0903 c p → a.sys.mode = .maintenance → a.part = .kx256 → lcNow a = .factory → p.length = 4 → fld p 2 2 = 0 →
      fld p 0 1 < 192 → fld p 1 1 ≠ 0 → srcAbsent a.part (fld p 0 1) = false → srcCheck (fld p 0 1) = true →
      let n := BitVec.ofNat 8 (fld p 0 1)
      let k := BitVec.ofNat 8 (fld p 1 1)
      (fld p 1 1 ≤ 100 → exec (.faultInject dt slot) s = .next (after a (startInjection n k (some slot) (hold c a)))) ∧
      (100 < fld p 1 1 → noDefer a = false →
        exec (.faultInject dt slot) s = .next (after a (deferCmd c (startInjection n k none a))))) ∧
    (awake a → a.pwr.refclk = true → let n := v.extractLsb' 0 8
      let k := v.extractLsb' 8 8
      (srcCheck n.toNat = false ∨ srcAbsent a.part n.toNat = true ∨ k = 0 →
        exec (.dikeInjGo dt v) s = .next (after a { a with out := a.out ++ [.busError] })) ∧
      (srcCheck n.toNat = true → srcAbsent a.part n.toNat = false → k ≠ 0 →
        (v.getLsbD 31 = false ∨ canInject a = false →
          exec (.dikeInjGo dt v) s = .next (after a { a with dike := { a.dike with injSrc := n, injCount := k } })) ∧
        (v.getLsbD 31 = true → canInject a = true →
          let b := endInjection 0 a
          exec (.dikeInjGo dt v) s = .next (after a { b with dike := { b.dike with
            injSrc := n, injCount := k, injLeft := k.toNat, injSlot := none, ftm := decide (a.part = .kx256) } })))) ∧
    (awake a → fwLive a = true →
      exec (.evrLock dt) s = .next (after a { a with plat := { a.plat with lock := true } }))

/-- An occurrence and a window's end complete (R309, R313, R314): on a source of class MINOR or NOTE outside the Jets and wells the
record is sticky, counted in its window, and lasting once THRESHOLD is reached, and no other source's record changes; a window that
ends with the input asserted since its only occurrence makes the source lasting. (Choices: log entries 81, 82.) -/
def Obligations.OccurrencesComplete : Prop :=
  ∀ (dt n : Nat) (holds : Bool) (s : State), let a := begun dt s
    let v := src a.dike n
    awake a → n < 192 → srcAbsent a.part n = false →
    (a.dike.injLeft = 0 → exec (.faultOccurrence dt n holds) s = .next (after a (occur n holds a))) ∧
    (3 < n → (n < 20 ∨ 155 < n) → classCode (srcClass n) < 2 → classCode (srcLasting n) < 2 →
      let w := src (occur n holds a).dike n
      w.sticky = true ∧ w.input = holds ∧ w.winMs = v.winMs ∧ w.thresh = v.thresh ∧ w.mask = v.mask ∧
      (v.lasting = false → w.winOpen = true ∧ w.count = (if v.winOpen then satInc v.count else 1) ∧
        (w.lasting = true ↔ v.thresh.toNat ≤ w.count.toNat)) ∧
      (v.lasting = true → w.lasting = true ∧ w.winOpen = v.winOpen ∧ w.count = v.count) ∧
      (occur n holds a).sys = a.sys ∧ ∀ k, k ≠ n → src (occur n holds a).dike k = src a.dike k) ∧
    exec (.faultWindowClose dt n true) s = .next (after a (closeWindow n a)) ∧
    (v.winOpen = true → classCode (srcLasting n) < 2 →
      let w := src (closeWindow n a).dike n
      w.winOpen = false ∧ w.count = 0 ∧ w.sticky = v.sticky ∧
      (w.lasting = true ↔ v.lasting = true ∨ (v.input = true ∧ v.count = 1)) ∧
      ∀ k, k ≠ n → src (closeWindow n a).dike k = src a.dike k)

/-- R314, R316, R317 and R318: a source whose class is MAJOR or FATAL takes the unit to Safe at once, from every mode in which firmware runs,
and so does one of lasting class MAJOR, not masked, that becomes lasting, by its THRESHOLD or by staying asserted through its window:
safe_line is raised, no valve stays open and every valve's ladder puts out its SAFE_CODE (R81), and FATAL sets its latch. (Choices: log
entries 8, 22, 40, 60, 81.) -/
def Obligations.MajorSourceEntersSafe : Prop :=
  ∀ (dt n : Nat) (holds : Bool) (s : State), let a := begun dt s
    let v := src a.dike n
    let safe := fun t : State => t.sys.mode = .safe ∧ t.dike.safeLine = true ∧ ones t.part.ports t.fab.openPorts = [] ∧
      ∀ k < t.part.ports, let d : PortDac := sget {} t.dac.port (256 + k)
        d.safe = true ∧ valveOutput d = d.safeCode
    awake a → n < 192 → (n < 20 ∨ 155 < n) → srcAbsent a.part n = false →
    a.sys.mode ≠ .safe → (a.sys.mode = .boot → a.sys.fwRun = true) →
    ((srcClass n = .major ∨ srcClass n = .fatal) →
      ∃ t, exec (.faultOccurrence dt n holds) s = .next t ∧ safe t ∧ (src t.dike n).sticky = true ∧
        (srcClass n = .fatal → t.dike.fatal = true)) ∧
    (srcLasting n = .major → v.lasting = false → v.mask = false →
      (v.thresh.toNat ≤ (if v.winOpen then satInc v.count else 1).toNat →
        ∃ t, exec (.faultOccurrence dt n holds) s = .next t ∧ safe t ∧ (src t.dike n).sticky = true ∧ (src t.dike n).lasting = true) ∧
      (v.winOpen = true → v.input = true → v.count = 1 →
        ∃ t, exec (.faultWindowClose dt n true) s = .next t ∧ safe t ∧ (src t.dike n).lasting = true))

/-! ### Registers from inside -/

/-- Writes and errors of the bus complete (R8, R352, R356, R358): a write reaches the register at its address where a master may; one
that no target takes is answered with an error, and so is one that its target takes and does not complete, which is counted as granted
(R369); a read of no target yields 0 with the same answer. (Choices: log entries 39, 85 to 88.) -/
def Obligations.BusComplete : Prop :=
  ∀ (dt : Nat) (m : Master) (q : Priv) (addr : Nat) (v : W32) (write : Bool) (s : State), let a := begun dt s
    let taken := fun x : Nat => if (reached a.part m q x).isSome then
      countTxn 0x0201 ⟨masterNo m, levelOf m q, x, write, true⟩ a else a
    awake a →
    (m ≠ .cpu → (∀ t, a.pwr.refclk = true → reached a.part m q addr = some t →
      exec (.registerWrite dt m q addr v) s = .next (after a (granted m q addr (writeTarget t addr v a)))) ∧
      (a.pwr.refclk = true → reached a.part m q addr = none →
        exec (.registerWrite dt m q addr v) s = .next (after a (answerError 8 m q addr true a))) ∧
      (a.pwr.refclk = true →
        exec (.busTimeout dt m q addr write) s = .next (after a (answerError 9 m q addr write (taken addr)))) ∧
      (a.pwr.refclk = false → exec (.busTimeout dt m q addr write) s = .next (after a a))) ∧
    (m = .cpu → a.pwr.halted = false → a.pwr.refclk = true → let x := swapped a.plat.remap addr
      (∀ t, reached a.part m q x = some t →
        exec (.registerWrite dt m q addr v) s = .next (after a (granted m q x (writeTarget t x v a)))) ∧
      (reached a.part m q x = none →
        exec (.registerWrite dt m q addr v) s = .next (after a (answerError 8 m q x true a))) ∧
      exec (.busTimeout dt m q addr write) s = .next (after a (answerError 9 m q x write (taken x)))) ∧
    (let b := answerError 8 m q addr false a
     reached a.part m q addr = none → busRead m q addr v a = (0, b))

/-! ### Diagnostics, wear and temperature -/

/-- R366: of a source with an event accepted at `t0`, an event that arrives less than 16 router cycles (16 ns) later is dropped, sets the
source's bit in EVR_ECHO and does not restart the period; a later one is accepted and starts the period anew, so that a source delivers at
most one event every 16 ns. -/
def Obligations.EventRefractoryPeriod : Prop :=
  ∀ (n : Nat) (t0 t : Time) (s : State), n < 320 → sget 0 s.plat.lastEv n = t0 + 1 → t0 ≤ t →
    let u := (acceptEv n t s).1
    (t < t0 + ns 16 → (acceptEv n t s).2 = false ∧ u.plat.echo.getLsbD n = true ∧ u.plat.lastEv = s.plat.lastEv ∧
      ∀ k, k ≠ n → u.plat.echo.getLsbD k = s.plat.echo.getLsbD k) ∧
    (t0 + ns 16 ≤ t → (acceptEv n t s).2 = true ∧ sget 0 u.plat.lastEv n = t + 1 ∧ u.plat.echo = s.plat.echo ∧
      (∀ k, k ≠ n → sget 0 u.plat.lastEv k = sget 0 s.plat.lastEv k) ∧
      ∀ t', t ≤ t' → ((acceptEv n t' u).2 = true ↔ t + ns 16 ≤ t'))

/-- Diagnostic commands complete (R306, R307, R332, R344, R348, R367 to R371). (Choices: log entries 3, 27, 66, 83.) -/
def Obligations.DiagnosticsComplete : Prop :=
  ∀ (dt slot : Nat) (c : SlotCmd) (p : List Byte) (s : State), let a := begun dt s
    let n := fld p 2 2
    (due a slot 0x0A00 c p → a.sys.mode = .maintenance → p.length = 12 → fld p 10 2 = 0 → 1 ≤ n → n ≤ 2560 →
      fld p 0 2 + n ≤ a.part.loops → fld p 4 2 ≠ 0 → fld p 6 1 ≤ 1 → fld p 7 1 ≤ 1 → 1 ≤ fld p 8 2 → fld p 8 2 ≤ 2048 →
      a.sys.throttle = false →
      let v : Capture := { first := fld p 0 2, count := n, decim := fld p 4 2, trig := decide (fld p 6 1 = 1),
                           wrapMode := decide (fld p 7 1 = 1), sizeMib := fld p 8 2, running := !decide (fld p 6 1 = 1),
                           waiting := decide (fld p 6 1 = 1) }
      exec (.captureStart dt slot) s = .next (after a (finish c 0 [] { a with plat := { a.plat with capture := v } }))) ∧
    (due a slot 0x0A01 c [0, 0, 0, 0] → a.sys.mode = .maintenance →
      let v := (stopCapture a).plat.capture
      exec (.captureStop dt slot) s =
        .next (after a (finish c 0 (le 8 (min (2 ^ 64 - 1) v.records) ++ le 4 (min 0xFFFFFFFF v.rounds) ++ le 1 (flag v.wrapped) ++ zeros 3) (stopCapture a)))) ∧
    (due a slot 0x0A02 c p → (inRun a.sys.mode ∨ a.sys.mode = .safe) → p.length = 12 → fld p 0 8 % 16 = 0 → fld p 8 4 % 16 = 0 →
      16 ≤ fld p 8 4 → fld p 8 4 ≤ 4064 →
      exec (.captureRead dt slot) s =
        .next (after a (finish c 0 (mread a.plat.capture.mem (fld p 0 8) (fld p 8 4)) a))) ∧
    (due a slot 0x0A03 c p → a.sys.mode = .maintenance → p.length = 16 → fld p 5 1 = 0 → n < a.part.loops →
      (fld p 0 1 = 0 → fld p 1 1 ≤ 1 → fld p 4 1 = 0 → fld p 6 2 ≤ 4095 → fld p 8 4 ≤ 2 ^ 22 → onPath a n = false →
        exec (.inject dt slot) s = .next (after a (finish c 0 [] (startTest c p a)))) ∧
      (fld p 0 1 = 1 → fld p 1 1 = 0 → n < a.part.cells → fld p 4 1 ≤ 1 → fld p 6 2 ≤ 15 → fld p 8 4 = 0 → onPath a n = false →
        exec (.inject dt slot) s = .next (after a (finish c 0 [] (startCurrent c p a)))) ∧
      (fld p 0 1 = 2 → fld p 1 1 = 0 → fld p 4 1 = 0 → fld p 8 4 = 0 →
        exec (.inject dt slot) s = .next (after a (finish c 0 [] (stopOn n (fun _ => true) a))))) ∧
    (awake a → exec (.injectionDurationEnd dt n) s = .next (after a (stopOn n (fun e => match e with
      | some t => decide (t ≤ a.tb.now)
      | none => false) a))) ∧
    (due a slot 0x0A04 c [] → (inRun a.sys.mode ∨ a.sys.mode = .safe) →
      let b := hold c a
      exec (.tempRead dt slot) s =
        .next (after a { b with temp := { b.temp with busy := true, waiting := b.temp.waiting ++ [slot] } })) ∧
    (due a slot 0x0A05 c p → inRun a.sys.mode → p.length = 12 → tempCfgBad p = false →
      let rate := decide (fld p 1 1 = 1)
      exec (.tempCfg dt slot) s = .next (after a (finish c 0 [] (modGroup (fld p 0 1) (fun g =>
        { g with rateMode := rate, interval := n, warn := sgn 16 (fld p 4 2), thr := sgn 16 (fld p 6 2),
                 hyst := sgn 16 (fld p 8 2), period := fld p 10 2, fresh := g.fresh || g.rateMode != rate,
                 since := if rate && !g.rateMode then a.tb.now else g.since }) a)))) ∧
    (due a slot 0x0A06 c p → (inRun a.sys.mode ∨ a.sys.mode = .safe) → p.length = 4 → 1 ≤ n → n ≤ 254 →
      fld p 0 2 + n ≤ a.part.cells →
      exec (.wearRead dt slot) s =
        .next (after a (finish c 0 ((List.range n).flatMap fun i => wearBytes a (fld p 0 2 + i)) a))) ∧
    (due a slot 0x0A07 c p → inRun a.sys.mode → p.length = 16 → fld p 2 2 = 0 → fld p 15 1 = 0 → fld p 0 1 ≤ 63 →
      (fld p 1 1 = 0 → selectOk (sub p 4 12) = true →
        exec (.pmonSet dt slot) s = .next (after a (finish c 0 [] (configPmon (fld p 0 1) (sub p 4 12) a)))) ∧
      (fld p 1 1 = 3 → exec (.pmonSet dt slot) s = .next (after a (finish c 0 [] (pmonSnapshot a))))) ∧
    (due a slot 0x0A08 c p → (inRun a.sys.mode ∨ a.sys.mode = .safe) → p.length = 4 → fld p 3 1 = 0 → 1 ≤ fld p 1 1 →
      fld p 1 1 ≤ 64 → fld p 0 1 + fld p 1 1 ≤ 64 → fld p 2 1 = 0 →
      exec (.pmonRead dt slot) s = .next (after a (finish c 0 ((List.range (fld p 1 1)).flatMap fun i =>
        let v : Pmon := sget {} a.plat.pmon (fld p 0 1 + i)
        le 6 v.value.toNat ++ le 1 (flag v.wrap) ++ zeros 1) a)))

/-- Wear and temperature complete (R329, R332 to R338, R341, R344, R346): folds, saves, predictions, measurements, insertions of heater
B, and a command for a cell whose insertion is under way, which joins it. An insertion that a command asks for begins no sooner than those of
earlier commands (R274). (Choices: log entries 2, 48, 49, 134.) -/
def Obligations.WearAndTemperatureComplete : Prop :=
  ∀ (dt slot cell : Nat) (c : SlotCmd) (p : List Byte) (i : Insert) (readings : List (BitVec 16)) (s : State)
    , let a := begun dt s; let a0 := begun 0 s
    awake a →
    (fwLive a = true →
      exec (.tempMeasurementStart dt) s = .next (after a { a with temp := { a.temp with busy := true } }) ∧
      exec (.wearSave dt) s = .next (after a (saveWear a)) ∧
      exec (.eolPrediction dt) s = .next (after a (forEach (skeys a.wear) a fun s c => predictCell c s)) ∧
      exec (.wearFold dt) s = .next (after a (forEach (skeys a.wear)
        { a with wear := a.wear.map fun e => (e.1, foldWear (loopOf a e.1).desc.htrB e.2) } fun s c => wearLimits c s)) ∧
      (a.temp.busy = true →
        exec (.tempMeasurementDone dt readings) s = .next (after a (measureDone readings a)) ∧
        (measureDone readings a).temp.busy = false ∧ (measureDone readings a).temp.last = readings)) ∧
    (due a slot 0x0307 c p → inSvc a.sys.mode → p.length = 4 → fld p 2 2 = 0 → fld p 0 2 < a.part.cells →
      let b := hold c a
      let n := fld p 0 2
      let before := b.fab.inserts.filter fun i => !i.running && !i.slots.isEmpty
      ((loopOf a n).desc.htrB = false → insertOf b.fab n = none → condAt b.fab n ≠ .opaqueCell → unlit b = true →
        (before = [] → exec (.heaterB dt slot) s = .next (after a { b with fab := { b.fab with inserts := b.fab.inserts ++
          [{ cell := n, tIns := b.tb.now, running := !(jetOf b (jetOfLoop b.part n)).remap, slots := [slot],
             carried := carries b n }] } })) ∧
        (before ≠ [] → exec (.heaterB dt slot) s = .next (after a { b with fab := { b.fab with inserts := b.fab.inserts ++
          [{ cell := n, tIns := before.foldl (fun t i => max t i.tIns) b.tb.now, slots := [slot], carried := carries b n }] } }))) ∧
      (insertOf b.fab n = some i → insertOf a.fab n = some i →
        exec (.heaterB dt slot) s = .next (after a (modInsert n (fun i => { i with slots := i.slots ++ [slot] }) b)))) ∧
    (fwLive a = true → inSvc a.sys.mode = true → (sget {} a.wear cell : Wear).pending = true → insertOf a.fab cell = none →
      condAt a.fab cell ≠ .opaqueCell → unlit a = true → (jetOf a (jetOfLoop a.part cell)).remap = false →
      exec (.heaterBPendingInsert dt cell) s = .next (after a { a with fab := { a.fab with inserts := a.fab.inserts ++
        [{ cell := cell, tIns := a.tb.now, running := true, carried := carries a cell }] } })) ∧
    (a0.sys.mode ≠ .reset → insertOf a0.fab cell = some i → i.running = false →
      ((a0.fab.inserts.takeWhile fun x => x.cell != cell).filter fun i => !i.running && !i.slots.isEmpty) = [] → (jetOf a0 (jetOfLoop a0.part cell)).remap = false →
      let b := reach i.tIns a0
      let through := egrPorts (connsThrough b.part b.fab.cells b.fab.conns cell)
      let ports := through &&& (b.fab.openPorts ||| insertBlocked b)
      let d := forEach (ones b.part.ports (through &&& b.fab.openPorts)) b fun s n => jetValve n false s
      exec (.heaterBTIns cell) s = .next (after a0 (modInsert cell
        (fun i => { i with running := true, tIns := d.tb.now, closed := ports, carried := i.carried || decide (ports ≠ 0) }) d))) ∧
    (a0.sys.mode ≠ .reset → insertOf a0.fab cell = some i → i.running = true → i.remapped = true →
      let b := reach (i.tIns + ns 200120) a0
      let d := { b with fab := { b.fab with inserts := b.fab.inserts.filter fun x => x.cell != cell } }
      let e := if valvesLive d.sys then openValves (i.closed &&& openPortsOf d) d else d
      let w := { e with wear := smod {} e.wear cell fun w => { w with pending := false } }
      exec (.heaterBReopen cell) s = .next (after a0 (forEach i.slots (notifyInsert i.slots.head?
        (flag i.carried + flag i.settled * 2 + flag (!i.slots.isEmpty) * 4) cell (framesLost w i) w)
          fun s k => finishSlot k 0 [] s)))

/-! ### Security -/

/-- Security commands complete (R308, R379, R381 to R384, R386 to R389). (Choices: log entries 3, 15, 45, 84.) -/
def Obligations.SecurityCommandsComplete : Prop :=
  ∀ (dt slot bad : Nat) (back : Option (List Byte)) (c : SlotCmd) (p : List Byte) (to_ : Lc) (s : State), let a := begun dt s
    (due a slot 0x0B00 c p → inRun a.sys.mode → lcNow a ≠ .factory → secretless (lcNow a) = false → attUsable a.pld = true →
      p.length = 32 → a.pld.attNext + bad < 1048576 →
      let i := a.pld.attNext + bad
      let st := statementBytes a p i
      let b := { a with pld := { a.pld with attNext := i + 1 } }
      exec (.attest dt slot ⟨bad, false⟩) s = .next (after a (finish c 0 (st ++ le 4 i ++ le 4 5076)
        { b with sec := { b.sec with sig := hssSign a.pld.attSeed a.pld.attId i st } })) ∧
      exec (.attest dt slot ⟨bad, true⟩) s = .next (after a (softReset b))) ∧
    (due a slot 0x0B01 c p → inRun a.sys.mode → p.length = 4 → 1 ≤ fld p 2 2 → fld p 2 2 ≤ 4064 → fld p 0 2 + fld p 2 2 ≤ 5076 →
      exec (.attestRead dt slot) s =
        .next (after a (finish c 0 (pad (fld p 2 2) (sub a.sec.sig (fld p 0 2) (fld p 2 2))) a))) ∧
    (due a slot 0x0B02 c [] → inRun a.sys.mode →
      exec (.measureRead dt slot) s = .next (after a (finish c 0 (le 1 a.pld.log.length ++ zeros 3 ++ logBytes a.pld) a))) ∧
    (due a slot 0x0B03 c p → inSvc a.sys.mode → 24 ≤ p.length → (p.length - 8) % 16 = 0 → p.length ≤ 4072 → fld p 4 4 = 0 →
      fld p 0 4 % 16 = 0 → fld p 0 4 + (p.length - 8) ≤ 0x400000 →
      exec (.fwWrite dt slot) s = .next (after a (finish c 0 []
        { a with sec := { a.sec with staging := mwrite a.sec.staging (fld p 0 4) (p.drop 8) } }))) ∧
    (due a slot 0x0B04 c p → inSvc a.sys.mode → p.length = 8 → fld p 4 4 = 0 → fld p 0 4 ≤ 0x400000 → noDefer a = false →
      let b := deferCmd c a
      exec (.fwActivate dt slot) s =
        .next (after a { b with sec := { b.sec with fwLen := fld p 0 4, fwSlot := some slot } })) ∧
    (awake a → fwLive a = true → a.sec.fwSlot.isSome = true → deferredCmd a 0x0B04 = some c →
      let i := mread a.sec.staging 0 a.sec.fwLen
      let b := { a with sec := { a.sec with fwSlot := none } }
      imageOk a.part a.pld i = true → let x := storeImage i (back.getD i) a.pld
      exec (.fwActivateDone dt back) s = .next (after a (if x.2 then finish c 0 [] { b with pld := x.1 }
        else failCmd c 0x20 { b with pld := x.1 })) ∧
      (back = none → x.2 = true ∧ slotImage x.1 (!a.pld.slotUsed) = i)) ∧
    (due a slot 0x0B05 c p → a.sys.mode = .dark → lcTarget (fld p 0 1) = some to_ → lcMoves a to_ = true → p.length = 36 →
      fld p 1 3 = 0 → authOk a to_ (sub p 4 32) = true →
      let b := keepWear a
      let d := finish c 0 [] { b with pld := writeLc to_ b.pld }
      exec (.lcTransition dt slot) s =
        .next (after a { d with sys := { d.sys with resetAt := some (d.tb.now + ns 10000) } }))

/-! ### What every command keeps -/

/-- R14 and R16: every step keeps the mode true to the degraded conditions: in Operate none holds and in Degraded one does. Two cases are left
out. While a host's mode command waits for its change the mode may differ from the conditions, whose change comes behind it (the model's
reading of R16, log entry 124); and in Maintenance the mode is Maintenance whatever holds. (Choices: log entries 8, 124.) -/
def Obligations.StepKeepsDegraded : Prop := ∀ s t : State, degradedInv s = true → step s = .next t → degradedInv t = true

/-- R13 and R148: every step keeps every valve blocked, outside Reset, wherever mode or role lets no light out. (Choices: log entry 8.) -/
def Obligations.StepKeepsValvesBlocked : Prop := ∀ s t : State, valveInv s = true → step s = .next t → valveInv t = true

/-- R237 and R431: every step keeps Solo a unit whose partner is neither present nor asserts its role, but where it has seen the role
asserted (ROLE_IN, which stays seen until its release is) or a promotion is under way. (Choices: log entry 72.) -/
def Obligations.StepKeepsSolo : Prop := ∀ s t : State, soloInv s = true → step s = .next t → soloInv t = true

/-- Every step keeps the byte memories in canonical form (R261, R306, R308, R372, R377): the mailbox window, the capture buffer, the
firmware staging area, the SRAM, the rest of the Basin and the Polder's scratch RAM. (Choices: log entry 39.) -/
def Obligations.StepKeepsMemories : Prop := ∀ s t : State, memWf s = true → step s = .next t → memWf t = true

/-- What holds after reset: the four invariants, an empty queue, and what the spec's register tables give (R14, R237, R390, R419): mode,
role, the timebase, the Jets, the Weir, the Dike, the mailbox; and the test access port has the part's IDCODE to shift out. (Choices: log
entry 4.) -/
def Obligations.ResetMeetsTheInvariants : Prop :=
  let s := State.reset
  degradedInv s = true ∧ valveInv s = true ∧ soloInv s = true ∧ memWf s = true ∧ s.pending = [] ∧
  s.sys.mode = .reset ∧ s.sys.role = .solo ∧ s.tb.ts = .free ∧ s.tb.thr = 1000 ∧ s.tb.slewPpm = 50 ∧ s.tb.holdLimit = 300 ∧
  s.tb.servoBw = 3 ∧ s.trk.ageMax = 500 ∧ s.trk.udpPort = 47806 ∧ s.trk.staleMs = 2000 ∧ s.jets.gap = 800 ∧
  s.mbx.irqMask = 0x7FF ∧ s.mbx.busy = 0 ∧ s.mbx.done = 0 ∧ s.cld.bbm = 1000 ∧ s.cld.laneEn = 3 ∧ s.dike.fatal = false ∧
  (∀ n < 256, (wportOf s n).glead = 5000 ∧ (wportOf s n).guard = 40 ∧ (wportOf s n).lineRate = 0) ∧
  (∀ k < 2048, (wqueueOf s k).cir = 200000 ∧ (wqueueOf s k).pir = 200000 ∧ (wqueueOf s k).weight = 1 ∧ (wqueueOf s k).yelMax = 16) ∧
  (∀ j < 68, (jetOf s j).limit = 16 ∧ (jetOf s j).win = 1024 ∧ (jetOf s j).cap = 255 ∧ (jetOf s j).run = false) ∧
  (∀ n < 192, (src s.dike n).winMs = 1000 ∧ (src s.dike n).sticky = false ∧ (src s.dike n).mask = false) ∧
  (∀ p, (tapCapture { s with part := p }).tap.shift = (List.range 32).map fun i => (tapIdcode p).getLsbD i)

/-- The frame of what follows a command's own effect: it changes no calibration, no measurement of temperature, no train, nothing of the
servo, nothing stored and nothing of security, no applied cell, connection, condition, domain, configuration or failure of the
fabric, no setting of the timebase, and of the unit's own state nothing but mode, role and a transition under way. (Choices: log
entry 8.) -/
def Obligations.AfterFrame : Prop :=
  ∀ a b : State, let t := after a b
    t.part = b.part ∧ t.pending = a.pending ∧ t.cal = b.cal ∧ t.temp = b.temp ∧ t.sec = b.sec ∧ t.pld = b.pld ∧ t.trk = b.trk ∧
    t.servo = b.servo ∧
    t.fab = { b.fab with inserts := t.fab.inserts, active := t.fab.active, ready := t.fab.ready, openPorts := t.fab.openPorts,
                         queue := t.fab.queue, recon := t.fab.recon } ∧
    t.tb = { b.tb with now := t.tb.now } ∧
    t.sys = { b.sys with mode := t.sys.mode, role := t.sys.role, trans := t.sys.trans }
end

