-- ==== Sys2Proof/Laws/Command.lean ====
section
/-! SUPPORT. What the operations that every command's meaning goes through can answer. -/

namespace Sys2Proof.Machine

/-- The step runs the front command on the rest of the queue. -/
theorem step_cons {s : State} {c : Instr} {rest : List Instr} (h : s.pending = c :: rest) : step s = exec c { s with pending := rest } := by
  simp [step, h]

/-- On an empty queue the step leaves the state as it is. -/
theorem step_nil {s : State} (h : s.pending = []) : step s = .next s := by simp [step, h]

/-- Every meaning made by `run` answers a next state. -/
@[simp] theorem run_eq (dt : Nat) (s : State) (f : State → State) : run dt s f = .next (after (begun dt s) (f (begun dt s))) := rfl

/-- Outside Reset a happening takes its effect. -/
theorem live_next {dt : Nat} {s : State} {f : State → State} (h : awake (begun dt s) = true) :
    live dt s f = .next (after (begun dt s) (f (begun dt s))) := by
  simp_all [live, awake]

/-- In Reset nothing happens. -/
theorem live_reset {dt : Nat} {s : State} {f : State → State} (h : (begun dt s).sys.mode = .reset) :
    live dt s f = .next (after (begun dt s) (begun dt s)) := by
  simp [live, h]

/-- A command that is due and passes every check takes its effect. -/
theorem hostCmd_next {q : Req} {dt slot : Nat} {c : SlotCmd} {p : List Byte} {eff : SlotCmd → List Byte → State → State} {s : State}
    (hd : due (begun dt s) slot q.opcode c p = true) (hm : q.modes (begun dt s).sys.mode = true)
    (hl : q.lcBad (begun dt s) p = false) (hr : q.roles (begun dt s).sys.role = true)
    (hc : ∀ x ∈ q.checks (begun dt s) p, x.1 = false) :
    hostCmd q dt slot eff s = .next (after (begun dt s) (eff c p (begun dt s))) := by
  simp only [due, Bool.and_eq_true, decide_eq_true_eq, Bool.not_eq_true'] at hd
  obtain ⟨⟨⟨⟨ha, hs⟩, hk⟩, hp⟩, hb⟩ := hd
  have hf : q.fails (begun dt s) p = none := by
    simp only [Req.fails, hm, hl, hr, hb, List.cons_append, List.nil_append]
    simpa using hc
  rw [hostCmd, live_next (by simpa using ha)]
  simp [serve, hs, hk, hp, hf]

/-- A command that is due and fails a check is answered with the first failed check's status, and nothing else. -/
theorem hostCmd_fails {q : Req} {dt slot : Nat} {c : SlotCmd} {eff : SlotCmd → List Byte → State → State} {s : State} {code : Nat}
    (ha : awake (begun dt s) = true) (hs : served (begun dt s) q.opcode = true) (hk : readyCmd (begun dt s) slot q.opcode = some c)
    (hf : q.fails (begun dt s) (slotPayload (begun dt s) slot) = some code) :
    hostCmd q dt slot eff s = .next (after (begun dt s) (tagDrop (tagOfSlot slot) (failCmd c code (begun dt s)))) := by
  rw [hostCmd, live_next ha]
  simp [serve, hs, hk, hf]

/-- A command due in a slot is one of that slot. -/
theorem readyCmd_slot {s : State} {slot op : Nat} {c : SlotCmd} (h : readyCmd s slot op = some c) :
    c.slot = slot ∧ c.opcode = op ∧ c.deferred = false := by
  unfold readyCmd cmdAt at h
  obtain ⟨h1, h2⟩ := Option.filter_eq_some_iff.mp h
  have h3 := List.find?_some h1
  simp at h2 h3
  exact ⟨h3.1, h2.1, h3.2⟩

/-- What `due` says. -/
theorem due_slot {s : State} {slot op : Nat} {c : SlotCmd} {p : List Byte} (h : due s slot op c p = true) :
    c.slot = slot ∧ c.opcode = op ∧ c.deferred = false := by
  simp only [due, Bool.and_eq_true, decide_eq_true_eq] at h
  exact readyCmd_slot h.1.1.2

/-- What every step of a fold leaves as it is, the fold does. -/
theorem foldl_keeps {α β γ : Type} (g : α → γ) (f : α → β → α) (h : ∀ a b, g (f a b) = g a) (l : List β) (a : α) :
    g (l.foldl f a) = g a := by
  induction l generalizing a with
  | nil => rfl
  | cons x t ih => rw [List.foldl_cons, ih, h]

/-- Counting changes nothing but the platform and the count of free values drawn. -/
theorem tally_keeps {γ : Type} (g : State → γ) (hp : ∀ s p n, g { s with plat := p, draws := n } = g s) (s : State) :
    g (tally s) = g s := by
  have hc : ∀ e inc (s : State), g (countBy e inc s) = g s := by
    intro e inc s
    unfold countBy
    split
    · rfl
    · exact (foldl_keeps g (fun u (_ : Nat) => ev 302 u) (fun u _ => hp u _ _) _ _).trans (hp s _ _)
  have hn : g (countCycles s) = g s := by
    unfold countCycles; dsimp only; split
    · exact hp s _ _
    · rw [hc, hc]; exact hp s _ _
  rw [← hn]
  unfold tally drawCounters
  split
  · rfl
  · refine (foldl_keeps g _ (fun a x => ?_) _ _).trans (hp _ _ _)
    dsimp only
    (repeat' split) <;> first | rfl | exact hp a _ _

/-- The messages that have become due change nothing but the Weir's ports and what is sent. -/
theorem sendDue_keeps {γ : Type} (g : State → γ) (hw : ∀ s w o, g { s with weir := w, out := o } = g s) (s : State) :
    g (sendDue s) = g s := by
  unfold sendDue
  dsimp only
  split
  · rfl
  · refine foldl_keeps g _ (fun a e => ?_) _ _
    refine (foldl_keeps g _ (fun a m => ?_) _ _).trans (hw a _ a.out)
    unfold weirSend
    split
    · exact hw a a.weir _
    · rfl

/-- What a command finds of anything but the platform, the free values drawn, device time, the Weir's ports and what is sent, where no
Reset is due. -/
theorem begun_keeps {γ : Type} (g : State → γ) (hp : ∀ s p n, g { s with plat := p, draws := n } = g s)
    (hw : ∀ s w o, g { s with weir := w, out := o } = g s) {dt : Nat} {s : State} (h : s.sys.resetAt = none) :
    g (begun dt s) = g (elapse dt (takeIrqs { s with out := [] })) := by
  have hr : (tally (sendDue (elapse dt (takeIrqs { s with out := [] })))).sys.resetAt = none := by
    rw [tally_keeps (·.sys.resetAt) fun _ _ _ => rfl, sendDue_keeps (·.sys.resetAt) fun _ _ _ => rfl, ← h]
    unfold elapse takeIrqs; (repeat' split) <;> rfl
  simp only [begun, orderedReset, hr]
  exact (tally_keeps g hp _).trans (sendDue_keeps g hw _)

/-- The queue is no command's to change. -/
@[simp] theorem begun_pending (dt : Nat) (s : State) : (begun dt s).pending = s.pending := by
  have ht : (tally (sendDue (elapse dt (takeIrqs { s with out := [] })))).pending = s.pending := by
    rw [tally_keeps State.pending fun _ _ _ => rfl, sendDue_keeps State.pending fun _ _ _ => rfl]
    unfold elapse takeIrqs; (repeat' split) <;> rfl
  unfold begun orderedReset
  (repeat' split) <;> exact ht

@[simp] theorem after_pending (a b : State) : (after a b).pending = a.pending := rfl

/-- In Reset nothing follows a command's own effect. -/
theorem after_reset {a b : State} (h : b.sys.mode = .reset) :
    after a b = { b with plat := { b.plat with events := [] }, pending := a.pending } := by
  simp [after, commit, forgetEvents, h]

/-- A command whose effect takes the device into Reset. -/
theorem run_reset {dt : Nat} {s : State} {f : State → State} {t : State} (hf : f (begun dt s) = t) (h : t.sys.mode = .reset)
    (he : t.plat.events = []) (hp : t.pending = s.pending) : run dt s f = .next t := by
  subst hf
  rw [run_eq, after_reset h, begun_pending, ← hp, ← he]

end Sys2Proof.Machine
end

