-- ==== Sys2Proof/Laws/Frames.lean ====
section
/-! SUPPORT. What the operations that follow every command leave alone: one lemma per operation. -/

namespace Sys2Proof.Machine

/-- A state with every field blanked that what follows a command (`commit`) may write, so that `kept` of a state is what it leaves alone. -/
def kept (s : State) : State :=
  { s with
    pwr := {}, mbx := {}, pcie := {}, dike := {}, jets := {}, wells := [], dac := {}, tb := { s.tb with now := 0 }, slc := {}, weir := {}, cld := {},
    pair := {}, wear := [], plat := {}, out := [], draws := 0
    sys := { s.sys with mode := .reset, role := .solo, trans := none }
    fab := { s.fab with inserts := [], active := none, ready := [], openPorts := 0, queue := [], recon := [] } }
@[simp] theorem kept_mk (s : State) (pwr : Pwr) (mbx : Mbx) (pcie : Pcie) (dike : Dike) (jets : Jets) (wells : Sparse Well) (dac : Dac) (slc : Slc)
    (weir : Weir) (cld : Cld) (pair : PairSt) (wear : Sparse Wear) (plat : Plat) (out : List Out) (draws : Nat) :
    kept { s with pwr := pwr, mbx := mbx, pcie := pcie, dike := dike, jets := jets, wells := wells, dac := dac, slc := slc, weir := weir,
                  cld := cld, pair := pair, wear := wear, plat := plat, out := out, draws := draws } = kept s := rfl

@[simp] theorem kept_mkSys (s : State) (pwr : Pwr) (mbx : Mbx) (pcie : Pcie) (dike : Dike) (jets : Jets) (wells : Sparse Well) (dac : Dac) (slc : Slc)
    (weir : Weir) (cld : Cld) (pair : PairSt) (wear : Sparse Wear) (plat : Plat) (out : List Out) (draws : Nat)
    (m : Mode) (r : Role) (tr : Option Trans) :
    kept { s with pwr := pwr, mbx := mbx, pcie := pcie, dike := dike, jets := jets, wells := wells, dac := dac, slc := slc, weir := weir,
                  cld := cld, pair := pair, wear := wear, plat := plat, out := out, draws := draws,
                  sys := { s.sys with mode := m, role := r, trans := tr } } = kept s := rfl

@[simp] theorem kept_mkFab (s : State) (pwr : Pwr) (mbx : Mbx) (pcie : Pcie) (dike : Dike) (jets : Jets) (wells : Sparse Well) (dac : Dac) (slc : Slc)
    (weir : Weir) (cld : Cld) (pair : PairSt) (wear : Sparse Wear) (plat : Plat) (out : List Out) (draws : Nat)
    (q : List RouteReq) (ac : Option Routed) (rd : List Routed) (rc : List Reconf) (op : PortMap) (ins : List Insert) :
    kept { s with pwr := pwr, mbx := mbx, pcie := pcie, dike := dike, jets := jets, wells := wells, dac := dac, slc := slc, weir := weir,
                  cld := cld, pair := pair, wear := wear, plat := plat, out := out, draws := draws,
                  fab := { s.fab with queue := q, active := ac, ready := rd, recon := rc, openPorts := op, inserts := ins } } = kept s := rfl

@[simp] theorem kept_mkTb (s : State) (pwr : Pwr) (mbx : Mbx) (pcie : Pcie) (dike : Dike) (jets : Jets) (wells : Sparse Well) (dac : Dac) (slc : Slc)
    (weir : Weir) (cld : Cld) (pair : PairSt) (wear : Sparse Wear) (plat : Plat) (out : List Out) (draws : Nat)
    (now : Time) :
    kept { s with pwr := pwr, mbx := mbx, pcie := pcie, dike := dike, jets := jets, wells := wells, dac := dac, slc := slc, weir := weir,
                  cld := cld, pair := pair, wear := wear, plat := plat, out := out, draws := draws,
                  tb := { s.tb with now := now } } = kept s := rfl

@[simp] theorem kept_forEach {α : Type} (l : List α) (s : State) (f : State → α → State) (h : ∀ s x, kept (f s x) = kept s) :
    kept (forEach l s f) = kept s := by
  unfold forEach
  induction l generalizing s with
  | nil => rfl
  | cons x t ih => simp only [List.foldl_cons]; rw [ih, h]
@[simp] theorem kept_ite (c : Prop) [Decidable c] (a b : State) :
    kept (if c then a else b) = if c then kept a else kept b := by split <;> rfl
@[simp] theorem kept_withMbx (f : Mbx → Mbx) (s : State) : kept (withMbx f s) = kept s := by simp [withMbx]
@[simp] theorem kept_emit (o : Out) (s : State) : kept (emit o s) = kept s := by simp [emit]
@[simp] theorem kept_signal (v : Nat) (s : State) : kept (signal v s) = kept s := by simp [signal]
@[simp] theorem kept_ringPost (typ : Nat) (t : Time) (a : About) (body : List Byte) (s : State) :
    kept (ringPost typ t a body s) = kept s := by
  simp [ringPost]
@[simp] theorem kept_flushLost (s : State) : kept (flushLost s) = kept s := by
  unfold flushLost; (repeat' split) <;> simp
@[simp] theorem kept_notifyAt (t : Time) (typ : Nat) (a : About) (deferred : Bool) (body : List Byte) (s : State) :
    kept (notifyAt t typ a deferred body s) = kept s := by
  simp [notifyAt]
@[simp] theorem kept_dropCmd (c : SlotCmd) (s : State) : kept (dropCmd c s) = kept s := by simp [dropCmd]
@[simp] theorem kept_respond (n : Nat) (opcode : Nat) (seq : Nat) (status : Nat) (payload : List Byte) (s : State) :
    kept (respond n opcode seq status payload s) = kept s := by
  simp [respond]
@[simp] theorem kept_finish (c : SlotCmd) (status : Nat) (payload : List Byte) (s : State) :
    kept (finish c status payload s) = kept s := by
  simp [finish]
@[simp] theorem kept_failCmd (c : SlotCmd) (code : Nat) (s : State) : kept (failCmd c code s) = kept s := by simp [failCmd]
@[simp] theorem kept_releaseRole (s : State) : kept (releaseRole s) = kept s := by
  unfold releaseRole; simp; (repeat' split) <;> simp
@[simp] theorem kept_soloRule (s : State) : kept (soloRule s) = kept s := by simp [soloRule]
@[simp] theorem kept_failSlot (slot : Nat) (code : Nat) (s : State) : kept (failSlot slot code s) = kept s := by
  unfold failSlot; (repeat' split) <;> simp
@[simp] theorem kept_abandonPromotion (s : State) : kept (abandonPromotion s) = kept s := by
  unfold abandonPromotion; (repeat' split) <;> simp
@[simp] theorem kept_enterResync (s : State) : kept (enterResync s) = kept s := by
  exact (rfl : kept (enterResync s) = kept (abandonPromotion s)).trans (kept_abandonPromotion s)
@[simp] theorem kept_becomeEligible (s : State) : kept (becomeEligible s) = kept s := by simp [becomeEligible]
@[simp] theorem kept_enterMode (m : Mode) (s : State) : kept (enterMode m s) = kept s := by simp [enterMode]
@[simp] theorem kept_settleDegraded (s : State) : kept (settleDegraded s) = kept s := by simp [settleDegraded]
@[simp] theorem kept_modLoop (l : Nat) (f : Loop → Loop) (s : State) : kept (modLoop l f s) = kept s := by simp [modLoop]
@[simp] theorem kept_writeValve (n : Nat) (op : Bool) (s : State) : kept (writeValve n op s) = kept s := by simp [writeValve]
@[simp] theorem kept_blockValves (s : State) : kept (blockValves s) = kept s := by simp [blockValves]
@[simp] theorem kept_stopInjections (s : State) : kept (stopInjections s) = kept s := by simp [stopInjections]
@[simp] theorem kept_evAt (t : Time) (n : Nat) (s : State) : kept (evAt t n s) = kept s := by simp [evAt]
@[simp] theorem kept_ev (n : Nat) (s : State) : kept (ev n s) = kept s := by simp [ev]
@[simp] theorem kept_stopCapture (s : State) : kept (stopCapture s) = kept s := by simp [stopCapture]
@[simp] theorem kept_finishSlot (slot : Nat) (status : Nat) (payload : List Byte) (s : State) :
    kept (finishSlot slot status payload s) = kept s := by
  unfold finishSlot; (repeat' split) <;> simp
@[simp] theorem kept_endInjection (status : Nat) (s : State) : kept (endInjection status s) = kept s := by
  unfold endInjection; dsimp only; (repeat' split) <;> simp
@[simp] theorem kept_leaveMaintenance (s : State) : kept (leaveMaintenance s) = kept s := by simp [leaveMaintenance]
@[simp] theorem kept_withWeir (f : Weir → Weir) (s : State) : kept (withWeir f s) = kept s := by simp [withWeir]
@[simp] theorem kept_weirClear (s : State) : kept (weirClear s) = kept s := by simp [weirClear]
@[simp] theorem kept_modDom (d : Nat) (f : SlcDom → SlcDom) (s : State) : kept (modDom d f s) = kept s := by simp [modDom]
@[simp] theorem kept_ownPositions (s : State) : kept (ownPositions s) = kept s := by
  exact kept_forEach _ _ _ fun s d => by dsimp only; (repeat' split) <;> simp
@[simp] theorem kept_modWPort (n : Nat) (f : WPort → WPort) (s : State) : kept (modWPort n f s) = kept s := by simp [modWPort]
@[simp] theorem kept_modWQueue (k : Nat) (f : WQueue → WQueue) (s : State) : kept (modWQueue k f s) = kept s := by
  simp [modWQueue]
@[simp] theorem kept_weirSend (l : Nat) (m : List Byte) (s : State) : kept (weirSend l m s) = kept s := by simp [weirSend]
theorem kept_foldr {α : Type} (l : List α) (s : State) (f : α → State → State) (h : ∀ x s, kept (f x s) = kept s) :
    kept (l.foldr f s) = kept s := by
  induction l with
  | nil => rfl
  | cons x t ih => rw [List.foldr_cons, h, ih]
@[simp] theorem kept_weirSilence (s : State) : kept (weirSilence s) = kept s := by
  unfold weirSilence; dsimp only; split
  · rfl
  · exact (kept_foldr _ _ _ fun _ _ => kept_modWQueue _ _ _).trans (kept_withWeir _ _)
@[simp] theorem kept_tagDrop (f : TagSt → Bool) (s : State) : kept (tagDrop f s) = kept s := by
  unfold tagDrop; (repeat' split) <;> simp
@[simp] theorem kept_discard (n : Nat) (q : Nat) (colour : Nat) (reason : Nat) (tag : BitVec 16) (s : State) :
    kept (discard n q colour reason tag s) = kept s := by
  simp [discard]
@[simp] theorem kept_refit (d : Nat) (c : Cal) (conns : ConnMap) (s : State) : kept (refit d c conns s) = kept s := by
  exact kept_forEach _ _ _ fun s n => (kept_forEach _ _ _ fun s k => by (try dsimp only); split <;> simp).trans (by simp)
@[simp] theorem kept_weirFresh (s : State) : kept (weirFresh s) = kept s := by
  unfold weirFresh; (try dsimp only); rw [kept_forEach]
  · simp
  · intro s d; (repeat' split) <;> simp
@[simp] theorem kept_withSlc (f : Slc → Slc) (s : State) : kept (withSlc f s) = kept s := by simp [withSlc]
@[simp] theorem kept_resumeFrom (t : Time) (d : Nat) (s : State) : kept (resumeFrom t d s) = kept s := by
  unfold resumeFrom; (repeat' split) <;> simp
@[simp] theorem kept_sluiceStarts (s : State) : kept (sluiceStarts s) = kept s := by
  unfold sluiceStarts
  exact (kept_forEach (List.range 16) _ _ fun s d => kept_resumeFrom _ d s).trans (by simp)
@[simp] theorem kept_notify (typ : Nat) (body : List Byte) (s : State) : kept (notify typ body s) = kept s := by simp [notify]
@[simp] theorem kept_notifyCal (about : About) (d : Nat) (event : Nat) (t : Time) (s : State) :
    kept (notifyCal about d event t s) = kept s := by simp [notifyCal]
@[simp] theorem kept_sluiceStops (s : State) : kept (sluiceStops s) = kept s := by
  unfold sluiceStops; refine (kept_forEach (List.range 16) _ _ fun s d => ?_).trans (by simp)
  dsimp only; (repeat' split) <;> simp
@[simp] theorem kept_answerMode (s : State) : kept (answerMode s) = kept s := by
  unfold answerMode; split <;> simp
@[simp] theorem kept_rules (s : State) : kept (rules s) = kept s := by simp [rules]
@[simp] theorem kept_edgesOfRole  (a : State) (s : State) : kept (edgesOfRole a s) = kept s := by simp [edgesOfRole]
@[simp] theorem kept_edgesOfSluice  (s : State) : kept (edgesOfSluice s) = kept s := by simp [edgesOfSluice]
@[simp] theorem kept_edgesOfPair  (a : State) (s : State) : kept (edgesOfPair a s) = kept s := by simp [edgesOfPair]
@[simp] theorem kept_edges (a : State) (s : State) : kept (edges a s) = kept s := by simp [edges]
@[simp] theorem kept_countBy (e : Nat) (inc : Pmon → Nat) (s : State) : kept (countBy e inc s) = kept s := by
  unfold countBy; split
  · rfl
  · exact (kept_forEach (List.range _) _ (fun s _ => ev 302 s) fun s _ => kept_ev _ s).trans (by simp)
@[simp] theorem kept_eachPmon (f : Pmon → Pmon) (s : State) : kept (eachPmon f s) = kept s := by simp [eachPmon]
@[simp] theorem kept_pmonSnapshot (s : State) : kept (pmonSnapshot s) = kept s := by simp [pmonSnapshot]
@[simp] theorem kept_pmonClear (s : State) : kept (pmonClear s) = kept s := by simp [pmonClear]
@[simp] theorem kept_pmonFreeze (b : Bool) (s : State) : kept (pmonFreeze b s) = kept s := by simp [pmonFreeze]
@[simp] theorem kept_modJet (j : Nat) (f : Jet → Jet) (s : State) : kept (modJet j f s) = kept s := by simp [modJet]
@[simp] theorem kept_modWell (w : Nat) (f : Well → Well) (s : State) : kept (modWell w f s) = kept s := by simp [modWell]
@[simp] theorem kept_markFailed (n : Nat) (s : State) : kept (markFailed n s) = kept s := by simp [markFailed]
@[simp] theorem kept_notifyFault (n : Nat) (s : State) : kept (notifyFault n s) = kept s := by simp [notifyFault]
@[simp] theorem kept_safeValves (s : State) : kept (safeValves s) = kept s := by simp [safeValves]
@[simp] theorem kept_stopJets (s : State) : kept (stopJets s) = kept s := by simp [stopJets]
@[simp] theorem kept_notifyInsert (slot : Option Nat) (flags item value : Nat) (s : State) :
    kept (notifyInsert slot flags item value s) = kept s := by simp [notifyInsert]
@[simp] theorem kept_stopInserts (s : State) : kept (stopInserts s) = kept s := by
  unfold stopInserts
  exact (rfl : kept _ = kept (forEach s.fab.inserts s _)).trans (kept_forEach _ _ _ fun s i => by dsimp only; split <;> simp)
@[simp] theorem kept_dropRoutes (s : State) : kept (dropRoutes s) = kept s := by simp [dropRoutes]
@[simp] theorem kept_fireAbandoned (s : State) : kept (fireAbandoned s) = kept s := by
  exact kept_forEach _ _ _ fun s r => kept_forEach _ _ _ fun s e => by simp
@[simp] theorem kept_abandonReconfs (s : State) : kept (abandonReconfs s) = kept s := by simp [abandonReconfs]
@[simp] theorem kept_abandonCalibration (s : State) : kept (abandonCalibration s) = kept s := by simp [abandonCalibration, countToggles]
@[simp] theorem kept_enterSafe (n : Nat) (s : State) : kept (enterSafe n s) = kept s := by simp [enterSafe]
@[simp] theorem kept_react (n : Nat) (c : FClass) (s : State) : kept (react n c s) = kept s := by
  unfold react; simp; (repeat' split) <;> simp
@[simp] theorem kept_occur (n : Nat) (holds : Bool) (s : State) : kept (occur n holds s) = kept s := by simp [occur]
@[simp] theorem kept_raise (n : Nat) (s : State) : kept (raise n s) = kept s := by simp [raise]
@[simp] theorem kept_captureOne (s : State) (l : Nat) : kept (captureOne s l) = kept s := by simp [captureOne]
@[simp] theorem kept_captureRound (s : State) : kept (captureRound s) = kept s := by simp [captureRound]
@[simp] theorem kept_startArmed (j : Nat) (s : State) : kept (startArmed j s) = kept s := by simp [startArmed]
@[simp] theorem kept_doTask (n : Nat) (s : State) : kept (doTask n s) = kept s := by simp [doTask]
@[simp] theorem kept_activations (lag : Nat) (s : State) : kept (activations lag s).1 = kept s := by
  have h : ∀ (l : List (Nat × Time)) (a : State × List (Nat × Nat)), kept (l.foldl (fun (a : State × List (Nat × Nat)) e =>
      let (s, ok) := acceptEv e.1 e.2 a.1
      (s, if ok then a.2 ++ (tasksOf s.plat e.1).map ((e.2 / 65536 + lag, ·)) else a.2)) a).1 = kept a.1 := by
    intro l
    induction l with
    | nil => intro a; rfl
    | cons e t ih => intro a; rw [List.foldl_cons, ih]; simp only [acceptEv]; split <;> simp
  unfold activations
  rw [h]
  simp
@[simp] theorem kept_routeOnce (lag : Nat) (s : State) : kept (routeOnce lag s) = kept s := by
  have h := kept_activations lag s
  unfold routeOnce
  generalize activations lag s = x at h ⊢
  obtain ⟨u, acts⟩ := x
  refine (kept_forEach _ _ _ fun s c => kept_forEach _ _ _ fun s t => kept_doTask t s).trans ?_
  dsimp only at h ⊢
  rw [← h]
  split
  · rfl
  · exact (kept_countBy _ _ _).trans rfl
@[simp] theorem kept_routeAll (n : Nat) (s : State) : kept (routeAll n s) = kept s := by
  induction n generalizing s with
  | zero => rfl
  | succ k ih => simp [routeAll, ih]
@[simp] theorem kept_safeCounters (a : State) (s : State) : kept (safeCounters a s) = kept s := by simp [safeCounters]
@[simp] theorem kept_settle (a : State) (s : State) : kept (settle a s) = kept s := by simp [settle]
@[simp] theorem kept_reach (t : Time) (s : State) : kept (reach t s) = kept s := by simp [reach]
@[simp] theorem kept_startCalendar (d : Nat) (s : State) : kept (startCalendar d s) = kept s := by
  unfold startCalendar; (repeat' split) <;> simp
@[simp] theorem kept_passWindow (d : Nat) (s : State) : kept (passWindow d s) = kept s := by
  unfold passWindow; simp; (repeat' split) <;> simp
@[simp] theorem kept_mirror (i : Item) (s : State) : kept (mirror i s) = kept s := by simp [mirror]
@[simp] theorem kept_withdraw (d : Nat) (s : State) : kept (withdraw d s) = kept s := by
  exact kept_forEach _ _ _ fun s n => kept_forEach _ _ _ fun s k => by (try dsimp only); split <;> simp
@[simp] theorem kept_tagStage (mine : TagSt → Bool) (k : Nat) (s : State) : kept (tagStage mine k s) = kept s := by
  unfold tagStage; dsimp only; (repeat' split) <;> simp
@[simp] theorem kept_tagEnter (slot : Option Nat) (entry : Option (Bool × Nat × Nat)) (s : State) :
    kept (tagEnter slot entry s) = kept s := by
  unfold tagEnter; dsimp only; (repeat' split) <;> simp
@[simp] theorem kept_readEntry (tracked : Bool) (d e : Nat) (w : Nat × Nat × Time) (s : State) :
    kept (readEntry tracked d e w s) = kept s := by simp [readEntry]
@[simp] theorem kept_fillPrep (s : State) : kept (fillPrep s) = kept s := by
  unfold fillPrep; dsimp only; (repeat' split) <;> simp
@[simp] theorem kept_dropPreps (f : Prep → Bool) (s : State) : kept (dropPreps f s) = kept s := by
  unfold dropPreps; exact (kept_forEach _ _ _ fun s _ => kept_fillPrep s).trans (by simp)
@[simp] theorem kept_giveUpPreps (f : Prep → Bool) (s : State) : kept (giveUpPreps f s) = kept s := by
  unfold giveUpPreps; exact (kept_dropPreps f _).trans (kept_forEach _ _ _ fun s p => kept_tagDrop _ s)
@[simp] theorem kept_stopCalendar (about : About) (d : Nat) (event : Nat) (s : State) : kept (stopCalendar about d event s) = kept s := by
  simp [stopCalendar]
@[simp] theorem kept_takeStop (d : Nat) (k : Nat) (s : State) : kept (takeStop d k s) = kept s := by
  unfold takeStop; simp; (repeat' split) <;> simp
@[simp] theorem kept_takeStops (s : State) : kept (takeStops s) = kept s := by
  exact kept_forEach _ _ _ fun s d => by split <;> simp
@[simp] theorem kept_tellPositions (a : State) (s : State) : kept (tellPositions a s) = kept s := by simp [tellPositions]
@[simp] theorem kept_tellPair (a : State) (s : State) : kept (tellPair a s) = kept s := by simp [tellPair]
@[simp] theorem kept_tellFaults (a : State) (s : State) : kept (tellFaults a s) = kept s := by simp [tellFaults]
@[simp] theorem kept_tellStatus (a : State) (s : State) : kept (tellStatus a s) = kept s := by simp [tellStatus]
@[simp] theorem kept_weirTrim (s : State) : kept (weirTrim s) = kept s := by simp [weirTrim]
@[simp] theorem kept_sendDue (s : State) : kept (sendDue s) = kept s := by simp [sendDue]
@[simp] theorem kept_trim (s : State) : kept (trim s) = kept s := by simp [trim]
@[simp] theorem kept_drawCounters (s : State) : kept (drawCounters s) = kept s := by
  unfold drawCounters
  split
  · rfl
  · refine (kept_forEach _ _ _ fun s x => ?_).trans rfl
    dsimp only; (repeat' split) <;> rfl
@[simp] theorem kept_countCycles (s : State) : kept (countCycles s) = kept s := by
  unfold countCycles; dsimp only; split
  · rfl
  · simp
@[simp] theorem kept_tally (s : State) : kept (tally s) = kept s := by simp [tally]
@[simp] theorem kept_tell  (a : State) (s : State) : kept (tell a s) = kept s := by simp [tell]
@[simp] theorem kept_forgetEvents  (s : State) : kept (forgetEvents s) = kept s := by simp [forgetEvents]
@[simp] theorem kept_settled  (a : State) (s : State) : kept (settled a s) = kept s := by simp [settled]
end Sys2Proof.Machine
end

