-- ==== Sys2Proof/Laws/Lms.lean ====
section
/-! SUPPORT. A signature that LMS makes verifies (R308, R379), for every seed, leaf, randomiser and message. -/

namespace Sys2Proof.Machine

theorem length_le (n v : Nat) : (le n v).length = n := by
  induction n generalizing v with
  | zero => rfl
  | succ n ih => simp [le, ih]

theorem leNat_le (n v : Nat) : leNat (le n v) = v % 256 ^ n := by
  induction n generalizing v with
  | zero => simp [le, leNat, Nat.mod_one]
  | succ n ih =>
    have e : (BitVec.ofNat 8 v).toNat = v % 256 := by simp
    rw [le, leNat, ih, e, pow_succ, Nat.mul_comm, Nat.mul_comm (256 ^ n), Nat.mod_mul, Nat.mul_comm (v / 256 % _)]

@[simp] theorem length_be (n v : Nat) : (be n v).length = n := by simp [be, length_le]

theorem sub_skip {a p : List Byte} {off n k : Nat} (h : off = a.length + k) : sub (a ++ p) off n = sub p k n := by
  subst h; rw [sub, List.drop_append, List.drop_of_length_le (by omega)]; simp [sub]

theorem sub_head {p b : List Byte} {n : Nat} (h : p.length = n) : sub (p ++ b) 0 n = p := by simp [sub, ← h]

theorem sub_all {p : List Byte} {n : Nat} (h : p.length = n) : sub p 0 n = p := by simp [sub, ← h]

theorem sub_be {n v : Nat} (h : v < 256 ^ n) : leNat (be n v).reverse = v := by simp [be, leNat_le, Nat.mod_eq_of_lt h]

/-! ### SHA-256 -/

theorem length_shaRound {v : List (BitVec 32)} (h : v.length = 8) (k : BitVec 32 × BitVec 32) : (shaRound v k).length = 8 := by
  unfold shaRound; split <;> simp_all

theorem length_shaRounds {v : List (BitVec 32)} (h : v.length = 8) (l : List (BitVec 32 × BitVec 32)) :
    (l.foldl shaRound v).length = 8 := by
  induction l generalizing v with
  | nil => exact h
  | cons x t ih => exact ih (length_shaRound h x)

theorem length_shaBlock {h : List (BitVec 32)} (e : h.length = 8) (p : List Byte) : (shaBlock h p).length = 8 := by
  simp only [shaBlock, List.length_zipWith, length_shaRounds e, e, Nat.min_self]

theorem length_shaBlocks (l : List Nat) {h : List (BitVec 32)} (e : h.length = 8) (f : Nat → List Byte) :
    (l.foldl (fun h i => shaBlock h (f i)) h).length = 8 := by
  induction l generalizing h with
  | nil => exact e
  | cons x t ih => exact ih (length_shaBlock e _)

/-- A digest has 32 bytes. -/
@[simp] theorem length_sha256 (p : List Byte) : (sha256 p).length = 32 := by
  have h := length_shaBlocks (List.range ((shaPad p).length / 64)) (h := shaInit) rfl fun i => sub (shaPad p) (64 * i) 64
  simp only [sha256, List.length_flatMap, List.length_reverse, length_le]
  simp [h]

/-! ### LM-OTS -/

theorem length_otsChain (id : List Byte) (leaf i n j : Nat) {y : List Byte} (h : y.length = 32) : (otsChain id leaf i n j y).length = 32 := by
  induction n generalizing j y with
  | zero => exact h
  | succ n ih => exact ih _ (length_sha256 _)

/-- A chain is walked in two parts. -/
theorem otsChain_add (id : List Byte) (leaf i n k j : Nat) (y : List Byte) :
    otsChain id leaf i k (j + n) (otsChain id leaf i n j y) = otsChain id leaf i (n + k) j y := by
  induction n generalizing j y with
  | zero => simp [otsChain]
  | succ n ih => rw [Nat.succ_add, otsChain, otsChain, ← ih, Nat.add_assoc, Nat.add_comm 1 n]

theorem nibbles_lt (p : List Byte) : ∀ x ∈ p.flatMap (fun b : Byte => [b.toNat / 16, b.toNat % 16]), x < 16 := by
  intro x hx
  obtain ⟨b, -, hb⟩ := List.mem_flatMap.mp hx
  have := b.isLt
  simp at hb
  omega

/-- A digit is at most 15. -/
theorem digit_le (q : List Byte) (i : Nat) : nth 0 (otsDigits q) i ≤ 15 := by
  have h : ∀ x ∈ otsDigits q, x < 16 := by
    intro x hx
    rcases List.mem_append.mp hx with hx | hx
    · exact nibbles_lt _ x hx
    · exact nibbles_lt _ x (List.mem_of_mem_take hx)
  unfold nth
  rw [List.getD_eq_getElem?_getD]
  cases e : (otsDigits q)[i]? with
  | none => simp
  | some x => have := h x (List.mem_of_getElem? e); simp; omega

/-! ### LMS -/

/-- Element `i` of equal parts. -/
theorem sub_parts (f : Nat → List Byte) (n i : Nat) (rest : List Byte) (h : ∀ k, (f k).length = 32) (hi : i < n) :
    sub ((List.range n).flatMap f ++ rest) (32 * i) 32 = f i := by
  obtain ⟨m, rfl⟩ : ∃ m, n = i + (1 + m) := ⟨n - i - 1, by omega⟩
  have l : ((List.range i).flatMap f).length = 32 * i := by simp [List.length_flatMap, h, Nat.mul_comm]
  rw [List.range_add, List.flatMap_append, List.append_assoc, sub_skip (k := 0) (by omega), List.range_add]
  simp [sub, h]

theorem length_parts (f : Nat → List Byte) (n : Nat) (h : ∀ k, (f k).length = 32) : ((List.range n).flatMap f).length = 32 * n := by
  simp [List.length_flatMap, h, Nat.mul_comm]

theorem length_treeNode (id seed : List Byte) (h k r : Nat) : (treeNode id seed h k r).length = 32 := by
  cases k <;> simp [treeNode, leafNode, innerNode]

/-- A node's parent is formed from it and its sibling. -/
theorem treeNode_parent (id seed : List Byte) (h k r : Nat) :
    (if r % 2 = 1 then innerNode id (r / 2) (treeNode id seed h k (r ^^^ 1)) (treeNode id seed h k r)
     else innerNode id (r / 2) (treeNode id seed h k r) (treeNode id seed h k (r ^^^ 1))) = treeNode id seed h (k + 1) (r / 2) := by
  have e : r ^^^ 1 = if r % 2 = 1 then r - 1 else r + 1 := by
    obtain ⟨q, hq⟩ := Nat.even_or_odd' r
    rcases hq with rfl | rfl
    · rw [if_neg (by omega)]; exact Nat.xor_one_of_even (by simp)
    · rw [if_pos (by omega)]; exact Nat.xor_one_of_odd (by simp)
  rw [e, treeNode]
  split
  · rw [show 2 * (r / 2) = r - 1 by omega, show r - 1 + 1 = r by omega]
  · rw [show 2 * (r / 2) = r by omega]

/-- The path of siblings leads from a node to the one `n` levels above it. -/
theorem climb_siblings (id seed : List Byte) (h r n k : Nat) :
    climb id (r / 2 ^ k) (treeNode id seed h k (r / 2 ^ k)) ((List.range' k n).map fun k => treeNode id seed h k (r / 2 ^ k ^^^ 1)) =
      treeNode id seed h (k + n) (r / 2 ^ (k + n)) := by
  induction n generalizing k with
  | zero => simp [climb]
  | succ n ih =>
    rw [List.range'_succ, List.map_cons, climb, treeNode_parent, Nat.div_div_eq_div_mul, ← pow_succ, ih (k + 1)]
    rw [Nat.add_right_comm, ← Nat.add_assoc]

theorem length_lmsPublic {id : List Byte} (seed : List Byte) (h : Nat) (hi : id.length = 16) : (lmsPublic id seed h).length = 56 := by
  simp [lmsPublic, hi, length_treeNode]

theorem length_lmsSign (id seed : List Byte) (h leaf : Nat) {c : List Byte} (msg : List Byte) (hc : c.length = 32) :
    (lmsSign id seed h leaf c msg).length = lmsLen h := by
  have l1 := length_parts (fun i => otsChain id leaf i (nth 0 (otsDigits (otsHash id leaf c msg)) i) 0 (otsSecret id seed leaf i)) 67
    (fun k => length_otsChain _ _ _ _ _ (length_sha256 _))
  have l2 := length_parts (fun k => treeNode id seed h k ((2 ^ h + leaf) / 2 ^ k ^^^ 1)) h (fun k => length_treeNode _ _ _ _ _)
  simp only [lmsSign, List.length_append, length_be, hc, l1, l2, lmsLen]

/-- What LMS signs verifies. -/
theorem lmsVerify_lmsSign (id seed : List Byte) (h leaf : Nat) (c msg : List Byte) (hi : id.length = 16) (hc : c.length = 32)
    (hh : h ≤ 32) (hl : leaf < 2 ^ h) : lmsVerify h (lmsPublic id seed h) (lmsSign id seed h leaf c msg) msg = true := by
  have hp : 2 ^ h ≤ 2 ^ 32 := Nat.pow_le_pow_right (by omega) hh
  have ht : lmsType h < 256 ^ 4 := by unfold lmsType; omega
  have s0 : ∀ k, (otsChain id leaf k (nth 0 (otsDigits (otsHash id leaf c msg)) k) 0 (otsSecret id seed leaf k)).length = 32 :=
    fun k => length_otsChain _ _ _ _ _ (length_sha256 _)
  have s1 : beFld (lmsSign id seed h leaf c msg) 0 4 = leaf := by
    simp only [lmsSign, beFld, List.append_assoc]; rw [sub_head (length_be _ _), sub_be (by omega)]
  have s2 : beFld (lmsSign id seed h leaf c msg) 4 4 = 3 := by
    simp only [lmsSign, beFld, List.append_assoc]
    rw [sub_skip (k := 0) (by simp), sub_head (length_be _ _), sub_be (by omega)]
  have s3 : sub (lmsSign id seed h leaf c msg) 8 32 = c := by
    simp only [lmsSign, List.append_assoc]
    rw [sub_skip (k := 4) (by simp), sub_skip (k := 0) (by simp), sub_head hc]
  have s4 : ∀ i, i < 67 → sub (lmsSign id seed h leaf c msg) (40 + 32 * i) 32 =
      otsChain id leaf i (nth 0 (otsDigits (otsHash id leaf c msg)) i) 0 (otsSecret id seed leaf i) := by
    intro i hi
    simp only [lmsSign, List.append_assoc]
    rw [sub_skip (k := 36 + 32 * i) (by simp; omega), sub_skip (k := 32 + 32 * i) (by simp; omega), sub_skip (k := 32 * i) (by omega),
      sub_parts _ _ _ _ s0 hi]
  have s5 : beFld (lmsSign id seed h leaf c msg) 2184 4 = lmsType h := by
    simp only [lmsSign, beFld, List.append_assoc]
    rw [sub_skip (k := 2180) (by simp), sub_skip (k := 2176) (by simp), sub_skip (k := 2144) (by omega),
      sub_skip (k := 0) (by rw [length_parts _ _ s0]), sub_head (length_be _ _), sub_be ht]
  have s6 : ∀ i, i < h → sub (lmsSign id seed h leaf c msg) (2188 + 32 * i) 32 = treeNode id seed h i ((2 ^ h + leaf) / 2 ^ i ^^^ 1) := by
    intro i hi
    simp only [lmsSign, List.append_assoc]
    rw [sub_skip (k := 2184 + 32 * i) (by simp; omega), sub_skip (k := 2180 + 32 * i) (by simp; omega), sub_skip (k := 2148 + 32 * i) (by omega),
      sub_skip (k := 4 + 32 * i) (by rw [length_parts _ _ s0]; omega), sub_skip (k := 32 * i) (by simp)]
    have := sub_parts (fun k => treeNode id seed h k ((2 ^ h + leaf) / 2 ^ k ^^^ 1)) h i [] (fun k => length_treeNode _ _ _ _ _) hi
    simpa using this
  have p1 : sub (lmsPublic id seed h) 8 16 = id := by
    simp only [lmsPublic, List.append_assoc]
    rw [sub_skip (k := 4) (by simp), sub_skip (k := 0) (by simp), sub_head hi]
  have p2 : sub (lmsPublic id seed h) 24 32 = treeNode id seed h h 1 := by
    simp only [lmsPublic, List.append_assoc]
    rw [sub_skip (k := 20) (by simp), sub_skip (k := 16) (by simp), sub_skip (k := 0) (by omega), sub_all (length_treeNode _ _ _ _ _)]
  have p3 : beFld (lmsPublic id seed h) 0 4 = lmsType h := by
    simp only [lmsPublic, beFld, List.append_assoc]; rw [sub_head (length_be _ _), sub_be ht]
  have p4 : beFld (lmsPublic id seed h) 4 4 = 3 := by
    simp only [lmsPublic, beFld, List.append_assoc]
    rw [sub_skip (k := 0) (by simp), sub_head (length_be _ _), sub_be (by omega)]
  have ends : (List.range 67).map (fun i =>
      otsChain id leaf i (15 - nth 0 (otsDigits (otsHash id leaf c msg)) i) (nth 0 (otsDigits (otsHash id leaf c msg)) i)
        (sub (lmsSign id seed h leaf c msg) (40 + 32 * i) 32)) =
      (List.range 67).map fun i => otsChain id leaf i 15 0 (otsSecret id seed leaf i) := by
    apply List.map_congr_left
    intro i hi
    have e := otsChain_add id leaf i (nth 0 (otsDigits (otsHash id leaf c msg)) i) (15 - nth 0 (otsDigits (otsHash id leaf c msg)) i) 0
      (otsSecret id seed leaf i)
    rw [Nat.zero_add, Nat.add_sub_cancel' (digit_le _ i)] at e
    rw [s4 i (List.mem_range.mp hi), e]
  have path : (List.range h).map (fun i => sub (lmsSign id seed h leaf c msg) (2188 + 32 * i) 32) =
      (List.range' 0 h).map fun k => treeNode id seed h k ((2 ^ h + leaf) / 2 ^ k ^^^ 1) := by
    rw [← List.range_eq_range']
    exact List.map_congr_left fun i hi => s6 i (List.mem_range.mp hi)
  have up := climb_siblings id seed h (2 ^ h + leaf) h 0
  have one : (2 ^ h + leaf) / 2 ^ h = 1 := by
    rw [Nat.add_div_left _ (Nat.two_pow_pos h), Nat.div_eq_of_lt hl]
  simp only [pow_zero, Nat.div_one, Nat.zero_add, one] at up
  unfold lmsVerify
  simp only [p1, s1, s3, ends, path, p2, length_lmsPublic seed h hi, length_lmsSign id seed h leaf msg hc, p3, p4, s2, s5, hl]
  have leaf0 : treeNode id seed h 0 (2 ^ h + leaf) = leafNode id (2 ^ h + leaf) (otsKey id leaf
      ((List.range 67).map fun i => otsChain id leaf i 15 0 (otsSecret id seed leaf i))) := by
    simp [treeNode, leafKey]
  rw [← leaf0, up]
  simp

end Sys2Proof.Machine
end

