-- ==== Sys2Proof/Laws/Maps.lean ====
section
/-! SUPPORT. Reading after writing for sparse arrays, byte memories and bit maps, and the canonical form that every one of their
operations keeps. -/

namespace Sys2Proof.Machine

variable {α : Type}

/-! ### Reading -/

@[simp] theorem sget_nil (d : α) (i : Nat) : sget d [] i = d := rfl

theorem sget_sput (d : α) (a : Sparse α) (i : Nat) (v : α) (h : ∀ e ∈ a, e.1 ≠ i) (j : Nat) :
    sget d (sput i v a) j = if j = i then v else sget d a j := by
  induction a with
  | nil => simp [sput, sget]
  | cons e t ih =>
    obtain ⟨k, w⟩ := e
    have hk : k ≠ i := h (k, w) (by simp)
    simp only [sput]
    split
    · simp [sget]
    · simp only [sget, ih (fun e he => h e (by simp [he]))]
      by_cases hj : j = k <;> simp_all

theorem sget_filter (d : α) (a : Sparse α) (f : Nat → Bool) (j : Nat) :
    sget d (a.filter fun e => f e.1) j = if f j then sget d a j else d := by
  induction a with
  | nil => simp
  | cons e t ih =>
    obtain ⟨k, w⟩ := e
    simp only [List.filter_cons]
    by_cases hk : f k
    · simp only [hk, if_true, sget, ih]
      by_cases hj : j = k <;> simp_all
    · simp only [hk, Bool.false_eq_true, if_false, ih, sget]
      by_cases hj : j = k <;> simp_all

/-- Place `i` set: it reads as set, and every other place as before. -/
theorem sget_sset [DecidableEq α] (d : α) (a : Sparse α) (i j : Nat) (v : α) :
    sget d (sset d a i v) j = if j = i then v else sget d a j := by
  have hf : ∀ e ∈ a.filter (fun e => !decide (e.1 = i)), e.1 ≠ i := by simp
  have hg : sget d (a.filter fun e => !decide (e.1 = i)) j = if j = i then d else sget d a j := by
    have := sget_filter d a (fun k => !decide (k = i)) j
    by_cases hj : j = i <;> simp_all
  simp only [sset]
  split
  · rw [hg]; by_cases hj : j = i <;> simp_all
  · rw [sget_sput d _ i v hf, hg]; by_cases hj : j = i <;> simp_all

theorem sget_sset_same [DecidableEq α] (d : α) (a : Sparse α) (i : Nat) (v : α) : sget d (sset d a i v) i = v := by
  simp [sget_sset]

theorem sget_sset_ne [DecidableEq α] (d : α) (a : Sparse α) {i j : Nat} (v : α) (h : j ≠ i) : sget d (sset d a i v) j = sget d a j := by
  simp [sget_sset, h]

/-- Place `i` changed by a function. -/
theorem sget_smod [DecidableEq α] (d : α) (a : Sparse α) (i j : Nat) (f : α → α) :
    sget d (smod d a i f) j = if j = i then f (sget d a i) else sget d a j := by
  simp [smod, sget_sset]

/-- A place of a list that names it nowhere reads as absent. -/
theorem sget_absent (d : α) (a : Sparse α) (i : Nat) (h : ∀ e ∈ a, e.1 ≠ i) : sget d a i = d := by
  induction a with
  | nil => rfl
  | cons e t ih =>
    obtain ⟨k, w⟩ := e
    have hk : ¬ i = k := fun hh => h (k, w) (by simp) hh.symm
    rw [sget, if_neg hk]
    exact ih fun e he => h e (by simp [he])

/-! ### Canonical form -/

theorem swfFrom_le [DecidableEq α] (d : α) {a : Sparse α} {lo hi : Nat} (h : swfFrom d hi a = true) (hl : lo ≤ hi) :
    swfFrom d lo a = true := by
  cases a with
  | nil => rfl
  | cons e t => obtain ⟨k, w⟩ := e; simp [swfFrom] at h ⊢; exact ⟨⟨by omega, h.1.2⟩, h.2⟩

theorem swfFrom_filter [DecidableEq α] (d : α) (f : Nat × α → Bool) {a : Sparse α} {lo : Nat} (h : swfFrom d lo a = true) :
    swfFrom d lo (a.filter f) = true := by
  induction a generalizing lo with
  | nil => rfl
  | cons e t ih =>
    obtain ⟨k, w⟩ := e
    simp [swfFrom] at h
    simp only [List.filter_cons]
    split
    · simp [swfFrom, h.1, ih h.2]
    · exact swfFrom_le d (ih h.2) (by omega)

theorem swfFrom_sput [DecidableEq α] (d : α) {a : Sparse α} {lo i : Nat} {v : α} (h : swfFrom d lo a = true) (hi : lo ≤ i) (hv : v ≠ d)
    (hn : ∀ e ∈ a, e.1 ≠ i) : swfFrom d lo (sput i v a) = true := by
  induction a generalizing lo with
  | nil => simp [sput, swfFrom, hi, hv]
  | cons e t ih =>
    obtain ⟨k, w⟩ := e
    simp [swfFrom] at h
    have hk : k ≠ i := hn (k, w) (by simp)
    simp only [sput]
    split
    · simp [swfFrom, hi, hv, h.1.2, h.2]; omega
    · simp [swfFrom, h.1, ih h.2 (by omega) (fun e he => hn e (by simp [he]))]

/-- Setting a place keeps the canonical form. -/
theorem swf_sset [DecidableEq α] (d : α) {a : Sparse α} (i : Nat) (v : α) (h : swf d a = true) : swf d (sset d a i v) = true := by
  simp only [sset]
  split
  · exact swfFrom_filter d _ h
  · exact swfFrom_sput d (swfFrom_filter d _ h) (Nat.zero_le _) ‹_› (by simp)

/-- Changing a place keeps the canonical form. -/
theorem swf_smod [DecidableEq α] (d : α) {a : Sparse α} (i : Nat) (f : α → α) (h : swf d a = true) : swf d (smod d a i f) = true :=
  swf_sset d i _ h

/-- Storing bytes keeps the canonical form. -/
theorem swf_mwrite {m : Mem} (a : Nat) (l : List Byte) (h : swf 0 m = true) : swf 0 (mwrite m a l) = true := by
  induction l generalizing m a with
  | nil => exact h
  | cons b t ih => exact ih (a + 1) (swf_sset 0 a b h)

/-! ### Byte memory -/

/-- A byte after a store: one of the bytes stored, or what stood there. -/
theorem sget_mwrite (m : Mem) (a : Nat) (l : List Byte) (x : Nat) :
    sget 0 (mwrite m a l) x = if a ≤ x ∧ x < a + l.length then (l[x - a]?).getD 0 else sget 0 m x := by
  induction l generalizing m a with
  | nil =>
    rw [if_neg (by simp)]
    rfl
  | cons b t ih =>
    rw [mwrite, ih, sget_sset]
    by_cases h1 : x = a
    · subst h1
      simp
    · by_cases h2 : a + 1 ≤ x ∧ x < a + 1 + t.length
      · have h3 : a ≤ x ∧ x < a + (b :: t).length := by simp; omega
        have h4 : x - a = x - (a + 1) + 1 := by omega
        rw [if_pos h2, if_pos h3, h4]
        simp
      · have h3 : ¬ (a ≤ x ∧ x < a + (b :: t).length) := by simp; omega
        rw [if_neg h2, if_neg h3, if_neg h1]

/-- What was stored reads back. -/
theorem mread_mwrite (m : Mem) (a : Nat) (l : List Byte) : mread (mwrite m a l) a l.length = l := by
  apply List.ext_getElem
  · simp [mread]
  · intro i h1 h2
    simp only [mread, List.getElem_map, List.getElem_range]
    rw [sget_mwrite, if_pos (by omega)]
    simp [h2]

/-! ### Bit maps -/

theorem getLsbD_bitAt (w i k : Nat) (h : i < w) : (bitAt w i).getLsbD k = decide (k = i) := by
  simp only [BitVec.getLsbD_ofNat]
  by_cases hk : k = i
  · simp [hk, h]
  · have : (2 ^ i).testBit k = false := Nat.testBit_two_pow_of_ne (Ne.symm hk)
    simp [hk, this]

/-- A bit of a map that one bit was given. -/
theorem getLsbD_setBit {w : Nat} (v : BitVec w) (i : Nat) (b : Bool) (k : Nat) (h : i < w) :
    (setBit v i b).getLsbD k = if k = i then b else v.getLsbD k := by
  cases b
  · simp only [setBit, Bool.false_eq_true, if_false, BitVec.getLsbD_and, BitVec.getLsbD_not, getLsbD_bitAt w i k h]
    by_cases hk : k = i
    · simp [hk]
    · by_cases hw : k < w
      · simp [hk, hw]
      · simp [hk, hw, BitVec.getLsbD_of_ge v k (by omega)]
  · simp only [setBit, if_true, BitVec.getLsbD_or, getLsbD_bitAt w i k h]
    by_cases hk : k = i <;> simp [hk]

theorem mem_ones {w : Nat} (n : Nat) (v : BitVec w) (i : Nat) : i ∈ ones n v ↔ i < n ∧ v.getLsbD i = true := by
  simp [ones]

end Sys2Proof.Machine
end

