-- ==== Sys2Proof/Laws/Outputs.lean ====
section
/-! SUPPORT. What a level written to a flip driver can do: one lemma per operation. -/

namespace Sys2Proof.Machine

/-- The signs of a level change touch nothing but the cell's loop. -/
theorem signFlip_spec (c : Nat) (b : Bool) (s : State) : let t := signFlip c b s
    t.dac = s.dac ∧ t.out = s.out ∧ t.wear = s.wear ∧ t.fab = s.fab ∧ ∀ k, k ≠ c → loopOf t k = loopOf s k := by
  simp only [signFlip]
  split
  · exact ⟨rfl, rfl, rfl, rfl, fun _ _ => rfl⟩
  · refine ⟨rfl, rfl, rfl, rfl, fun k hk => ?_⟩
    simp only [loopOf, modLoop, sget_smod, hk, if_false]

/-- A level written outside a sequence to a cell that is not frozen: the level, the flip that it counts, and the state of a cell that is not
stuck. -/
theorem levelState_spec (c : Nat) (b : Bool) (s : State) (hf : frozenCell s c = false) : let t := levelState c b s
    (∀ k, flipOf t k = if k = c then { flipOf s k with level := b } else flipOf s k) ∧ t.out = s.out ∧ t.jets = s.jets ∧
    t.dac.htr = s.dac.htr ∧ t.dac.port = s.dac.port ∧
    (sget {} t.wear c : Wear).addFlips =
      (sget {} s.wear c : Wear).addFlips + (if b = true ∧ (flipOf s c).level = false then 1 else 0) ∧
    t.fab = (if condAt s.fab c = .stuckBar ∨ condAt s.fab c = .stuckCross then s.fab
      else { s.fab with cells := setBit s.fab.cells c b }) := by
  have hw := sget_smod ({} : Wear) s.wear c c (fun w => { w with addFlips := w.addFlips + 1 })
  simp only [levelState, hf, Bool.false_eq_true, if_false]
  refine ⟨fun k => ?_, trivial, trivial, trivial, trivial, ?_, ?_⟩
  · simp only [flipOf, sget_smod]
    split
    · rename_i h
      rw [h]
    · rfl
  · by_cases h : b = true ∧ (flipOf s c).level = false
    · rw [if_pos h, if_pos (by simp [h]), hw]
      simp
    · rw [if_neg h, if_neg (by simpa using h)]
      simp
  · simp only [decide_eq_true_eq]

end Sys2Proof.Machine
end

