-- ==== Sys2Proof/Laws/Ruled.lean ====
section
/-! SUPPORT. What follows the rules on Degraded, on closed valves and on Solo leaves what these rules read alone: one lemma per
operation. -/

namespace Sys2Proof.Machine

/-- What the rules on Degraded, on closed valves and on Solo read. -/
def ruled (s : State) : Part × Sys × Sparse Src × Sparse Wear × PortMap × Bool × Bool × Option Promo × Bool :=
  (s.part, s.sys, s.dike.src, s.wear, s.fab.openPorts, s.cld.present, s.cld.asserted, s.pair.promo, modeOrdered s)
@[simp] theorem ruled_forEach {α : Type} (l : List α) (s : State) (f : State → α → State) (h : ∀ s x, ruled (f s x) = ruled s) :
    ruled (forEach l s f) = ruled s := by
  unfold forEach
  induction l generalizing s with
  | nil => rfl
  | cons x t ih => simp only [List.foldl_cons]; rw [ih, h]
@[simp] theorem ruled_withMbx (f : Mbx → Mbx) (s : State) : ruled (withMbx f s) = ruled s := by rfl
@[simp] theorem ruled_emit (o : Out) (s : State) : ruled (emit o s) = ruled s := by rfl
@[simp] theorem ruled_signal (v : Nat) (s : State) : ruled (signal v s) = ruled s := by
  unfold signal; (repeat' split) <;> rfl
@[simp] theorem ruled_ringPost (typ : Nat) (t : Time) (a : About) (body : List Byte) (s : State) :
    ruled (ringPost typ t a body s) = ruled s := by
  unfold ringPost; simp; (repeat' split) <;> first | rfl | simp
@[simp] theorem ruled_flushLost (s : State) : ruled (flushLost s) = ruled s := by
  unfold flushLost; (repeat' split) <;> simp
@[simp] theorem ruled_notifyAt (t : Time) (typ : Nat) (a : About) (deferred : Bool) (body : List Byte) (s : State) :
    ruled (notifyAt t typ a deferred body s) = ruled s := by
  unfold notifyAt; simp; (repeat' split) <;> first | rfl | simp
@[simp] theorem ruled_stopInjections (s : State) : ruled (stopInjections s) = ruled s := by rfl
@[simp] theorem ruled_ev (n : Nat) (s : State) : ruled (ev n s) = ruled s := by rfl
@[simp] theorem ruled_stopCapture (s : State) : ruled (stopCapture s) = ruled s := by
  unfold stopCapture; (repeat' split) <;> rfl
@[simp] theorem ruled_dropCmd (c : SlotCmd) (s : State) : ruled (dropCmd c s) = ruled s := by rfl
@[simp] theorem ruled_respond (n op q st : Nat) (p : List Byte) (s : State) : ruled (respond n op q st p s) = ruled s := by
  unfold respond; dsimp only; split <;> simp
@[simp] theorem ruled_finish (c : SlotCmd) (st : Nat) (p : List Byte) (s : State) : ruled (finish c st p s) = ruled s := by
  unfold finish; dsimp only; (repeat' split) <;> simp
@[simp] theorem ruled_failCmd (c : SlotCmd) (code : Nat) (s : State) : ruled (failCmd c code s) = ruled s := by simp [failCmd]
@[simp] theorem ruled_finishSlot (k st : Nat) (p : List Byte) (s : State) : ruled (finishSlot k st p s) = ruled s := by
  unfold finishSlot; split <;> simp
@[simp] theorem ruled_failSlot (k code : Nat) (s : State) : ruled (failSlot k code s) = ruled s := by
  unfold failSlot; split <;> simp
@[simp] theorem ruled_endInjection (st : Nat) (s : State) : ruled (endInjection st s) = ruled s := by
  unfold endInjection; dsimp only; (repeat' split) <;> (try simp) <;> rfl
@[simp] theorem ruled_leaveMaintenance (s : State) : ruled (leaveMaintenance s) = ruled s := by
  exact (ruled_endInjection 0 _).trans ((ruled_stopInjections _).trans (ruled_stopCapture s))
@[simp] theorem ruled_withWeir (f : Weir → Weir) (s : State) : ruled (withWeir f s) = ruled s := by rfl
@[simp] theorem ruled_weirClear (s : State) : ruled (weirClear s) = ruled s := by simp [weirClear]
@[simp] theorem ruled_modDom (d : Nat) (f : SlcDom → SlcDom) (s : State) : ruled (modDom d f s) = ruled s := by rfl
@[simp] theorem ruled_ownPositions (s : State) : ruled (ownPositions s) = ruled s := by
  exact ruled_forEach _ _ _ fun s d => by dsimp only; (repeat' split) <;> simp
@[simp] theorem ruled_modWPort (n : Nat) (f : WPort → WPort) (s : State) : ruled (modWPort n f s) = ruled s := by simp [modWPort]
@[simp] theorem ruled_modWQueue (k : Nat) (f : WQueue → WQueue) (s : State) : ruled (modWQueue k f s) = ruled s := by
  simp [modWQueue]
@[simp] theorem ruled_weirSend (l : Nat) (m : List Byte) (s : State) : ruled (weirSend l m s) = ruled s := by
  unfold weirSend; split <;> rfl
theorem ruled_foldr {α : Type} (l : List α) (s : State) (f : α → State → State) (h : ∀ x s, ruled (f x s) = ruled s) :
    ruled (l.foldr f s) = ruled s := by
  induction l with
  | nil => rfl
  | cons x t ih => rw [List.foldr_cons, h, ih]
@[simp] theorem ruled_weirSilence (s : State) : ruled (weirSilence s) = ruled s := by
  unfold weirSilence; dsimp only; split
  · rfl
  · exact (ruled_foldr _ _ _ fun _ _ => ruled_modWQueue _ _ _).trans (ruled_withWeir _ _)
@[simp] theorem ruled_tagDrop (f : TagSt → Bool) (s : State) : ruled (tagDrop f s) = ruled s := by
  unfold tagDrop; (repeat' split) <;> rfl
@[simp] theorem ruled_discard (n : Nat) (q : Nat) (colour : Nat) (reason : Nat) (tag : BitVec 16) (s : State) :
    ruled (discard n q colour reason tag s) = ruled s := by
  simp [discard]
@[simp] theorem ruled_refit (d : Nat) (c : Cal) (conns : ConnMap) (s : State) : ruled (refit d c conns s) = ruled s := by
  exact ruled_forEach _ _ _ fun s n => (ruled_forEach _ _ _ fun s k => by (try dsimp only); split <;> simp).trans (by simp)
@[simp] theorem ruled_weirFresh (s : State) : ruled (weirFresh s) = ruled s := by
  unfold weirFresh; (try dsimp only); rw [ruled_forEach]
  · simp
  · intro s d; (repeat' split) <;> simp
@[simp] theorem ruled_withSlc (f : Slc → Slc) (s : State) : ruled (withSlc f s) = ruled s := by rfl
@[simp] theorem ruled_resumeFrom (t : Time) (d : Nat) (s : State) : ruled (resumeFrom t d s) = ruled s := by
  unfold resumeFrom; (repeat' split) <;> rfl
@[simp] theorem ruled_sluiceStarts (s : State) : ruled (sluiceStarts s) = ruled s := by
  unfold sluiceStarts
  exact (ruled_forEach (List.range 16) _ _ fun s d => ruled_resumeFrom _ d s).trans (by simp)
@[simp] theorem ruled_notify (typ : Nat) (body : List Byte) (s : State) : ruled (notify typ body s) = ruled s := by simp [notify]
@[simp] theorem ruled_notifyCal (about : About) (d : Nat) (event : Nat) (t : Time) (s : State) :
    ruled (notifyCal about d event t s) = ruled s := by simp [notifyCal]
@[simp] theorem ruled_sluiceStops (s : State) : ruled (sluiceStops s) = ruled s := by
  unfold sluiceStops; refine (ruled_forEach (List.range 16) _ _ fun s d => ?_).trans (by simp)
  dsimp only; (repeat' split) <;> simp
@[simp] theorem ruled_edgesOfRole (a : State) (s : State) : ruled (edgesOfRole a s) = ruled s := by
  unfold edgesOfRole
  generalize h : (if decide (a.sys.mode = .maintenance) && !decide (s.sys.mode = .maintenance) then leaveMaintenance s else s) = t
  have ht : ruled t = ruled s := by
    subst h
    split
    · exact ruled_leaveMaintenance s
    · rfl
  rw [← ht]
  dsimp only
  split
  · exact ruled_weirClear t
  · split
    · exact (ruled_ownPositions _).trans (ruled_weirFresh t)
    · rfl
@[simp] theorem ruled_edgesOfSluice (s : State) : ruled (edgesOfSluice s) = ruled s := by
  unfold edgesOfSluice; generalize sluiceRuns s = run
  refine (ruled_withSlc _ _).trans ?_
  split
  · rfl
  · split <;> simp
@[simp] theorem ruled_edgesOfPair (a : State) (s : State) : ruled (edgesOfPair a s) = ruled s := by
  unfold edgesOfPair; dsimp only; split <;> rfl
@[simp] theorem ruled_edges (a s : State) : ruled (edges a s) = ruled (rules s) := by
  simp [edges]
@[simp] theorem ruled_mirror (i : Item) (s : State) : ruled (mirror i s) = ruled s := by
  unfold mirror; (repeat' split) <;> rfl
@[simp] theorem ruled_tellPositions (a : State) (s : State) : ruled (tellPositions a s) = ruled s := by
  unfold tellPositions; (repeat' split) <;> simp
@[simp] theorem ruled_tellPair (a : State) (s : State) : ruled (tellPair a s) = ruled s := by
  unfold tellPair; (repeat' split) <;> simp
@[simp] theorem ruled_tellFaults (a : State) (s : State) : ruled (tellFaults a s) = ruled s := by
  unfold tellFaults; simp; (repeat' split) <;> first | rfl | simp
@[simp] theorem ruled_tellStatus (a : State) (s : State) : ruled (tellStatus a s) = ruled s := by
  unfold tellStatus; simp; (repeat' split) <;> first | rfl | simp
@[simp] theorem ruled_weirTrim (s : State) : ruled (weirTrim s) = ruled s := by
  unfold weirTrim; dsimp only; split <;> rfl
@[simp] theorem ruled_sendDue (s : State) : ruled (sendDue s) = ruled s :=
  by unfold sendDue; dsimp only; split
     · rfl
     · exact ruled_forEach _ _ _ fun s e => (ruled_forEach _ _ _ fun s m => ruled_weirSend _ _ s).trans (ruled_modWPort _ _ s)
@[simp] theorem ruled_trim (s : State) : ruled (trim s) = ruled s :=
  (ruled_weirTrim _).trans ((ruled_sendDue _).trans rfl)
@[simp] theorem ruled_tell (a : State) (s : State) : ruled (tell a s) = ruled s := by
  unfold tell; (repeat' split) <;> simp
@[simp] theorem ruled_forgetEvents (s : State) : ruled (forgetEvents s) = ruled s := by rfl
@[simp] theorem ruled_safeCounters (a s : State) : ruled (safeCounters a s) = ruled s := by unfold safeCounters; split <;> rfl
/-- What these rules read of the state that a command leaves outside Reset is what they left. -/
theorem ruled_after {a b : State} (h : b.sys.mode ≠ .reset) : ∃ s, ruled (after a b) = ruled (rules s) := by
  obtain ⟨x, y, z, e⟩ : ∃ x y z, settled a b = safeCounters z (edges x y) := by unfold settled settle; exact ⟨_, _, _, rfl⟩
  refine ⟨y, ?_⟩
  unfold after commit
  rw [if_neg h, e]
  have hp : ∀ u : State, ruled { u with pending := a.pending } = ruled u := fun _ => rfl
  rw [hp, ruled_trim, ruled_forgetEvents, ruled_tell, ruled_tellPositions, ruled_safeCounters, ruled_edges]

/-- The three invariants read no more than `ruled`. -/
theorem inv_ruled {s t : State} (h : ruled s = ruled t) :
    degradedInv s = degradedInv t ∧ valveInv s = valveInv t ∧ soloInv s = soloInv t := by
  simp only [ruled, Prod.mk.injEq] at h
  obtain ⟨h1, h2, h3, h4, h5, h6, h7, h8, h9⟩ := h
  refine ⟨?_, ?_, ?_⟩
  · simp [degradedInv, degradedCond, maskedSticky, h2, h3, h4, h9]
  · simp [valveInv, h1, h2, h5]
  · simp [soloInv, h2, h6, h7, h8]

end Sys2Proof.Machine
end

