-- ==== Sys2Proof/Laws/State.lean ====
section
/-! SUPPORT. What the updates of one part of the state do to each field, what reading an element gives after one of its kind was
changed, and what the operations on slots, responses and notifications may touch. -/

namespace Sys2Proof.Machine

/-! ### `withMbx` -/

@[simp] theorem withMbx_part (f : Mbx → Mbx) (s : State) : (withMbx f s).part = s.part := rfl
@[simp] theorem withMbx_pwr (f : Mbx → Mbx) (s : State) : (withMbx f s).pwr = s.pwr := rfl
@[simp] theorem withMbx_sys (f : Mbx → Mbx) (s : State) : (withMbx f s).sys = s.sys := rfl
@[simp] theorem withMbx_mbx (f : Mbx → Mbx) (s : State) : (withMbx f s).mbx = f s.mbx := rfl
@[simp] theorem withMbx_pcie (f : Mbx → Mbx) (s : State) : (withMbx f s).pcie = s.pcie := rfl
@[simp] theorem withMbx_tap (f : Mbx → Mbx) (s : State) : (withMbx f s).tap = s.tap := rfl
@[simp] theorem withMbx_dike (f : Mbx → Mbx) (s : State) : (withMbx f s).dike = s.dike := rfl
@[simp] theorem withMbx_jets (f : Mbx → Mbx) (s : State) : (withMbx f s).jets = s.jets := rfl
@[simp] theorem withMbx_wells (f : Mbx → Mbx) (s : State) : (withMbx f s).wells = s.wells := rfl
@[simp] theorem withMbx_dac (f : Mbx → Mbx) (s : State) : (withMbx f s).dac = s.dac := rfl
@[simp] theorem withMbx_cal (f : Mbx → Mbx) (s : State) : (withMbx f s).cal = s.cal := rfl
@[simp] theorem withMbx_fab (f : Mbx → Mbx) (s : State) : (withMbx f s).fab = s.fab := rfl
@[simp] theorem withMbx_tb (f : Mbx → Mbx) (s : State) : (withMbx f s).tb = s.tb := rfl
@[simp] theorem withMbx_servo (f : Mbx → Mbx) (s : State) : (withMbx f s).servo = s.servo := rfl
@[simp] theorem withMbx_trk (f : Mbx → Mbx) (s : State) : (withMbx f s).trk = s.trk := rfl
@[simp] theorem withMbx_slc (f : Mbx → Mbx) (s : State) : (withMbx f s).slc = s.slc := rfl
@[simp] theorem withMbx_weir (f : Mbx → Mbx) (s : State) : (withMbx f s).weir = s.weir := rfl
@[simp] theorem withMbx_cld (f : Mbx → Mbx) (s : State) : (withMbx f s).cld = s.cld := rfl
@[simp] theorem withMbx_pair (f : Mbx → Mbx) (s : State) : (withMbx f s).pair = s.pair := rfl
@[simp] theorem withMbx_wear (f : Mbx → Mbx) (s : State) : (withMbx f s).wear = s.wear := rfl
@[simp] theorem withMbx_temp (f : Mbx → Mbx) (s : State) : (withMbx f s).temp = s.temp := rfl
@[simp] theorem withMbx_plat (f : Mbx → Mbx) (s : State) : (withMbx f s).plat = s.plat := rfl
@[simp] theorem withMbx_pld (f : Mbx → Mbx) (s : State) : (withMbx f s).pld = s.pld := rfl
@[simp] theorem withMbx_sec (f : Mbx → Mbx) (s : State) : (withMbx f s).sec = s.sec := rfl
@[simp] theorem withMbx_out (f : Mbx → Mbx) (s : State) : (withMbx f s).out = s.out := rfl
@[simp] theorem withMbx_draws (f : Mbx → Mbx) (s : State) : (withMbx f s).draws = s.draws := rfl
@[simp] theorem withMbx_pending (f : Mbx → Mbx) (s : State) : (withMbx f s).pending = s.pending := rfl

/-! ### `withFab` -/

@[simp] theorem withFab_part (f : Fab → Fab) (s : State) : (withFab f s).part = s.part := rfl
@[simp] theorem withFab_pwr (f : Fab → Fab) (s : State) : (withFab f s).pwr = s.pwr := rfl
@[simp] theorem withFab_sys (f : Fab → Fab) (s : State) : (withFab f s).sys = s.sys := rfl
@[simp] theorem withFab_mbx (f : Fab → Fab) (s : State) : (withFab f s).mbx = s.mbx := rfl
@[simp] theorem withFab_pcie (f : Fab → Fab) (s : State) : (withFab f s).pcie = s.pcie := rfl
@[simp] theorem withFab_tap (f : Fab → Fab) (s : State) : (withFab f s).tap = s.tap := rfl
@[simp] theorem withFab_dike (f : Fab → Fab) (s : State) : (withFab f s).dike = s.dike := rfl
@[simp] theorem withFab_jets (f : Fab → Fab) (s : State) : (withFab f s).jets = s.jets := rfl
@[simp] theorem withFab_wells (f : Fab → Fab) (s : State) : (withFab f s).wells = s.wells := rfl
@[simp] theorem withFab_dac (f : Fab → Fab) (s : State) : (withFab f s).dac = s.dac := rfl
@[simp] theorem withFab_cal (f : Fab → Fab) (s : State) : (withFab f s).cal = s.cal := rfl
@[simp] theorem withFab_fab (f : Fab → Fab) (s : State) : (withFab f s).fab = f s.fab := rfl
@[simp] theorem withFab_tb (f : Fab → Fab) (s : State) : (withFab f s).tb = s.tb := rfl
@[simp] theorem withFab_servo (f : Fab → Fab) (s : State) : (withFab f s).servo = s.servo := rfl
@[simp] theorem withFab_trk (f : Fab → Fab) (s : State) : (withFab f s).trk = s.trk := rfl
@[simp] theorem withFab_slc (f : Fab → Fab) (s : State) : (withFab f s).slc = s.slc := rfl
@[simp] theorem withFab_weir (f : Fab → Fab) (s : State) : (withFab f s).weir = s.weir := rfl
@[simp] theorem withFab_cld (f : Fab → Fab) (s : State) : (withFab f s).cld = s.cld := rfl
@[simp] theorem withFab_pair (f : Fab → Fab) (s : State) : (withFab f s).pair = s.pair := rfl
@[simp] theorem withFab_wear (f : Fab → Fab) (s : State) : (withFab f s).wear = s.wear := rfl
@[simp] theorem withFab_temp (f : Fab → Fab) (s : State) : (withFab f s).temp = s.temp := rfl
@[simp] theorem withFab_plat (f : Fab → Fab) (s : State) : (withFab f s).plat = s.plat := rfl
@[simp] theorem withFab_pld (f : Fab → Fab) (s : State) : (withFab f s).pld = s.pld := rfl
@[simp] theorem withFab_sec (f : Fab → Fab) (s : State) : (withFab f s).sec = s.sec := rfl
@[simp] theorem withFab_out (f : Fab → Fab) (s : State) : (withFab f s).out = s.out := rfl
@[simp] theorem withFab_draws (f : Fab → Fab) (s : State) : (withFab f s).draws = s.draws := rfl
@[simp] theorem withFab_pending (f : Fab → Fab) (s : State) : (withFab f s).pending = s.pending := rfl

/-! ### `withSlc` -/

@[simp] theorem withSlc_part (f : Slc → Slc) (s : State) : (withSlc f s).part = s.part := rfl
@[simp] theorem withSlc_pwr (f : Slc → Slc) (s : State) : (withSlc f s).pwr = s.pwr := rfl
@[simp] theorem withSlc_sys (f : Slc → Slc) (s : State) : (withSlc f s).sys = s.sys := rfl
@[simp] theorem withSlc_mbx (f : Slc → Slc) (s : State) : (withSlc f s).mbx = s.mbx := rfl
@[simp] theorem withSlc_pcie (f : Slc → Slc) (s : State) : (withSlc f s).pcie = s.pcie := rfl
@[simp] theorem withSlc_tap (f : Slc → Slc) (s : State) : (withSlc f s).tap = s.tap := rfl
@[simp] theorem withSlc_dike (f : Slc → Slc) (s : State) : (withSlc f s).dike = s.dike := rfl
@[simp] theorem withSlc_jets (f : Slc → Slc) (s : State) : (withSlc f s).jets = s.jets := rfl
@[simp] theorem withSlc_wells (f : Slc → Slc) (s : State) : (withSlc f s).wells = s.wells := rfl
@[simp] theorem withSlc_dac (f : Slc → Slc) (s : State) : (withSlc f s).dac = s.dac := rfl
@[simp] theorem withSlc_cal (f : Slc → Slc) (s : State) : (withSlc f s).cal = s.cal := rfl
@[simp] theorem withSlc_fab (f : Slc → Slc) (s : State) : (withSlc f s).fab = s.fab := rfl
@[simp] theorem withSlc_tb (f : Slc → Slc) (s : State) : (withSlc f s).tb = s.tb := rfl
@[simp] theorem withSlc_servo (f : Slc → Slc) (s : State) : (withSlc f s).servo = s.servo := rfl
@[simp] theorem withSlc_trk (f : Slc → Slc) (s : State) : (withSlc f s).trk = s.trk := rfl
@[simp] theorem withSlc_slc (f : Slc → Slc) (s : State) : (withSlc f s).slc = f s.slc := rfl
@[simp] theorem withSlc_weir (f : Slc → Slc) (s : State) : (withSlc f s).weir = s.weir := rfl
@[simp] theorem withSlc_cld (f : Slc → Slc) (s : State) : (withSlc f s).cld = s.cld := rfl
@[simp] theorem withSlc_pair (f : Slc → Slc) (s : State) : (withSlc f s).pair = s.pair := rfl
@[simp] theorem withSlc_wear (f : Slc → Slc) (s : State) : (withSlc f s).wear = s.wear := rfl
@[simp] theorem withSlc_temp (f : Slc → Slc) (s : State) : (withSlc f s).temp = s.temp := rfl
@[simp] theorem withSlc_plat (f : Slc → Slc) (s : State) : (withSlc f s).plat = s.plat := rfl
@[simp] theorem withSlc_pld (f : Slc → Slc) (s : State) : (withSlc f s).pld = s.pld := rfl
@[simp] theorem withSlc_sec (f : Slc → Slc) (s : State) : (withSlc f s).sec = s.sec := rfl
@[simp] theorem withSlc_out (f : Slc → Slc) (s : State) : (withSlc f s).out = s.out := rfl
@[simp] theorem withSlc_draws (f : Slc → Slc) (s : State) : (withSlc f s).draws = s.draws := rfl
@[simp] theorem withSlc_pending (f : Slc → Slc) (s : State) : (withSlc f s).pending = s.pending := rfl

/-! ### `withPair` -/

@[simp] theorem withPair_part (f : PairSt → PairSt) (s : State) : (withPair f s).part = s.part := rfl
@[simp] theorem withPair_pwr (f : PairSt → PairSt) (s : State) : (withPair f s).pwr = s.pwr := rfl
@[simp] theorem withPair_sys (f : PairSt → PairSt) (s : State) : (withPair f s).sys = s.sys := rfl
@[simp] theorem withPair_mbx (f : PairSt → PairSt) (s : State) : (withPair f s).mbx = s.mbx := rfl
@[simp] theorem withPair_pcie (f : PairSt → PairSt) (s : State) : (withPair f s).pcie = s.pcie := rfl
@[simp] theorem withPair_tap (f : PairSt → PairSt) (s : State) : (withPair f s).tap = s.tap := rfl
@[simp] theorem withPair_dike (f : PairSt → PairSt) (s : State) : (withPair f s).dike = s.dike := rfl
@[simp] theorem withPair_jets (f : PairSt → PairSt) (s : State) : (withPair f s).jets = s.jets := rfl
@[simp] theorem withPair_wells (f : PairSt → PairSt) (s : State) : (withPair f s).wells = s.wells := rfl
@[simp] theorem withPair_dac (f : PairSt → PairSt) (s : State) : (withPair f s).dac = s.dac := rfl
@[simp] theorem withPair_cal (f : PairSt → PairSt) (s : State) : (withPair f s).cal = s.cal := rfl
@[simp] theorem withPair_fab (f : PairSt → PairSt) (s : State) : (withPair f s).fab = s.fab := rfl
@[simp] theorem withPair_tb (f : PairSt → PairSt) (s : State) : (withPair f s).tb = s.tb := rfl
@[simp] theorem withPair_servo (f : PairSt → PairSt) (s : State) : (withPair f s).servo = s.servo := rfl
@[simp] theorem withPair_trk (f : PairSt → PairSt) (s : State) : (withPair f s).trk = s.trk := rfl
@[simp] theorem withPair_slc (f : PairSt → PairSt) (s : State) : (withPair f s).slc = s.slc := rfl
@[simp] theorem withPair_weir (f : PairSt → PairSt) (s : State) : (withPair f s).weir = s.weir := rfl
@[simp] theorem withPair_cld (f : PairSt → PairSt) (s : State) : (withPair f s).cld = s.cld := rfl
@[simp] theorem withPair_pair (f : PairSt → PairSt) (s : State) : (withPair f s).pair = f s.pair := rfl
@[simp] theorem withPair_wear (f : PairSt → PairSt) (s : State) : (withPair f s).wear = s.wear := rfl
@[simp] theorem withPair_temp (f : PairSt → PairSt) (s : State) : (withPair f s).temp = s.temp := rfl
@[simp] theorem withPair_plat (f : PairSt → PairSt) (s : State) : (withPair f s).plat = s.plat := rfl
@[simp] theorem withPair_pld (f : PairSt → PairSt) (s : State) : (withPair f s).pld = s.pld := rfl
@[simp] theorem withPair_sec (f : PairSt → PairSt) (s : State) : (withPair f s).sec = s.sec := rfl
@[simp] theorem withPair_out (f : PairSt → PairSt) (s : State) : (withPair f s).out = s.out := rfl
@[simp] theorem withPair_draws (f : PairSt → PairSt) (s : State) : (withPair f s).draws = s.draws := rfl
@[simp] theorem withPair_pending (f : PairSt → PairSt) (s : State) : (withPair f s).pending = s.pending := rfl

/-! ### `withCld` -/

@[simp] theorem withCld_part (f : Cld → Cld) (s : State) : (withCld f s).part = s.part := rfl
@[simp] theorem withCld_pwr (f : Cld → Cld) (s : State) : (withCld f s).pwr = s.pwr := rfl
@[simp] theorem withCld_sys (f : Cld → Cld) (s : State) : (withCld f s).sys = s.sys := rfl
@[simp] theorem withCld_mbx (f : Cld → Cld) (s : State) : (withCld f s).mbx = s.mbx := rfl
@[simp] theorem withCld_pcie (f : Cld → Cld) (s : State) : (withCld f s).pcie = s.pcie := rfl
@[simp] theorem withCld_tap (f : Cld → Cld) (s : State) : (withCld f s).tap = s.tap := rfl
@[simp] theorem withCld_dike (f : Cld → Cld) (s : State) : (withCld f s).dike = s.dike := rfl
@[simp] theorem withCld_jets (f : Cld → Cld) (s : State) : (withCld f s).jets = s.jets := rfl
@[simp] theorem withCld_wells (f : Cld → Cld) (s : State) : (withCld f s).wells = s.wells := rfl
@[simp] theorem withCld_dac (f : Cld → Cld) (s : State) : (withCld f s).dac = s.dac := rfl
@[simp] theorem withCld_cal (f : Cld → Cld) (s : State) : (withCld f s).cal = s.cal := rfl
@[simp] theorem withCld_fab (f : Cld → Cld) (s : State) : (withCld f s).fab = s.fab := rfl
@[simp] theorem withCld_tb (f : Cld → Cld) (s : State) : (withCld f s).tb = s.tb := rfl
@[simp] theorem withCld_servo (f : Cld → Cld) (s : State) : (withCld f s).servo = s.servo := rfl
@[simp] theorem withCld_trk (f : Cld → Cld) (s : State) : (withCld f s).trk = s.trk := rfl
@[simp] theorem withCld_slc (f : Cld → Cld) (s : State) : (withCld f s).slc = s.slc := rfl
@[simp] theorem withCld_weir (f : Cld → Cld) (s : State) : (withCld f s).weir = s.weir := rfl
@[simp] theorem withCld_cld (f : Cld → Cld) (s : State) : (withCld f s).cld = f s.cld := rfl
@[simp] theorem withCld_pair (f : Cld → Cld) (s : State) : (withCld f s).pair = s.pair := rfl
@[simp] theorem withCld_wear (f : Cld → Cld) (s : State) : (withCld f s).wear = s.wear := rfl
@[simp] theorem withCld_temp (f : Cld → Cld) (s : State) : (withCld f s).temp = s.temp := rfl
@[simp] theorem withCld_plat (f : Cld → Cld) (s : State) : (withCld f s).plat = s.plat := rfl
@[simp] theorem withCld_pld (f : Cld → Cld) (s : State) : (withCld f s).pld = s.pld := rfl
@[simp] theorem withCld_sec (f : Cld → Cld) (s : State) : (withCld f s).sec = s.sec := rfl
@[simp] theorem withCld_out (f : Cld → Cld) (s : State) : (withCld f s).out = s.out := rfl
@[simp] theorem withCld_draws (f : Cld → Cld) (s : State) : (withCld f s).draws = s.draws := rfl
@[simp] theorem withCld_pending (f : Cld → Cld) (s : State) : (withCld f s).pending = s.pending := rfl

/-! ### `withTb` -/

@[simp] theorem withTb_part (f : Tb → Tb) (s : State) : (withTb f s).part = s.part := rfl
@[simp] theorem withTb_pwr (f : Tb → Tb) (s : State) : (withTb f s).pwr = s.pwr := rfl
@[simp] theorem withTb_sys (f : Tb → Tb) (s : State) : (withTb f s).sys = s.sys := rfl
@[simp] theorem withTb_mbx (f : Tb → Tb) (s : State) : (withTb f s).mbx = s.mbx := rfl
@[simp] theorem withTb_pcie (f : Tb → Tb) (s : State) : (withTb f s).pcie = s.pcie := rfl
@[simp] theorem withTb_tap (f : Tb → Tb) (s : State) : (withTb f s).tap = s.tap := rfl
@[simp] theorem withTb_dike (f : Tb → Tb) (s : State) : (withTb f s).dike = s.dike := rfl
@[simp] theorem withTb_jets (f : Tb → Tb) (s : State) : (withTb f s).jets = s.jets := rfl
@[simp] theorem withTb_wells (f : Tb → Tb) (s : State) : (withTb f s).wells = s.wells := rfl
@[simp] theorem withTb_dac (f : Tb → Tb) (s : State) : (withTb f s).dac = s.dac := rfl
@[simp] theorem withTb_cal (f : Tb → Tb) (s : State) : (withTb f s).cal = s.cal := rfl
@[simp] theorem withTb_fab (f : Tb → Tb) (s : State) : (withTb f s).fab = s.fab := rfl
@[simp] theorem withTb_tb (f : Tb → Tb) (s : State) : (withTb f s).tb = f s.tb := rfl
@[simp] theorem withTb_servo (f : Tb → Tb) (s : State) : (withTb f s).servo = s.servo := rfl
@[simp] theorem withTb_trk (f : Tb → Tb) (s : State) : (withTb f s).trk = s.trk := rfl
@[simp] theorem withTb_slc (f : Tb → Tb) (s : State) : (withTb f s).slc = s.slc := rfl
@[simp] theorem withTb_weir (f : Tb → Tb) (s : State) : (withTb f s).weir = s.weir := rfl
@[simp] theorem withTb_cld (f : Tb → Tb) (s : State) : (withTb f s).cld = s.cld := rfl
@[simp] theorem withTb_pair (f : Tb → Tb) (s : State) : (withTb f s).pair = s.pair := rfl
@[simp] theorem withTb_wear (f : Tb → Tb) (s : State) : (withTb f s).wear = s.wear := rfl
@[simp] theorem withTb_temp (f : Tb → Tb) (s : State) : (withTb f s).temp = s.temp := rfl
@[simp] theorem withTb_plat (f : Tb → Tb) (s : State) : (withTb f s).plat = s.plat := rfl
@[simp] theorem withTb_pld (f : Tb → Tb) (s : State) : (withTb f s).pld = s.pld := rfl
@[simp] theorem withTb_sec (f : Tb → Tb) (s : State) : (withTb f s).sec = s.sec := rfl
@[simp] theorem withTb_out (f : Tb → Tb) (s : State) : (withTb f s).out = s.out := rfl
@[simp] theorem withTb_draws (f : Tb → Tb) (s : State) : (withTb f s).draws = s.draws := rfl
@[simp] theorem withTb_pending (f : Tb → Tb) (s : State) : (withTb f s).pending = s.pending := rfl

/-! ### `withServo` -/

@[simp] theorem withServo_part (f : Servo → Servo) (s : State) : (withServo f s).part = s.part := rfl
@[simp] theorem withServo_pwr (f : Servo → Servo) (s : State) : (withServo f s).pwr = s.pwr := rfl
@[simp] theorem withServo_sys (f : Servo → Servo) (s : State) : (withServo f s).sys = s.sys := rfl
@[simp] theorem withServo_mbx (f : Servo → Servo) (s : State) : (withServo f s).mbx = s.mbx := rfl
@[simp] theorem withServo_pcie (f : Servo → Servo) (s : State) : (withServo f s).pcie = s.pcie := rfl
@[simp] theorem withServo_tap (f : Servo → Servo) (s : State) : (withServo f s).tap = s.tap := rfl
@[simp] theorem withServo_dike (f : Servo → Servo) (s : State) : (withServo f s).dike = s.dike := rfl
@[simp] theorem withServo_jets (f : Servo → Servo) (s : State) : (withServo f s).jets = s.jets := rfl
@[simp] theorem withServo_wells (f : Servo → Servo) (s : State) : (withServo f s).wells = s.wells := rfl
@[simp] theorem withServo_dac (f : Servo → Servo) (s : State) : (withServo f s).dac = s.dac := rfl
@[simp] theorem withServo_cal (f : Servo → Servo) (s : State) : (withServo f s).cal = s.cal := rfl
@[simp] theorem withServo_fab (f : Servo → Servo) (s : State) : (withServo f s).fab = s.fab := rfl
@[simp] theorem withServo_tb (f : Servo → Servo) (s : State) : (withServo f s).tb = s.tb := rfl
@[simp] theorem withServo_servo (f : Servo → Servo) (s : State) : (withServo f s).servo = f s.servo := rfl
@[simp] theorem withServo_trk (f : Servo → Servo) (s : State) : (withServo f s).trk = s.trk := rfl
@[simp] theorem withServo_slc (f : Servo → Servo) (s : State) : (withServo f s).slc = s.slc := rfl
@[simp] theorem withServo_weir (f : Servo → Servo) (s : State) : (withServo f s).weir = s.weir := rfl
@[simp] theorem withServo_cld (f : Servo → Servo) (s : State) : (withServo f s).cld = s.cld := rfl
@[simp] theorem withServo_pair (f : Servo → Servo) (s : State) : (withServo f s).pair = s.pair := rfl
@[simp] theorem withServo_wear (f : Servo → Servo) (s : State) : (withServo f s).wear = s.wear := rfl
@[simp] theorem withServo_temp (f : Servo → Servo) (s : State) : (withServo f s).temp = s.temp := rfl
@[simp] theorem withServo_plat (f : Servo → Servo) (s : State) : (withServo f s).plat = s.plat := rfl
@[simp] theorem withServo_pld (f : Servo → Servo) (s : State) : (withServo f s).pld = s.pld := rfl
@[simp] theorem withServo_sec (f : Servo → Servo) (s : State) : (withServo f s).sec = s.sec := rfl
@[simp] theorem withServo_out (f : Servo → Servo) (s : State) : (withServo f s).out = s.out := rfl
@[simp] theorem withServo_draws (f : Servo → Servo) (s : State) : (withServo f s).draws = s.draws := rfl
@[simp] theorem withServo_pending (f : Servo → Servo) (s : State) : (withServo f s).pending = s.pending := rfl

/-! ### `withDike` -/

@[simp] theorem withDike_part (f : Dike → Dike) (s : State) : (withDike f s).part = s.part := rfl
@[simp] theorem withDike_pwr (f : Dike → Dike) (s : State) : (withDike f s).pwr = s.pwr := rfl
@[simp] theorem withDike_sys (f : Dike → Dike) (s : State) : (withDike f s).sys = s.sys := rfl
@[simp] theorem withDike_mbx (f : Dike → Dike) (s : State) : (withDike f s).mbx = s.mbx := rfl
@[simp] theorem withDike_pcie (f : Dike → Dike) (s : State) : (withDike f s).pcie = s.pcie := rfl
@[simp] theorem withDike_tap (f : Dike → Dike) (s : State) : (withDike f s).tap = s.tap := rfl
@[simp] theorem withDike_dike (f : Dike → Dike) (s : State) : (withDike f s).dike = f s.dike := rfl
@[simp] theorem withDike_jets (f : Dike → Dike) (s : State) : (withDike f s).jets = s.jets := rfl
@[simp] theorem withDike_wells (f : Dike → Dike) (s : State) : (withDike f s).wells = s.wells := rfl
@[simp] theorem withDike_dac (f : Dike → Dike) (s : State) : (withDike f s).dac = s.dac := rfl
@[simp] theorem withDike_cal (f : Dike → Dike) (s : State) : (withDike f s).cal = s.cal := rfl
@[simp] theorem withDike_fab (f : Dike → Dike) (s : State) : (withDike f s).fab = s.fab := rfl
@[simp] theorem withDike_tb (f : Dike → Dike) (s : State) : (withDike f s).tb = s.tb := rfl
@[simp] theorem withDike_servo (f : Dike → Dike) (s : State) : (withDike f s).servo = s.servo := rfl
@[simp] theorem withDike_trk (f : Dike → Dike) (s : State) : (withDike f s).trk = s.trk := rfl
@[simp] theorem withDike_slc (f : Dike → Dike) (s : State) : (withDike f s).slc = s.slc := rfl
@[simp] theorem withDike_weir (f : Dike → Dike) (s : State) : (withDike f s).weir = s.weir := rfl
@[simp] theorem withDike_cld (f : Dike → Dike) (s : State) : (withDike f s).cld = s.cld := rfl
@[simp] theorem withDike_pair (f : Dike → Dike) (s : State) : (withDike f s).pair = s.pair := rfl
@[simp] theorem withDike_wear (f : Dike → Dike) (s : State) : (withDike f s).wear = s.wear := rfl
@[simp] theorem withDike_temp (f : Dike → Dike) (s : State) : (withDike f s).temp = s.temp := rfl
@[simp] theorem withDike_plat (f : Dike → Dike) (s : State) : (withDike f s).plat = s.plat := rfl
@[simp] theorem withDike_pld (f : Dike → Dike) (s : State) : (withDike f s).pld = s.pld := rfl
@[simp] theorem withDike_sec (f : Dike → Dike) (s : State) : (withDike f s).sec = s.sec := rfl
@[simp] theorem withDike_out (f : Dike → Dike) (s : State) : (withDike f s).out = s.out := rfl
@[simp] theorem withDike_draws (f : Dike → Dike) (s : State) : (withDike f s).draws = s.draws := rfl
@[simp] theorem withDike_pending (f : Dike → Dike) (s : State) : (withDike f s).pending = s.pending := rfl

/-! ### `withWeir` -/

@[simp] theorem withWeir_part (f : Weir → Weir) (s : State) : (withWeir f s).part = s.part := rfl
@[simp] theorem withWeir_pwr (f : Weir → Weir) (s : State) : (withWeir f s).pwr = s.pwr := rfl
@[simp] theorem withWeir_sys (f : Weir → Weir) (s : State) : (withWeir f s).sys = s.sys := rfl
@[simp] theorem withWeir_mbx (f : Weir → Weir) (s : State) : (withWeir f s).mbx = s.mbx := rfl
@[simp] theorem withWeir_pcie (f : Weir → Weir) (s : State) : (withWeir f s).pcie = s.pcie := rfl
@[simp] theorem withWeir_tap (f : Weir → Weir) (s : State) : (withWeir f s).tap = s.tap := rfl
@[simp] theorem withWeir_dike (f : Weir → Weir) (s : State) : (withWeir f s).dike = s.dike := rfl
@[simp] theorem withWeir_jets (f : Weir → Weir) (s : State) : (withWeir f s).jets = s.jets := rfl
@[simp] theorem withWeir_wells (f : Weir → Weir) (s : State) : (withWeir f s).wells = s.wells := rfl
@[simp] theorem withWeir_dac (f : Weir → Weir) (s : State) : (withWeir f s).dac = s.dac := rfl
@[simp] theorem withWeir_cal (f : Weir → Weir) (s : State) : (withWeir f s).cal = s.cal := rfl
@[simp] theorem withWeir_fab (f : Weir → Weir) (s : State) : (withWeir f s).fab = s.fab := rfl
@[simp] theorem withWeir_tb (f : Weir → Weir) (s : State) : (withWeir f s).tb = s.tb := rfl
@[simp] theorem withWeir_servo (f : Weir → Weir) (s : State) : (withWeir f s).servo = s.servo := rfl
@[simp] theorem withWeir_trk (f : Weir → Weir) (s : State) : (withWeir f s).trk = s.trk := rfl
@[simp] theorem withWeir_slc (f : Weir → Weir) (s : State) : (withWeir f s).slc = s.slc := rfl
@[simp] theorem withWeir_weir (f : Weir → Weir) (s : State) : (withWeir f s).weir = f s.weir := rfl
@[simp] theorem withWeir_cld (f : Weir → Weir) (s : State) : (withWeir f s).cld = s.cld := rfl
@[simp] theorem withWeir_pair (f : Weir → Weir) (s : State) : (withWeir f s).pair = s.pair := rfl
@[simp] theorem withWeir_wear (f : Weir → Weir) (s : State) : (withWeir f s).wear = s.wear := rfl
@[simp] theorem withWeir_temp (f : Weir → Weir) (s : State) : (withWeir f s).temp = s.temp := rfl
@[simp] theorem withWeir_plat (f : Weir → Weir) (s : State) : (withWeir f s).plat = s.plat := rfl
@[simp] theorem withWeir_pld (f : Weir → Weir) (s : State) : (withWeir f s).pld = s.pld := rfl
@[simp] theorem withWeir_sec (f : Weir → Weir) (s : State) : (withWeir f s).sec = s.sec := rfl
@[simp] theorem withWeir_out (f : Weir → Weir) (s : State) : (withWeir f s).out = s.out := rfl
@[simp] theorem withWeir_draws (f : Weir → Weir) (s : State) : (withWeir f s).draws = s.draws := rfl
@[simp] theorem withWeir_pending (f : Weir → Weir) (s : State) : (withWeir f s).pending = s.pending := rfl

/-! ### `withTrk` -/

@[simp] theorem withTrk_part (f : Trk → Trk) (s : State) : (withTrk f s).part = s.part := rfl
@[simp] theorem withTrk_pwr (f : Trk → Trk) (s : State) : (withTrk f s).pwr = s.pwr := rfl
@[simp] theorem withTrk_sys (f : Trk → Trk) (s : State) : (withTrk f s).sys = s.sys := rfl
@[simp] theorem withTrk_mbx (f : Trk → Trk) (s : State) : (withTrk f s).mbx = s.mbx := rfl
@[simp] theorem withTrk_pcie (f : Trk → Trk) (s : State) : (withTrk f s).pcie = s.pcie := rfl
@[simp] theorem withTrk_tap (f : Trk → Trk) (s : State) : (withTrk f s).tap = s.tap := rfl
@[simp] theorem withTrk_dike (f : Trk → Trk) (s : State) : (withTrk f s).dike = s.dike := rfl
@[simp] theorem withTrk_jets (f : Trk → Trk) (s : State) : (withTrk f s).jets = s.jets := rfl
@[simp] theorem withTrk_wells (f : Trk → Trk) (s : State) : (withTrk f s).wells = s.wells := rfl
@[simp] theorem withTrk_dac (f : Trk → Trk) (s : State) : (withTrk f s).dac = s.dac := rfl
@[simp] theorem withTrk_cal (f : Trk → Trk) (s : State) : (withTrk f s).cal = s.cal := rfl
@[simp] theorem withTrk_fab (f : Trk → Trk) (s : State) : (withTrk f s).fab = s.fab := rfl
@[simp] theorem withTrk_tb (f : Trk → Trk) (s : State) : (withTrk f s).tb = s.tb := rfl
@[simp] theorem withTrk_servo (f : Trk → Trk) (s : State) : (withTrk f s).servo = s.servo := rfl
@[simp] theorem withTrk_trk (f : Trk → Trk) (s : State) : (withTrk f s).trk = f s.trk := rfl
@[simp] theorem withTrk_slc (f : Trk → Trk) (s : State) : (withTrk f s).slc = s.slc := rfl
@[simp] theorem withTrk_weir (f : Trk → Trk) (s : State) : (withTrk f s).weir = s.weir := rfl
@[simp] theorem withTrk_cld (f : Trk → Trk) (s : State) : (withTrk f s).cld = s.cld := rfl
@[simp] theorem withTrk_pair (f : Trk → Trk) (s : State) : (withTrk f s).pair = s.pair := rfl
@[simp] theorem withTrk_wear (f : Trk → Trk) (s : State) : (withTrk f s).wear = s.wear := rfl
@[simp] theorem withTrk_temp (f : Trk → Trk) (s : State) : (withTrk f s).temp = s.temp := rfl
@[simp] theorem withTrk_plat (f : Trk → Trk) (s : State) : (withTrk f s).plat = s.plat := rfl
@[simp] theorem withTrk_pld (f : Trk → Trk) (s : State) : (withTrk f s).pld = s.pld := rfl
@[simp] theorem withTrk_sec (f : Trk → Trk) (s : State) : (withTrk f s).sec = s.sec := rfl
@[simp] theorem withTrk_out (f : Trk → Trk) (s : State) : (withTrk f s).out = s.out := rfl
@[simp] theorem withTrk_draws (f : Trk → Trk) (s : State) : (withTrk f s).draws = s.draws := rfl
@[simp] theorem withTrk_pending (f : Trk → Trk) (s : State) : (withTrk f s).pending = s.pending := rfl

/-! ### `withPwr` -/

@[simp] theorem withPwr_part (f : Pwr → Pwr) (s : State) : (withPwr f s).part = s.part := rfl
@[simp] theorem withPwr_pwr (f : Pwr → Pwr) (s : State) : (withPwr f s).pwr = f s.pwr := rfl
@[simp] theorem withPwr_sys (f : Pwr → Pwr) (s : State) : (withPwr f s).sys = s.sys := rfl
@[simp] theorem withPwr_mbx (f : Pwr → Pwr) (s : State) : (withPwr f s).mbx = s.mbx := rfl
@[simp] theorem withPwr_pcie (f : Pwr → Pwr) (s : State) : (withPwr f s).pcie = s.pcie := rfl
@[simp] theorem withPwr_tap (f : Pwr → Pwr) (s : State) : (withPwr f s).tap = s.tap := rfl
@[simp] theorem withPwr_dike (f : Pwr → Pwr) (s : State) : (withPwr f s).dike = s.dike := rfl
@[simp] theorem withPwr_jets (f : Pwr → Pwr) (s : State) : (withPwr f s).jets = s.jets := rfl
@[simp] theorem withPwr_wells (f : Pwr → Pwr) (s : State) : (withPwr f s).wells = s.wells := rfl
@[simp] theorem withPwr_dac (f : Pwr → Pwr) (s : State) : (withPwr f s).dac = s.dac := rfl
@[simp] theorem withPwr_cal (f : Pwr → Pwr) (s : State) : (withPwr f s).cal = s.cal := rfl
@[simp] theorem withPwr_fab (f : Pwr → Pwr) (s : State) : (withPwr f s).fab = s.fab := rfl
@[simp] theorem withPwr_tb (f : Pwr → Pwr) (s : State) : (withPwr f s).tb = s.tb := rfl
@[simp] theorem withPwr_servo (f : Pwr → Pwr) (s : State) : (withPwr f s).servo = s.servo := rfl
@[simp] theorem withPwr_trk (f : Pwr → Pwr) (s : State) : (withPwr f s).trk = s.trk := rfl
@[simp] theorem withPwr_slc (f : Pwr → Pwr) (s : State) : (withPwr f s).slc = s.slc := rfl
@[simp] theorem withPwr_weir (f : Pwr → Pwr) (s : State) : (withPwr f s).weir = s.weir := rfl
@[simp] theorem withPwr_cld (f : Pwr → Pwr) (s : State) : (withPwr f s).cld = s.cld := rfl
@[simp] theorem withPwr_pair (f : Pwr → Pwr) (s : State) : (withPwr f s).pair = s.pair := rfl
@[simp] theorem withPwr_wear (f : Pwr → Pwr) (s : State) : (withPwr f s).wear = s.wear := rfl
@[simp] theorem withPwr_temp (f : Pwr → Pwr) (s : State) : (withPwr f s).temp = s.temp := rfl
@[simp] theorem withPwr_plat (f : Pwr → Pwr) (s : State) : (withPwr f s).plat = s.plat := rfl
@[simp] theorem withPwr_pld (f : Pwr → Pwr) (s : State) : (withPwr f s).pld = s.pld := rfl
@[simp] theorem withPwr_sec (f : Pwr → Pwr) (s : State) : (withPwr f s).sec = s.sec := rfl
@[simp] theorem withPwr_out (f : Pwr → Pwr) (s : State) : (withPwr f s).out = s.out := rfl
@[simp] theorem withPwr_draws (f : Pwr → Pwr) (s : State) : (withPwr f s).draws = s.draws := rfl
@[simp] theorem withPwr_pending (f : Pwr → Pwr) (s : State) : (withPwr f s).pending = s.pending := rfl

/-! ### `withPld` -/

@[simp] theorem withPld_part (f : Pld → Pld) (s : State) : (withPld f s).part = s.part := rfl
@[simp] theorem withPld_pwr (f : Pld → Pld) (s : State) : (withPld f s).pwr = s.pwr := rfl
@[simp] theorem withPld_sys (f : Pld → Pld) (s : State) : (withPld f s).sys = s.sys := rfl
@[simp] theorem withPld_mbx (f : Pld → Pld) (s : State) : (withPld f s).mbx = s.mbx := rfl
@[simp] theorem withPld_pcie (f : Pld → Pld) (s : State) : (withPld f s).pcie = s.pcie := rfl
@[simp] theorem withPld_tap (f : Pld → Pld) (s : State) : (withPld f s).tap = s.tap := rfl
@[simp] theorem withPld_dike (f : Pld → Pld) (s : State) : (withPld f s).dike = s.dike := rfl
@[simp] theorem withPld_jets (f : Pld → Pld) (s : State) : (withPld f s).jets = s.jets := rfl
@[simp] theorem withPld_wells (f : Pld → Pld) (s : State) : (withPld f s).wells = s.wells := rfl
@[simp] theorem withPld_dac (f : Pld → Pld) (s : State) : (withPld f s).dac = s.dac := rfl
@[simp] theorem withPld_cal (f : Pld → Pld) (s : State) : (withPld f s).cal = s.cal := rfl
@[simp] theorem withPld_fab (f : Pld → Pld) (s : State) : (withPld f s).fab = s.fab := rfl
@[simp] theorem withPld_tb (f : Pld → Pld) (s : State) : (withPld f s).tb = s.tb := rfl
@[simp] theorem withPld_servo (f : Pld → Pld) (s : State) : (withPld f s).servo = s.servo := rfl
@[simp] theorem withPld_trk (f : Pld → Pld) (s : State) : (withPld f s).trk = s.trk := rfl
@[simp] theorem withPld_slc (f : Pld → Pld) (s : State) : (withPld f s).slc = s.slc := rfl
@[simp] theorem withPld_weir (f : Pld → Pld) (s : State) : (withPld f s).weir = s.weir := rfl
@[simp] theorem withPld_cld (f : Pld → Pld) (s : State) : (withPld f s).cld = s.cld := rfl
@[simp] theorem withPld_pair (f : Pld → Pld) (s : State) : (withPld f s).pair = s.pair := rfl
@[simp] theorem withPld_wear (f : Pld → Pld) (s : State) : (withPld f s).wear = s.wear := rfl
@[simp] theorem withPld_temp (f : Pld → Pld) (s : State) : (withPld f s).temp = s.temp := rfl
@[simp] theorem withPld_plat (f : Pld → Pld) (s : State) : (withPld f s).plat = s.plat := rfl
@[simp] theorem withPld_pld (f : Pld → Pld) (s : State) : (withPld f s).pld = f s.pld := rfl
@[simp] theorem withPld_sec (f : Pld → Pld) (s : State) : (withPld f s).sec = s.sec := rfl
@[simp] theorem withPld_out (f : Pld → Pld) (s : State) : (withPld f s).out = s.out := rfl
@[simp] theorem withPld_draws (f : Pld → Pld) (s : State) : (withPld f s).draws = s.draws := rfl
@[simp] theorem withPld_pending (f : Pld → Pld) (s : State) : (withPld f s).pending = s.pending := rfl

/-! ### `withPlat` -/

@[simp] theorem withPlat_part (f : Plat → Plat) (s : State) : (withPlat f s).part = s.part := rfl
@[simp] theorem withPlat_pwr (f : Plat → Plat) (s : State) : (withPlat f s).pwr = s.pwr := rfl
@[simp] theorem withPlat_sys (f : Plat → Plat) (s : State) : (withPlat f s).sys = s.sys := rfl
@[simp] theorem withPlat_mbx (f : Plat → Plat) (s : State) : (withPlat f s).mbx = s.mbx := rfl
@[simp] theorem withPlat_pcie (f : Plat → Plat) (s : State) : (withPlat f s).pcie = s.pcie := rfl
@[simp] theorem withPlat_tap (f : Plat → Plat) (s : State) : (withPlat f s).tap = s.tap := rfl
@[simp] theorem withPlat_dike (f : Plat → Plat) (s : State) : (withPlat f s).dike = s.dike := rfl
@[simp] theorem withPlat_jets (f : Plat → Plat) (s : State) : (withPlat f s).jets = s.jets := rfl
@[simp] theorem withPlat_wells (f : Plat → Plat) (s : State) : (withPlat f s).wells = s.wells := rfl
@[simp] theorem withPlat_dac (f : Plat → Plat) (s : State) : (withPlat f s).dac = s.dac := rfl
@[simp] theorem withPlat_cal (f : Plat → Plat) (s : State) : (withPlat f s).cal = s.cal := rfl
@[simp] theorem withPlat_fab (f : Plat → Plat) (s : State) : (withPlat f s).fab = s.fab := rfl
@[simp] theorem withPlat_tb (f : Plat → Plat) (s : State) : (withPlat f s).tb = s.tb := rfl
@[simp] theorem withPlat_servo (f : Plat → Plat) (s : State) : (withPlat f s).servo = s.servo := rfl
@[simp] theorem withPlat_trk (f : Plat → Plat) (s : State) : (withPlat f s).trk = s.trk := rfl
@[simp] theorem withPlat_slc (f : Plat → Plat) (s : State) : (withPlat f s).slc = s.slc := rfl
@[simp] theorem withPlat_weir (f : Plat → Plat) (s : State) : (withPlat f s).weir = s.weir := rfl
@[simp] theorem withPlat_cld (f : Plat → Plat) (s : State) : (withPlat f s).cld = s.cld := rfl
@[simp] theorem withPlat_pair (f : Plat → Plat) (s : State) : (withPlat f s).pair = s.pair := rfl
@[simp] theorem withPlat_wear (f : Plat → Plat) (s : State) : (withPlat f s).wear = s.wear := rfl
@[simp] theorem withPlat_temp (f : Plat → Plat) (s : State) : (withPlat f s).temp = s.temp := rfl
@[simp] theorem withPlat_plat (f : Plat → Plat) (s : State) : (withPlat f s).plat = f s.plat := rfl
@[simp] theorem withPlat_pld (f : Plat → Plat) (s : State) : (withPlat f s).pld = s.pld := rfl
@[simp] theorem withPlat_sec (f : Plat → Plat) (s : State) : (withPlat f s).sec = s.sec := rfl
@[simp] theorem withPlat_out (f : Plat → Plat) (s : State) : (withPlat f s).out = s.out := rfl
@[simp] theorem withPlat_draws (f : Plat → Plat) (s : State) : (withPlat f s).draws = s.draws := rfl
@[simp] theorem withPlat_pending (f : Plat → Plat) (s : State) : (withPlat f s).pending = s.pending := rfl

/-! ### `withSec` -/

@[simp] theorem withSec_part (f : Sec → Sec) (s : State) : (withSec f s).part = s.part := rfl
@[simp] theorem withSec_pwr (f : Sec → Sec) (s : State) : (withSec f s).pwr = s.pwr := rfl
@[simp] theorem withSec_sys (f : Sec → Sec) (s : State) : (withSec f s).sys = s.sys := rfl
@[simp] theorem withSec_mbx (f : Sec → Sec) (s : State) : (withSec f s).mbx = s.mbx := rfl
@[simp] theorem withSec_pcie (f : Sec → Sec) (s : State) : (withSec f s).pcie = s.pcie := rfl
@[simp] theorem withSec_tap (f : Sec → Sec) (s : State) : (withSec f s).tap = s.tap := rfl
@[simp] theorem withSec_dike (f : Sec → Sec) (s : State) : (withSec f s).dike = s.dike := rfl
@[simp] theorem withSec_jets (f : Sec → Sec) (s : State) : (withSec f s).jets = s.jets := rfl
@[simp] theorem withSec_wells (f : Sec → Sec) (s : State) : (withSec f s).wells = s.wells := rfl
@[simp] theorem withSec_dac (f : Sec → Sec) (s : State) : (withSec f s).dac = s.dac := rfl
@[simp] theorem withSec_cal (f : Sec → Sec) (s : State) : (withSec f s).cal = s.cal := rfl
@[simp] theorem withSec_fab (f : Sec → Sec) (s : State) : (withSec f s).fab = s.fab := rfl
@[simp] theorem withSec_tb (f : Sec → Sec) (s : State) : (withSec f s).tb = s.tb := rfl
@[simp] theorem withSec_servo (f : Sec → Sec) (s : State) : (withSec f s).servo = s.servo := rfl
@[simp] theorem withSec_trk (f : Sec → Sec) (s : State) : (withSec f s).trk = s.trk := rfl
@[simp] theorem withSec_slc (f : Sec → Sec) (s : State) : (withSec f s).slc = s.slc := rfl
@[simp] theorem withSec_weir (f : Sec → Sec) (s : State) : (withSec f s).weir = s.weir := rfl
@[simp] theorem withSec_cld (f : Sec → Sec) (s : State) : (withSec f s).cld = s.cld := rfl
@[simp] theorem withSec_pair (f : Sec → Sec) (s : State) : (withSec f s).pair = s.pair := rfl
@[simp] theorem withSec_wear (f : Sec → Sec) (s : State) : (withSec f s).wear = s.wear := rfl
@[simp] theorem withSec_temp (f : Sec → Sec) (s : State) : (withSec f s).temp = s.temp := rfl
@[simp] theorem withSec_plat (f : Sec → Sec) (s : State) : (withSec f s).plat = s.plat := rfl
@[simp] theorem withSec_pld (f : Sec → Sec) (s : State) : (withSec f s).pld = s.pld := rfl
@[simp] theorem withSec_sec (f : Sec → Sec) (s : State) : (withSec f s).sec = f s.sec := rfl
@[simp] theorem withSec_out (f : Sec → Sec) (s : State) : (withSec f s).out = s.out := rfl
@[simp] theorem withSec_draws (f : Sec → Sec) (s : State) : (withSec f s).draws = s.draws := rfl
@[simp] theorem withSec_pending (f : Sec → Sec) (s : State) : (withSec f s).pending = s.pending := rfl

/-! ### `emit` -/

@[simp] theorem emit_part (o : Out) (s : State) : (emit o s).part = s.part := rfl
@[simp] theorem emit_pwr (o : Out) (s : State) : (emit o s).pwr = s.pwr := rfl
@[simp] theorem emit_sys (o : Out) (s : State) : (emit o s).sys = s.sys := rfl
@[simp] theorem emit_mbx (o : Out) (s : State) : (emit o s).mbx = s.mbx := rfl
@[simp] theorem emit_pcie (o : Out) (s : State) : (emit o s).pcie = s.pcie := rfl
@[simp] theorem emit_tap (o : Out) (s : State) : (emit o s).tap = s.tap := rfl
@[simp] theorem emit_dike (o : Out) (s : State) : (emit o s).dike = s.dike := rfl
@[simp] theorem emit_jets (o : Out) (s : State) : (emit o s).jets = s.jets := rfl
@[simp] theorem emit_wells (o : Out) (s : State) : (emit o s).wells = s.wells := rfl
@[simp] theorem emit_dac (o : Out) (s : State) : (emit o s).dac = s.dac := rfl
@[simp] theorem emit_cal (o : Out) (s : State) : (emit o s).cal = s.cal := rfl
@[simp] theorem emit_fab (o : Out) (s : State) : (emit o s).fab = s.fab := rfl
@[simp] theorem emit_tb (o : Out) (s : State) : (emit o s).tb = s.tb := rfl
@[simp] theorem emit_servo (o : Out) (s : State) : (emit o s).servo = s.servo := rfl
@[simp] theorem emit_trk (o : Out) (s : State) : (emit o s).trk = s.trk := rfl
@[simp] theorem emit_slc (o : Out) (s : State) : (emit o s).slc = s.slc := rfl
@[simp] theorem emit_weir (o : Out) (s : State) : (emit o s).weir = s.weir := rfl
@[simp] theorem emit_cld (o : Out) (s : State) : (emit o s).cld = s.cld := rfl
@[simp] theorem emit_pair (o : Out) (s : State) : (emit o s).pair = s.pair := rfl
@[simp] theorem emit_wear (o : Out) (s : State) : (emit o s).wear = s.wear := rfl
@[simp] theorem emit_temp (o : Out) (s : State) : (emit o s).temp = s.temp := rfl
@[simp] theorem emit_plat (o : Out) (s : State) : (emit o s).plat = s.plat := rfl
@[simp] theorem emit_pld (o : Out) (s : State) : (emit o s).pld = s.pld := rfl
@[simp] theorem emit_sec (o : Out) (s : State) : (emit o s).sec = s.sec := rfl
@[simp] theorem emit_out (o : Out) (s : State) : (emit o s).out = s.out ++ [o] := rfl
@[simp] theorem emit_draws (o : Out) (s : State) : (emit o s).draws = s.draws := rfl
@[simp] theorem emit_pending (o : Out) (s : State) : (emit o s).pending = s.pending := rfl

/-! ### `ev` -/

@[simp] theorem ev_part (n : Nat) (s : State) : (ev n s).part = s.part := rfl
@[simp] theorem ev_pwr (n : Nat) (s : State) : (ev n s).pwr = s.pwr := rfl
@[simp] theorem ev_sys (n : Nat) (s : State) : (ev n s).sys = s.sys := rfl
@[simp] theorem ev_mbx (n : Nat) (s : State) : (ev n s).mbx = s.mbx := rfl
@[simp] theorem ev_pcie (n : Nat) (s : State) : (ev n s).pcie = s.pcie := rfl
@[simp] theorem ev_tap (n : Nat) (s : State) : (ev n s).tap = s.tap := rfl
@[simp] theorem ev_dike (n : Nat) (s : State) : (ev n s).dike = s.dike := rfl
@[simp] theorem ev_jets (n : Nat) (s : State) : (ev n s).jets = s.jets := rfl
@[simp] theorem ev_wells (n : Nat) (s : State) : (ev n s).wells = s.wells := rfl
@[simp] theorem ev_dac (n : Nat) (s : State) : (ev n s).dac = s.dac := rfl
@[simp] theorem ev_cal (n : Nat) (s : State) : (ev n s).cal = s.cal := rfl
@[simp] theorem ev_fab (n : Nat) (s : State) : (ev n s).fab = s.fab := rfl
@[simp] theorem ev_tb (n : Nat) (s : State) : (ev n s).tb = s.tb := rfl
@[simp] theorem ev_servo (n : Nat) (s : State) : (ev n s).servo = s.servo := rfl
@[simp] theorem ev_trk (n : Nat) (s : State) : (ev n s).trk = s.trk := rfl
@[simp] theorem ev_slc (n : Nat) (s : State) : (ev n s).slc = s.slc := rfl
@[simp] theorem ev_weir (n : Nat) (s : State) : (ev n s).weir = s.weir := rfl
@[simp] theorem ev_cld (n : Nat) (s : State) : (ev n s).cld = s.cld := rfl
@[simp] theorem ev_pair (n : Nat) (s : State) : (ev n s).pair = s.pair := rfl
@[simp] theorem ev_wear (n : Nat) (s : State) : (ev n s).wear = s.wear := rfl
@[simp] theorem ev_temp (n : Nat) (s : State) : (ev n s).temp = s.temp := rfl
@[simp] theorem ev_plat (n : Nat) (s : State) :
    (ev n s).plat = { s.plat with events := s.plat.events ++ [(n, s.tb.now)] } := rfl
@[simp] theorem ev_pld (n : Nat) (s : State) : (ev n s).pld = s.pld := rfl
@[simp] theorem ev_sec (n : Nat) (s : State) : (ev n s).sec = s.sec := rfl
@[simp] theorem ev_out (n : Nat) (s : State) : (ev n s).out = s.out := rfl
@[simp] theorem ev_draws (n : Nat) (s : State) : (ev n s).draws = s.draws := rfl
@[simp] theorem ev_pending (n : Nat) (s : State) : (ev n s).pending = s.pending := rfl

/-! ### `forgetEvents` -/

@[simp] theorem forgetEvents_part (s : State) : (forgetEvents s).part = s.part := rfl
@[simp] theorem forgetEvents_pwr (s : State) : (forgetEvents s).pwr = s.pwr := rfl
@[simp] theorem forgetEvents_sys (s : State) : (forgetEvents s).sys = s.sys := rfl
@[simp] theorem forgetEvents_mbx (s : State) : (forgetEvents s).mbx = s.mbx := rfl
@[simp] theorem forgetEvents_pcie (s : State) : (forgetEvents s).pcie = s.pcie := rfl
@[simp] theorem forgetEvents_tap (s : State) : (forgetEvents s).tap = s.tap := rfl
@[simp] theorem forgetEvents_dike (s : State) : (forgetEvents s).dike = s.dike := rfl
@[simp] theorem forgetEvents_jets (s : State) : (forgetEvents s).jets = s.jets := rfl
@[simp] theorem forgetEvents_wells (s : State) : (forgetEvents s).wells = s.wells := rfl
@[simp] theorem forgetEvents_dac (s : State) : (forgetEvents s).dac = s.dac := rfl
@[simp] theorem forgetEvents_cal (s : State) : (forgetEvents s).cal = s.cal := rfl
@[simp] theorem forgetEvents_fab (s : State) : (forgetEvents s).fab = s.fab := rfl
@[simp] theorem forgetEvents_tb (s : State) : (forgetEvents s).tb = s.tb := rfl
@[simp] theorem forgetEvents_servo (s : State) : (forgetEvents s).servo = s.servo := rfl
@[simp] theorem forgetEvents_trk (s : State) : (forgetEvents s).trk = s.trk := rfl
@[simp] theorem forgetEvents_slc (s : State) : (forgetEvents s).slc = s.slc := rfl
@[simp] theorem forgetEvents_weir (s : State) : (forgetEvents s).weir = s.weir := rfl
@[simp] theorem forgetEvents_cld (s : State) : (forgetEvents s).cld = s.cld := rfl
@[simp] theorem forgetEvents_pair (s : State) : (forgetEvents s).pair = s.pair := rfl
@[simp] theorem forgetEvents_wear (s : State) : (forgetEvents s).wear = s.wear := rfl
@[simp] theorem forgetEvents_temp (s : State) : (forgetEvents s).temp = s.temp := rfl
@[simp] theorem forgetEvents_plat (s : State) :
    (forgetEvents s).plat = { s.plat with events := [] } := rfl
@[simp] theorem forgetEvents_pld (s : State) : (forgetEvents s).pld = s.pld := rfl
@[simp] theorem forgetEvents_sec (s : State) : (forgetEvents s).sec = s.sec := rfl
@[simp] theorem forgetEvents_out (s : State) : (forgetEvents s).out = s.out := rfl
@[simp] theorem forgetEvents_draws (s : State) : (forgetEvents s).draws = s.draws := rfl
@[simp] theorem forgetEvents_pending (s : State) : (forgetEvents s).pending = s.pending := rfl

/-! ### `pmonFreeze` -/

@[simp] theorem pmonFreeze_part (b : Bool) (s : State) : (pmonFreeze b s).part = s.part := rfl
@[simp] theorem pmonFreeze_pwr (b : Bool) (s : State) : (pmonFreeze b s).pwr = s.pwr := rfl
@[simp] theorem pmonFreeze_sys (b : Bool) (s : State) : (pmonFreeze b s).sys = s.sys := rfl
@[simp] theorem pmonFreeze_mbx (b : Bool) (s : State) : (pmonFreeze b s).mbx = s.mbx := rfl
@[simp] theorem pmonFreeze_pcie (b : Bool) (s : State) : (pmonFreeze b s).pcie = s.pcie := rfl
@[simp] theorem pmonFreeze_tap (b : Bool) (s : State) : (pmonFreeze b s).tap = s.tap := rfl
@[simp] theorem pmonFreeze_dike (b : Bool) (s : State) : (pmonFreeze b s).dike = s.dike := rfl
@[simp] theorem pmonFreeze_jets (b : Bool) (s : State) : (pmonFreeze b s).jets = s.jets := rfl
@[simp] theorem pmonFreeze_wells (b : Bool) (s : State) : (pmonFreeze b s).wells = s.wells := rfl
@[simp] theorem pmonFreeze_dac (b : Bool) (s : State) : (pmonFreeze b s).dac = s.dac := rfl
@[simp] theorem pmonFreeze_cal (b : Bool) (s : State) : (pmonFreeze b s).cal = s.cal := rfl
@[simp] theorem pmonFreeze_fab (b : Bool) (s : State) : (pmonFreeze b s).fab = s.fab := rfl
@[simp] theorem pmonFreeze_tb (b : Bool) (s : State) : (pmonFreeze b s).tb = s.tb := rfl
@[simp] theorem pmonFreeze_servo (b : Bool) (s : State) : (pmonFreeze b s).servo = s.servo := rfl
@[simp] theorem pmonFreeze_trk (b : Bool) (s : State) : (pmonFreeze b s).trk = s.trk := rfl
@[simp] theorem pmonFreeze_slc (b : Bool) (s : State) : (pmonFreeze b s).slc = s.slc := rfl
@[simp] theorem pmonFreeze_weir (b : Bool) (s : State) : (pmonFreeze b s).weir = s.weir := rfl
@[simp] theorem pmonFreeze_cld (b : Bool) (s : State) : (pmonFreeze b s).cld = s.cld := rfl
@[simp] theorem pmonFreeze_pair (b : Bool) (s : State) : (pmonFreeze b s).pair = s.pair := rfl
@[simp] theorem pmonFreeze_wear (b : Bool) (s : State) : (pmonFreeze b s).wear = s.wear := rfl
@[simp] theorem pmonFreeze_temp (b : Bool) (s : State) : (pmonFreeze b s).temp = s.temp := rfl
@[simp] theorem pmonFreeze_plat (b : Bool) (s : State) :
    (pmonFreeze b s).plat = { s.plat with frozen := b } := rfl
@[simp] theorem pmonFreeze_pld (b : Bool) (s : State) : (pmonFreeze b s).pld = s.pld := rfl
@[simp] theorem pmonFreeze_sec (b : Bool) (s : State) : (pmonFreeze b s).sec = s.sec := rfl
@[simp] theorem pmonFreeze_out (b : Bool) (s : State) : (pmonFreeze b s).out = s.out := rfl
@[simp] theorem pmonFreeze_draws (b : Bool) (s : State) : (pmonFreeze b s).draws = s.draws := rfl
@[simp] theorem pmonFreeze_pending (b : Bool) (s : State) : (pmonFreeze b s).pending = s.pending := rfl

/-! ### `reach` -/

@[simp] theorem reach_part (t : Time) (s : State) : (reach t s).part = s.part := rfl
@[simp] theorem reach_pwr (t : Time) (s : State) : (reach t s).pwr = s.pwr := rfl
@[simp] theorem reach_sys (t : Time) (s : State) : (reach t s).sys = s.sys := rfl
@[simp] theorem reach_mbx (t : Time) (s : State) : (reach t s).mbx = s.mbx := rfl
@[simp] theorem reach_pcie (t : Time) (s : State) : (reach t s).pcie = s.pcie := rfl
@[simp] theorem reach_tap (t : Time) (s : State) : (reach t s).tap = s.tap := rfl
@[simp] theorem reach_dike (t : Time) (s : State) : (reach t s).dike = s.dike := rfl
@[simp] theorem reach_jets (t : Time) (s : State) : (reach t s).jets = s.jets := rfl
@[simp] theorem reach_wells (t : Time) (s : State) : (reach t s).wells = s.wells := rfl
@[simp] theorem reach_dac (t : Time) (s : State) : (reach t s).dac = s.dac := rfl
@[simp] theorem reach_cal (t : Time) (s : State) : (reach t s).cal = s.cal := rfl
@[simp] theorem reach_fab (t : Time) (s : State) : (reach t s).fab = s.fab := rfl
@[simp] theorem reach_tb (t : Time) (s : State) :
    (reach t s).tb = { s.tb with now := max s.tb.now t } := rfl
@[simp] theorem reach_servo (t : Time) (s : State) : (reach t s).servo = s.servo := rfl
@[simp] theorem reach_trk (t : Time) (s : State) : (reach t s).trk = s.trk := rfl
@[simp] theorem reach_slc (t : Time) (s : State) : (reach t s).slc = s.slc := rfl
@[simp] theorem reach_weir (t : Time) (s : State) : (reach t s).weir = s.weir := rfl
@[simp] theorem reach_cld (t : Time) (s : State) : (reach t s).cld = s.cld := rfl
@[simp] theorem reach_pair (t : Time) (s : State) : (reach t s).pair = s.pair := rfl
@[simp] theorem reach_wear (t : Time) (s : State) : (reach t s).wear = s.wear := rfl
@[simp] theorem reach_temp (t : Time) (s : State) : (reach t s).temp = s.temp := rfl
@[simp] theorem reach_plat (t : Time) (s : State) : (reach t s).plat = s.plat := rfl
@[simp] theorem reach_pld (t : Time) (s : State) : (reach t s).pld = s.pld := rfl
@[simp] theorem reach_sec (t : Time) (s : State) : (reach t s).sec = s.sec := rfl
@[simp] theorem reach_out (t : Time) (s : State) : (reach t s).out = s.out := rfl
@[simp] theorem reach_draws (t : Time) (s : State) : (reach t s).draws = s.draws := rfl
@[simp] theorem reach_pending (t : Time) (s : State) : (reach t s).pending = s.pending := rfl

/-! ### `orderReset` -/

@[simp] theorem orderReset_part (s : State) : (orderReset s).part = s.part := rfl
@[simp] theorem orderReset_pwr (s : State) : (orderReset s).pwr = s.pwr := rfl
@[simp] theorem orderReset_sys (s : State) :
    (orderReset s).sys = { s.sys with resetAt := some (s.tb.now + ns 10000) } := rfl
@[simp] theorem orderReset_mbx (s : State) : (orderReset s).mbx = s.mbx := rfl
@[simp] theorem orderReset_pcie (s : State) : (orderReset s).pcie = s.pcie := rfl
@[simp] theorem orderReset_tap (s : State) : (orderReset s).tap = s.tap := rfl
@[simp] theorem orderReset_dike (s : State) : (orderReset s).dike = s.dike := rfl
@[simp] theorem orderReset_jets (s : State) : (orderReset s).jets = s.jets := rfl
@[simp] theorem orderReset_wells (s : State) : (orderReset s).wells = s.wells := rfl
@[simp] theorem orderReset_dac (s : State) : (orderReset s).dac = s.dac := rfl
@[simp] theorem orderReset_cal (s : State) : (orderReset s).cal = s.cal := rfl
@[simp] theorem orderReset_fab (s : State) : (orderReset s).fab = s.fab := rfl
@[simp] theorem orderReset_tb (s : State) : (orderReset s).tb = s.tb := rfl
@[simp] theorem orderReset_servo (s : State) : (orderReset s).servo = s.servo := rfl
@[simp] theorem orderReset_trk (s : State) : (orderReset s).trk = s.trk := rfl
@[simp] theorem orderReset_slc (s : State) : (orderReset s).slc = s.slc := rfl
@[simp] theorem orderReset_weir (s : State) : (orderReset s).weir = s.weir := rfl
@[simp] theorem orderReset_cld (s : State) : (orderReset s).cld = s.cld := rfl
@[simp] theorem orderReset_pair (s : State) : (orderReset s).pair = s.pair := rfl
@[simp] theorem orderReset_wear (s : State) : (orderReset s).wear = s.wear := rfl
@[simp] theorem orderReset_temp (s : State) : (orderReset s).temp = s.temp := rfl
@[simp] theorem orderReset_plat (s : State) : (orderReset s).plat = s.plat := rfl
@[simp] theorem orderReset_pld (s : State) : (orderReset s).pld = s.pld := rfl
@[simp] theorem orderReset_sec (s : State) : (orderReset s).sec = s.sec := rfl
@[simp] theorem orderReset_out (s : State) : (orderReset s).out = s.out := rfl
@[simp] theorem orderReset_draws (s : State) : (orderReset s).draws = s.draws := rfl
@[simp] theorem orderReset_pending (s : State) : (orderReset s).pending = s.pending := rfl

/-! ### `modLoop` -/

@[simp] theorem modLoop_part (l : Nat) (f : Loop → Loop) (s : State) : (modLoop l f s).part = s.part := rfl
@[simp] theorem modLoop_pwr (l : Nat) (f : Loop → Loop) (s : State) : (modLoop l f s).pwr = s.pwr := rfl
@[simp] theorem modLoop_sys (l : Nat) (f : Loop → Loop) (s : State) : (modLoop l f s).sys = s.sys := rfl
@[simp] theorem modLoop_mbx (l : Nat) (f : Loop → Loop) (s : State) : (modLoop l f s).mbx = s.mbx := rfl
@[simp] theorem modLoop_pcie (l : Nat) (f : Loop → Loop) (s : State) : (modLoop l f s).pcie = s.pcie := rfl
@[simp] theorem modLoop_tap (l : Nat) (f : Loop → Loop) (s : State) : (modLoop l f s).tap = s.tap := rfl
@[simp] theorem modLoop_dike (l : Nat) (f : Loop → Loop) (s : State) : (modLoop l f s).dike = s.dike := rfl
@[simp] theorem modLoop_jets (l : Nat) (f : Loop → Loop) (s : State) :
    (modLoop l f s).jets = { s.jets with loops := smod {} s.jets.loops l f } := rfl
@[simp] theorem modLoop_wells (l : Nat) (f : Loop → Loop) (s : State) : (modLoop l f s).wells = s.wells := rfl
@[simp] theorem modLoop_dac (l : Nat) (f : Loop → Loop) (s : State) : (modLoop l f s).dac = s.dac := rfl
@[simp] theorem modLoop_cal (l : Nat) (f : Loop → Loop) (s : State) : (modLoop l f s).cal = s.cal := rfl
@[simp] theorem modLoop_fab (l : Nat) (f : Loop → Loop) (s : State) : (modLoop l f s).fab = s.fab := rfl
@[simp] theorem modLoop_tb (l : Nat) (f : Loop → Loop) (s : State) : (modLoop l f s).tb = s.tb := rfl
@[simp] theorem modLoop_servo (l : Nat) (f : Loop → Loop) (s : State) : (modLoop l f s).servo = s.servo := rfl
@[simp] theorem modLoop_trk (l : Nat) (f : Loop → Loop) (s : State) : (modLoop l f s).trk = s.trk := rfl
@[simp] theorem modLoop_slc (l : Nat) (f : Loop → Loop) (s : State) : (modLoop l f s).slc = s.slc := rfl
@[simp] theorem modLoop_weir (l : Nat) (f : Loop → Loop) (s : State) : (modLoop l f s).weir = s.weir := rfl
@[simp] theorem modLoop_cld (l : Nat) (f : Loop → Loop) (s : State) : (modLoop l f s).cld = s.cld := rfl
@[simp] theorem modLoop_pair (l : Nat) (f : Loop → Loop) (s : State) : (modLoop l f s).pair = s.pair := rfl
@[simp] theorem modLoop_wear (l : Nat) (f : Loop → Loop) (s : State) : (modLoop l f s).wear = s.wear := rfl
@[simp] theorem modLoop_temp (l : Nat) (f : Loop → Loop) (s : State) : (modLoop l f s).temp = s.temp := rfl
@[simp] theorem modLoop_plat (l : Nat) (f : Loop → Loop) (s : State) : (modLoop l f s).plat = s.plat := rfl
@[simp] theorem modLoop_pld (l : Nat) (f : Loop → Loop) (s : State) : (modLoop l f s).pld = s.pld := rfl
@[simp] theorem modLoop_sec (l : Nat) (f : Loop → Loop) (s : State) : (modLoop l f s).sec = s.sec := rfl
@[simp] theorem modLoop_out (l : Nat) (f : Loop → Loop) (s : State) : (modLoop l f s).out = s.out := rfl
@[simp] theorem modLoop_draws (l : Nat) (f : Loop → Loop) (s : State) : (modLoop l f s).draws = s.draws := rfl
@[simp] theorem modLoop_pending (l : Nat) (f : Loop → Loop) (s : State) : (modLoop l f s).pending = s.pending := rfl

/-! ### `modJet` -/

@[simp] theorem modJet_part (j : Nat) (f : Jet → Jet) (s : State) : (modJet j f s).part = s.part := rfl
@[simp] theorem modJet_pwr (j : Nat) (f : Jet → Jet) (s : State) : (modJet j f s).pwr = s.pwr := rfl
@[simp] theorem modJet_sys (j : Nat) (f : Jet → Jet) (s : State) : (modJet j f s).sys = s.sys := rfl
@[simp] theorem modJet_mbx (j : Nat) (f : Jet → Jet) (s : State) : (modJet j f s).mbx = s.mbx := rfl
@[simp] theorem modJet_pcie (j : Nat) (f : Jet → Jet) (s : State) : (modJet j f s).pcie = s.pcie := rfl
@[simp] theorem modJet_tap (j : Nat) (f : Jet → Jet) (s : State) : (modJet j f s).tap = s.tap := rfl
@[simp] theorem modJet_dike (j : Nat) (f : Jet → Jet) (s : State) : (modJet j f s).dike = s.dike := rfl
@[simp] theorem modJet_jets (j : Nat) (f : Jet → Jet) (s : State) :
    (modJet j f s).jets = { s.jets with regs := smod {} s.jets.regs j f } := rfl
@[simp] theorem modJet_wells (j : Nat) (f : Jet → Jet) (s : State) : (modJet j f s).wells = s.wells := rfl
@[simp] theorem modJet_dac (j : Nat) (f : Jet → Jet) (s : State) : (modJet j f s).dac = s.dac := rfl
@[simp] theorem modJet_cal (j : Nat) (f : Jet → Jet) (s : State) : (modJet j f s).cal = s.cal := rfl
@[simp] theorem modJet_fab (j : Nat) (f : Jet → Jet) (s : State) : (modJet j f s).fab = s.fab := rfl
@[simp] theorem modJet_tb (j : Nat) (f : Jet → Jet) (s : State) : (modJet j f s).tb = s.tb := rfl
@[simp] theorem modJet_servo (j : Nat) (f : Jet → Jet) (s : State) : (modJet j f s).servo = s.servo := rfl
@[simp] theorem modJet_trk (j : Nat) (f : Jet → Jet) (s : State) : (modJet j f s).trk = s.trk := rfl
@[simp] theorem modJet_slc (j : Nat) (f : Jet → Jet) (s : State) : (modJet j f s).slc = s.slc := rfl
@[simp] theorem modJet_weir (j : Nat) (f : Jet → Jet) (s : State) : (modJet j f s).weir = s.weir := rfl
@[simp] theorem modJet_cld (j : Nat) (f : Jet → Jet) (s : State) : (modJet j f s).cld = s.cld := rfl
@[simp] theorem modJet_pair (j : Nat) (f : Jet → Jet) (s : State) : (modJet j f s).pair = s.pair := rfl
@[simp] theorem modJet_wear (j : Nat) (f : Jet → Jet) (s : State) : (modJet j f s).wear = s.wear := rfl
@[simp] theorem modJet_temp (j : Nat) (f : Jet → Jet) (s : State) : (modJet j f s).temp = s.temp := rfl
@[simp] theorem modJet_plat (j : Nat) (f : Jet → Jet) (s : State) : (modJet j f s).plat = s.plat := rfl
@[simp] theorem modJet_pld (j : Nat) (f : Jet → Jet) (s : State) : (modJet j f s).pld = s.pld := rfl
@[simp] theorem modJet_sec (j : Nat) (f : Jet → Jet) (s : State) : (modJet j f s).sec = s.sec := rfl
@[simp] theorem modJet_out (j : Nat) (f : Jet → Jet) (s : State) : (modJet j f s).out = s.out := rfl
@[simp] theorem modJet_draws (j : Nat) (f : Jet → Jet) (s : State) : (modJet j f s).draws = s.draws := rfl
@[simp] theorem modJet_pending (j : Nat) (f : Jet → Jet) (s : State) : (modJet j f s).pending = s.pending := rfl

/-! ### `modWell` -/

@[simp] theorem modWell_part (w : Nat) (f : Well → Well) (s : State) : (modWell w f s).part = s.part := rfl
@[simp] theorem modWell_pwr (w : Nat) (f : Well → Well) (s : State) : (modWell w f s).pwr = s.pwr := rfl
@[simp] theorem modWell_sys (w : Nat) (f : Well → Well) (s : State) : (modWell w f s).sys = s.sys := rfl
@[simp] theorem modWell_mbx (w : Nat) (f : Well → Well) (s : State) : (modWell w f s).mbx = s.mbx := rfl
@[simp] theorem modWell_pcie (w : Nat) (f : Well → Well) (s : State) : (modWell w f s).pcie = s.pcie := rfl
@[simp] theorem modWell_tap (w : Nat) (f : Well → Well) (s : State) : (modWell w f s).tap = s.tap := rfl
@[simp] theorem modWell_dike (w : Nat) (f : Well → Well) (s : State) : (modWell w f s).dike = s.dike := rfl
@[simp] theorem modWell_jets (w : Nat) (f : Well → Well) (s : State) : (modWell w f s).jets = s.jets := rfl
@[simp] theorem modWell_wells (w : Nat) (f : Well → Well) (s : State) : (modWell w f s).wells = smod {} s.wells w f := rfl
@[simp] theorem modWell_dac (w : Nat) (f : Well → Well) (s : State) : (modWell w f s).dac = s.dac := rfl
@[simp] theorem modWell_cal (w : Nat) (f : Well → Well) (s : State) : (modWell w f s).cal = s.cal := rfl
@[simp] theorem modWell_fab (w : Nat) (f : Well → Well) (s : State) : (modWell w f s).fab = s.fab := rfl
@[simp] theorem modWell_tb (w : Nat) (f : Well → Well) (s : State) : (modWell w f s).tb = s.tb := rfl
@[simp] theorem modWell_servo (w : Nat) (f : Well → Well) (s : State) : (modWell w f s).servo = s.servo := rfl
@[simp] theorem modWell_trk (w : Nat) (f : Well → Well) (s : State) : (modWell w f s).trk = s.trk := rfl
@[simp] theorem modWell_slc (w : Nat) (f : Well → Well) (s : State) : (modWell w f s).slc = s.slc := rfl
@[simp] theorem modWell_weir (w : Nat) (f : Well → Well) (s : State) : (modWell w f s).weir = s.weir := rfl
@[simp] theorem modWell_cld (w : Nat) (f : Well → Well) (s : State) : (modWell w f s).cld = s.cld := rfl
@[simp] theorem modWell_pair (w : Nat) (f : Well → Well) (s : State) : (modWell w f s).pair = s.pair := rfl
@[simp] theorem modWell_wear (w : Nat) (f : Well → Well) (s : State) : (modWell w f s).wear = s.wear := rfl
@[simp] theorem modWell_temp (w : Nat) (f : Well → Well) (s : State) : (modWell w f s).temp = s.temp := rfl
@[simp] theorem modWell_plat (w : Nat) (f : Well → Well) (s : State) : (modWell w f s).plat = s.plat := rfl
@[simp] theorem modWell_pld (w : Nat) (f : Well → Well) (s : State) : (modWell w f s).pld = s.pld := rfl
@[simp] theorem modWell_sec (w : Nat) (f : Well → Well) (s : State) : (modWell w f s).sec = s.sec := rfl
@[simp] theorem modWell_out (w : Nat) (f : Well → Well) (s : State) : (modWell w f s).out = s.out := rfl
@[simp] theorem modWell_draws (w : Nat) (f : Well → Well) (s : State) : (modWell w f s).draws = s.draws := rfl
@[simp] theorem modWell_pending (w : Nat) (f : Well → Well) (s : State) : (modWell w f s).pending = s.pending := rfl

/-! ### `modDom` -/

@[simp] theorem modDom_part (d : Nat) (f : SlcDom → SlcDom) (s : State) : (modDom d f s).part = s.part := rfl
@[simp] theorem modDom_pwr (d : Nat) (f : SlcDom → SlcDom) (s : State) : (modDom d f s).pwr = s.pwr := rfl
@[simp] theorem modDom_sys (d : Nat) (f : SlcDom → SlcDom) (s : State) : (modDom d f s).sys = s.sys := rfl
@[simp] theorem modDom_mbx (d : Nat) (f : SlcDom → SlcDom) (s : State) : (modDom d f s).mbx = s.mbx := rfl
@[simp] theorem modDom_pcie (d : Nat) (f : SlcDom → SlcDom) (s : State) : (modDom d f s).pcie = s.pcie := rfl
@[simp] theorem modDom_tap (d : Nat) (f : SlcDom → SlcDom) (s : State) : (modDom d f s).tap = s.tap := rfl
@[simp] theorem modDom_dike (d : Nat) (f : SlcDom → SlcDom) (s : State) : (modDom d f s).dike = s.dike := rfl
@[simp] theorem modDom_jets (d : Nat) (f : SlcDom → SlcDom) (s : State) : (modDom d f s).jets = s.jets := rfl
@[simp] theorem modDom_wells (d : Nat) (f : SlcDom → SlcDom) (s : State) : (modDom d f s).wells = s.wells := rfl
@[simp] theorem modDom_dac (d : Nat) (f : SlcDom → SlcDom) (s : State) : (modDom d f s).dac = s.dac := rfl
@[simp] theorem modDom_cal (d : Nat) (f : SlcDom → SlcDom) (s : State) : (modDom d f s).cal = s.cal := rfl
@[simp] theorem modDom_fab (d : Nat) (f : SlcDom → SlcDom) (s : State) : (modDom d f s).fab = s.fab := rfl
@[simp] theorem modDom_tb (d : Nat) (f : SlcDom → SlcDom) (s : State) : (modDom d f s).tb = s.tb := rfl
@[simp] theorem modDom_servo (d : Nat) (f : SlcDom → SlcDom) (s : State) : (modDom d f s).servo = s.servo := rfl
@[simp] theorem modDom_trk (d : Nat) (f : SlcDom → SlcDom) (s : State) : (modDom d f s).trk = s.trk := rfl
@[simp] theorem modDom_slc (d : Nat) (f : SlcDom → SlcDom) (s : State) :
    (modDom d f s).slc = { s.slc with dom := smod {} s.slc.dom d f } := rfl
@[simp] theorem modDom_weir (d : Nat) (f : SlcDom → SlcDom) (s : State) : (modDom d f s).weir = s.weir := rfl
@[simp] theorem modDom_cld (d : Nat) (f : SlcDom → SlcDom) (s : State) : (modDom d f s).cld = s.cld := rfl
@[simp] theorem modDom_pair (d : Nat) (f : SlcDom → SlcDom) (s : State) : (modDom d f s).pair = s.pair := rfl
@[simp] theorem modDom_wear (d : Nat) (f : SlcDom → SlcDom) (s : State) : (modDom d f s).wear = s.wear := rfl
@[simp] theorem modDom_temp (d : Nat) (f : SlcDom → SlcDom) (s : State) : (modDom d f s).temp = s.temp := rfl
@[simp] theorem modDom_plat (d : Nat) (f : SlcDom → SlcDom) (s : State) : (modDom d f s).plat = s.plat := rfl
@[simp] theorem modDom_pld (d : Nat) (f : SlcDom → SlcDom) (s : State) : (modDom d f s).pld = s.pld := rfl
@[simp] theorem modDom_sec (d : Nat) (f : SlcDom → SlcDom) (s : State) : (modDom d f s).sec = s.sec := rfl
@[simp] theorem modDom_out (d : Nat) (f : SlcDom → SlcDom) (s : State) : (modDom d f s).out = s.out := rfl
@[simp] theorem modDom_draws (d : Nat) (f : SlcDom → SlcDom) (s : State) : (modDom d f s).draws = s.draws := rfl
@[simp] theorem modDom_pending (d : Nat) (f : SlcDom → SlcDom) (s : State) : (modDom d f s).pending = s.pending := rfl

/-! ### `modEntry` -/

@[simp] theorem modEntry_part (n : Nat) (f : TEntry → TEntry) (s : State) : (modEntry n f s).part = s.part := rfl
@[simp] theorem modEntry_pwr (n : Nat) (f : TEntry → TEntry) (s : State) : (modEntry n f s).pwr = s.pwr := rfl
@[simp] theorem modEntry_sys (n : Nat) (f : TEntry → TEntry) (s : State) : (modEntry n f s).sys = s.sys := rfl
@[simp] theorem modEntry_mbx (n : Nat) (f : TEntry → TEntry) (s : State) : (modEntry n f s).mbx = s.mbx := rfl
@[simp] theorem modEntry_pcie (n : Nat) (f : TEntry → TEntry) (s : State) : (modEntry n f s).pcie = s.pcie := rfl
@[simp] theorem modEntry_tap (n : Nat) (f : TEntry → TEntry) (s : State) : (modEntry n f s).tap = s.tap := rfl
@[simp] theorem modEntry_dike (n : Nat) (f : TEntry → TEntry) (s : State) : (modEntry n f s).dike = s.dike := rfl
@[simp] theorem modEntry_jets (n : Nat) (f : TEntry → TEntry) (s : State) : (modEntry n f s).jets = s.jets := rfl
@[simp] theorem modEntry_wells (n : Nat) (f : TEntry → TEntry) (s : State) : (modEntry n f s).wells = s.wells := rfl
@[simp] theorem modEntry_dac (n : Nat) (f : TEntry → TEntry) (s : State) : (modEntry n f s).dac = s.dac := rfl
@[simp] theorem modEntry_cal (n : Nat) (f : TEntry → TEntry) (s : State) : (modEntry n f s).cal = s.cal := rfl
@[simp] theorem modEntry_fab (n : Nat) (f : TEntry → TEntry) (s : State) : (modEntry n f s).fab = s.fab := rfl
@[simp] theorem modEntry_tb (n : Nat) (f : TEntry → TEntry) (s : State) : (modEntry n f s).tb = s.tb := rfl
@[simp] theorem modEntry_servo (n : Nat) (f : TEntry → TEntry) (s : State) : (modEntry n f s).servo = s.servo := rfl
@[simp] theorem modEntry_trk (n : Nat) (f : TEntry → TEntry) (s : State) : (modEntry n f s).trk = s.trk := rfl
@[simp] theorem modEntry_slc (n : Nat) (f : TEntry → TEntry) (s : State) :
    (modEntry n f s).slc = { s.slc with entries := smod {} s.slc.entries n f } := rfl
@[simp] theorem modEntry_weir (n : Nat) (f : TEntry → TEntry) (s : State) : (modEntry n f s).weir = s.weir := rfl
@[simp] theorem modEntry_cld (n : Nat) (f : TEntry → TEntry) (s : State) : (modEntry n f s).cld = s.cld := rfl
@[simp] theorem modEntry_pair (n : Nat) (f : TEntry → TEntry) (s : State) : (modEntry n f s).pair = s.pair := rfl
@[simp] theorem modEntry_wear (n : Nat) (f : TEntry → TEntry) (s : State) : (modEntry n f s).wear = s.wear := rfl
@[simp] theorem modEntry_temp (n : Nat) (f : TEntry → TEntry) (s : State) : (modEntry n f s).temp = s.temp := rfl
@[simp] theorem modEntry_plat (n : Nat) (f : TEntry → TEntry) (s : State) : (modEntry n f s).plat = s.plat := rfl
@[simp] theorem modEntry_pld (n : Nat) (f : TEntry → TEntry) (s : State) : (modEntry n f s).pld = s.pld := rfl
@[simp] theorem modEntry_sec (n : Nat) (f : TEntry → TEntry) (s : State) : (modEntry n f s).sec = s.sec := rfl
@[simp] theorem modEntry_out (n : Nat) (f : TEntry → TEntry) (s : State) : (modEntry n f s).out = s.out := rfl
@[simp] theorem modEntry_draws (n : Nat) (f : TEntry → TEntry) (s : State) : (modEntry n f s).draws = s.draws := rfl
@[simp] theorem modEntry_pending (n : Nat) (f : TEntry → TEntry) (s : State) : (modEntry n f s).pending = s.pending := rfl

/-! ### `modTrain` -/

@[simp] theorem modTrain_part (t : Nat) (f : Train → Train) (s : State) : (modTrain t f s).part = s.part := rfl
@[simp] theorem modTrain_pwr (t : Nat) (f : Train → Train) (s : State) : (modTrain t f s).pwr = s.pwr := rfl
@[simp] theorem modTrain_sys (t : Nat) (f : Train → Train) (s : State) : (modTrain t f s).sys = s.sys := rfl
@[simp] theorem modTrain_mbx (t : Nat) (f : Train → Train) (s : State) : (modTrain t f s).mbx = s.mbx := rfl
@[simp] theorem modTrain_pcie (t : Nat) (f : Train → Train) (s : State) : (modTrain t f s).pcie = s.pcie := rfl
@[simp] theorem modTrain_tap (t : Nat) (f : Train → Train) (s : State) : (modTrain t f s).tap = s.tap := rfl
@[simp] theorem modTrain_dike (t : Nat) (f : Train → Train) (s : State) : (modTrain t f s).dike = s.dike := rfl
@[simp] theorem modTrain_jets (t : Nat) (f : Train → Train) (s : State) : (modTrain t f s).jets = s.jets := rfl
@[simp] theorem modTrain_wells (t : Nat) (f : Train → Train) (s : State) : (modTrain t f s).wells = s.wells := rfl
@[simp] theorem modTrain_dac (t : Nat) (f : Train → Train) (s : State) : (modTrain t f s).dac = s.dac := rfl
@[simp] theorem modTrain_cal (t : Nat) (f : Train → Train) (s : State) : (modTrain t f s).cal = s.cal := rfl
@[simp] theorem modTrain_fab (t : Nat) (f : Train → Train) (s : State) : (modTrain t f s).fab = s.fab := rfl
@[simp] theorem modTrain_tb (t : Nat) (f : Train → Train) (s : State) : (modTrain t f s).tb = s.tb := rfl
@[simp] theorem modTrain_servo (t : Nat) (f : Train → Train) (s : State) : (modTrain t f s).servo = s.servo := rfl
@[simp] theorem modTrain_trk (t : Nat) (f : Train → Train) (s : State) :
    (modTrain t f s).trk = { s.trk with trains := smod {} s.trk.trains t f } := rfl
@[simp] theorem modTrain_slc (t : Nat) (f : Train → Train) (s : State) : (modTrain t f s).slc = s.slc := rfl
@[simp] theorem modTrain_weir (t : Nat) (f : Train → Train) (s : State) : (modTrain t f s).weir = s.weir := rfl
@[simp] theorem modTrain_cld (t : Nat) (f : Train → Train) (s : State) : (modTrain t f s).cld = s.cld := rfl
@[simp] theorem modTrain_pair (t : Nat) (f : Train → Train) (s : State) : (modTrain t f s).pair = s.pair := rfl
@[simp] theorem modTrain_wear (t : Nat) (f : Train → Train) (s : State) : (modTrain t f s).wear = s.wear := rfl
@[simp] theorem modTrain_temp (t : Nat) (f : Train → Train) (s : State) : (modTrain t f s).temp = s.temp := rfl
@[simp] theorem modTrain_plat (t : Nat) (f : Train → Train) (s : State) : (modTrain t f s).plat = s.plat := rfl
@[simp] theorem modTrain_pld (t : Nat) (f : Train → Train) (s : State) : (modTrain t f s).pld = s.pld := rfl
@[simp] theorem modTrain_sec (t : Nat) (f : Train → Train) (s : State) : (modTrain t f s).sec = s.sec := rfl
@[simp] theorem modTrain_out (t : Nat) (f : Train → Train) (s : State) : (modTrain t f s).out = s.out := rfl
@[simp] theorem modTrain_draws (t : Nat) (f : Train → Train) (s : State) : (modTrain t f s).draws = s.draws := rfl
@[simp] theorem modTrain_pending (t : Nat) (f : Train → Train) (s : State) : (modTrain t f s).pending = s.pending := rfl

/-! ### `modHtr` -/

@[simp] theorem modHtr_part (n : Nat) (f : Htr → Htr) (s : State) : (modHtr n f s).part = s.part := rfl
@[simp] theorem modHtr_pwr (n : Nat) (f : Htr → Htr) (s : State) : (modHtr n f s).pwr = s.pwr := rfl
@[simp] theorem modHtr_sys (n : Nat) (f : Htr → Htr) (s : State) : (modHtr n f s).sys = s.sys := rfl
@[simp] theorem modHtr_mbx (n : Nat) (f : Htr → Htr) (s : State) : (modHtr n f s).mbx = s.mbx := rfl
@[simp] theorem modHtr_pcie (n : Nat) (f : Htr → Htr) (s : State) : (modHtr n f s).pcie = s.pcie := rfl
@[simp] theorem modHtr_tap (n : Nat) (f : Htr → Htr) (s : State) : (modHtr n f s).tap = s.tap := rfl
@[simp] theorem modHtr_dike (n : Nat) (f : Htr → Htr) (s : State) : (modHtr n f s).dike = s.dike := rfl
@[simp] theorem modHtr_jets (n : Nat) (f : Htr → Htr) (s : State) : (modHtr n f s).jets = s.jets := rfl
@[simp] theorem modHtr_wells (n : Nat) (f : Htr → Htr) (s : State) : (modHtr n f s).wells = s.wells := rfl
@[simp] theorem modHtr_dac (n : Nat) (f : Htr → Htr) (s : State) :
    (modHtr n f s).dac = { s.dac with htr := smod {} s.dac.htr n f } := rfl
@[simp] theorem modHtr_cal (n : Nat) (f : Htr → Htr) (s : State) : (modHtr n f s).cal = s.cal := rfl
@[simp] theorem modHtr_fab (n : Nat) (f : Htr → Htr) (s : State) : (modHtr n f s).fab = s.fab := rfl
@[simp] theorem modHtr_tb (n : Nat) (f : Htr → Htr) (s : State) : (modHtr n f s).tb = s.tb := rfl
@[simp] theorem modHtr_servo (n : Nat) (f : Htr → Htr) (s : State) : (modHtr n f s).servo = s.servo := rfl
@[simp] theorem modHtr_trk (n : Nat) (f : Htr → Htr) (s : State) : (modHtr n f s).trk = s.trk := rfl
@[simp] theorem modHtr_slc (n : Nat) (f : Htr → Htr) (s : State) : (modHtr n f s).slc = s.slc := rfl
@[simp] theorem modHtr_weir (n : Nat) (f : Htr → Htr) (s : State) : (modHtr n f s).weir = s.weir := rfl
@[simp] theorem modHtr_cld (n : Nat) (f : Htr → Htr) (s : State) : (modHtr n f s).cld = s.cld := rfl
@[simp] theorem modHtr_pair (n : Nat) (f : Htr → Htr) (s : State) : (modHtr n f s).pair = s.pair := rfl
@[simp] theorem modHtr_wear (n : Nat) (f : Htr → Htr) (s : State) : (modHtr n f s).wear = s.wear := rfl
@[simp] theorem modHtr_temp (n : Nat) (f : Htr → Htr) (s : State) : (modHtr n f s).temp = s.temp := rfl
@[simp] theorem modHtr_plat (n : Nat) (f : Htr → Htr) (s : State) : (modHtr n f s).plat = s.plat := rfl
@[simp] theorem modHtr_pld (n : Nat) (f : Htr → Htr) (s : State) : (modHtr n f s).pld = s.pld := rfl
@[simp] theorem modHtr_sec (n : Nat) (f : Htr → Htr) (s : State) : (modHtr n f s).sec = s.sec := rfl
@[simp] theorem modHtr_out (n : Nat) (f : Htr → Htr) (s : State) : (modHtr n f s).out = s.out := rfl
@[simp] theorem modHtr_draws (n : Nat) (f : Htr → Htr) (s : State) : (modHtr n f s).draws = s.draws := rfl
@[simp] theorem modHtr_pending (n : Nat) (f : Htr → Htr) (s : State) : (modHtr n f s).pending = s.pending := rfl

/-! ### `modPortDac` -/

@[simp] theorem modPortDac_part (n : Nat) (f : PortDac → PortDac) (s : State) : (modPortDac n f s).part = s.part := rfl
@[simp] theorem modPortDac_pwr (n : Nat) (f : PortDac → PortDac) (s : State) : (modPortDac n f s).pwr = s.pwr := rfl
@[simp] theorem modPortDac_sys (n : Nat) (f : PortDac → PortDac) (s : State) : (modPortDac n f s).sys = s.sys := rfl
@[simp] theorem modPortDac_mbx (n : Nat) (f : PortDac → PortDac) (s : State) : (modPortDac n f s).mbx = s.mbx := rfl
@[simp] theorem modPortDac_pcie (n : Nat) (f : PortDac → PortDac) (s : State) : (modPortDac n f s).pcie = s.pcie := rfl
@[simp] theorem modPortDac_tap (n : Nat) (f : PortDac → PortDac) (s : State) : (modPortDac n f s).tap = s.tap := rfl
@[simp] theorem modPortDac_dike (n : Nat) (f : PortDac → PortDac) (s : State) : (modPortDac n f s).dike = s.dike := rfl
@[simp] theorem modPortDac_jets (n : Nat) (f : PortDac → PortDac) (s : State) : (modPortDac n f s).jets = s.jets := rfl
@[simp] theorem modPortDac_wells (n : Nat) (f : PortDac → PortDac) (s : State) : (modPortDac n f s).wells = s.wells := rfl
@[simp] theorem modPortDac_dac (n : Nat) (f : PortDac → PortDac) (s : State) :
    (modPortDac n f s).dac = { s.dac with port := smod {} s.dac.port n f } := rfl
@[simp] theorem modPortDac_cal (n : Nat) (f : PortDac → PortDac) (s : State) : (modPortDac n f s).cal = s.cal := rfl
@[simp] theorem modPortDac_fab (n : Nat) (f : PortDac → PortDac) (s : State) : (modPortDac n f s).fab = s.fab := rfl
@[simp] theorem modPortDac_tb (n : Nat) (f : PortDac → PortDac) (s : State) : (modPortDac n f s).tb = s.tb := rfl
@[simp] theorem modPortDac_servo (n : Nat) (f : PortDac → PortDac) (s : State) : (modPortDac n f s).servo = s.servo := rfl
@[simp] theorem modPortDac_trk (n : Nat) (f : PortDac → PortDac) (s : State) : (modPortDac n f s).trk = s.trk := rfl
@[simp] theorem modPortDac_slc (n : Nat) (f : PortDac → PortDac) (s : State) : (modPortDac n f s).slc = s.slc := rfl
@[simp] theorem modPortDac_weir (n : Nat) (f : PortDac → PortDac) (s : State) : (modPortDac n f s).weir = s.weir := rfl
@[simp] theorem modPortDac_cld (n : Nat) (f : PortDac → PortDac) (s : State) : (modPortDac n f s).cld = s.cld := rfl
@[simp] theorem modPortDac_pair (n : Nat) (f : PortDac → PortDac) (s : State) : (modPortDac n f s).pair = s.pair := rfl
@[simp] theorem modPortDac_wear (n : Nat) (f : PortDac → PortDac) (s : State) : (modPortDac n f s).wear = s.wear := rfl
@[simp] theorem modPortDac_temp (n : Nat) (f : PortDac → PortDac) (s : State) : (modPortDac n f s).temp = s.temp := rfl
@[simp] theorem modPortDac_plat (n : Nat) (f : PortDac → PortDac) (s : State) : (modPortDac n f s).plat = s.plat := rfl
@[simp] theorem modPortDac_pld (n : Nat) (f : PortDac → PortDac) (s : State) : (modPortDac n f s).pld = s.pld := rfl
@[simp] theorem modPortDac_sec (n : Nat) (f : PortDac → PortDac) (s : State) : (modPortDac n f s).sec = s.sec := rfl
@[simp] theorem modPortDac_out (n : Nat) (f : PortDac → PortDac) (s : State) : (modPortDac n f s).out = s.out := rfl
@[simp] theorem modPortDac_draws (n : Nat) (f : PortDac → PortDac) (s : State) : (modPortDac n f s).draws = s.draws := rfl
@[simp] theorem modPortDac_pending (n : Nat) (f : PortDac → PortDac) (s : State) : (modPortDac n f s).pending = s.pending := rfl

/-! ### `modFlip` -/

@[simp] theorem modFlip_part (n : Nat) (f : Flip → Flip) (s : State) : (modFlip n f s).part = s.part := rfl
@[simp] theorem modFlip_pwr (n : Nat) (f : Flip → Flip) (s : State) : (modFlip n f s).pwr = s.pwr := rfl
@[simp] theorem modFlip_sys (n : Nat) (f : Flip → Flip) (s : State) : (modFlip n f s).sys = s.sys := rfl
@[simp] theorem modFlip_mbx (n : Nat) (f : Flip → Flip) (s : State) : (modFlip n f s).mbx = s.mbx := rfl
@[simp] theorem modFlip_pcie (n : Nat) (f : Flip → Flip) (s : State) : (modFlip n f s).pcie = s.pcie := rfl
@[simp] theorem modFlip_tap (n : Nat) (f : Flip → Flip) (s : State) : (modFlip n f s).tap = s.tap := rfl
@[simp] theorem modFlip_dike (n : Nat) (f : Flip → Flip) (s : State) : (modFlip n f s).dike = s.dike := rfl
@[simp] theorem modFlip_jets (n : Nat) (f : Flip → Flip) (s : State) : (modFlip n f s).jets = s.jets := rfl
@[simp] theorem modFlip_wells (n : Nat) (f : Flip → Flip) (s : State) : (modFlip n f s).wells = s.wells := rfl
@[simp] theorem modFlip_dac (n : Nat) (f : Flip → Flip) (s : State) :
    (modFlip n f s).dac = { s.dac with flip := smod {} s.dac.flip n f } := rfl
@[simp] theorem modFlip_cal (n : Nat) (f : Flip → Flip) (s : State) : (modFlip n f s).cal = s.cal := rfl
@[simp] theorem modFlip_fab (n : Nat) (f : Flip → Flip) (s : State) : (modFlip n f s).fab = s.fab := rfl
@[simp] theorem modFlip_tb (n : Nat) (f : Flip → Flip) (s : State) : (modFlip n f s).tb = s.tb := rfl
@[simp] theorem modFlip_servo (n : Nat) (f : Flip → Flip) (s : State) : (modFlip n f s).servo = s.servo := rfl
@[simp] theorem modFlip_trk (n : Nat) (f : Flip → Flip) (s : State) : (modFlip n f s).trk = s.trk := rfl
@[simp] theorem modFlip_slc (n : Nat) (f : Flip → Flip) (s : State) : (modFlip n f s).slc = s.slc := rfl
@[simp] theorem modFlip_weir (n : Nat) (f : Flip → Flip) (s : State) : (modFlip n f s).weir = s.weir := rfl
@[simp] theorem modFlip_cld (n : Nat) (f : Flip → Flip) (s : State) : (modFlip n f s).cld = s.cld := rfl
@[simp] theorem modFlip_pair (n : Nat) (f : Flip → Flip) (s : State) : (modFlip n f s).pair = s.pair := rfl
@[simp] theorem modFlip_wear (n : Nat) (f : Flip → Flip) (s : State) : (modFlip n f s).wear = s.wear := rfl
@[simp] theorem modFlip_temp (n : Nat) (f : Flip → Flip) (s : State) : (modFlip n f s).temp = s.temp := rfl
@[simp] theorem modFlip_plat (n : Nat) (f : Flip → Flip) (s : State) : (modFlip n f s).plat = s.plat := rfl
@[simp] theorem modFlip_pld (n : Nat) (f : Flip → Flip) (s : State) : (modFlip n f s).pld = s.pld := rfl
@[simp] theorem modFlip_sec (n : Nat) (f : Flip → Flip) (s : State) : (modFlip n f s).sec = s.sec := rfl
@[simp] theorem modFlip_out (n : Nat) (f : Flip → Flip) (s : State) : (modFlip n f s).out = s.out := rfl
@[simp] theorem modFlip_draws (n : Nat) (f : Flip → Flip) (s : State) : (modFlip n f s).draws = s.draws := rfl
@[simp] theorem modFlip_pending (n : Nat) (f : Flip → Flip) (s : State) : (modFlip n f s).pending = s.pending := rfl

/-! ### `modWPort` -/

@[simp] theorem modWPort_part (n : Nat) (f : WPort → WPort) (s : State) : (modWPort n f s).part = s.part := rfl
@[simp] theorem modWPort_pwr (n : Nat) (f : WPort → WPort) (s : State) : (modWPort n f s).pwr = s.pwr := rfl
@[simp] theorem modWPort_sys (n : Nat) (f : WPort → WPort) (s : State) : (modWPort n f s).sys = s.sys := rfl
@[simp] theorem modWPort_mbx (n : Nat) (f : WPort → WPort) (s : State) : (modWPort n f s).mbx = s.mbx := rfl
@[simp] theorem modWPort_pcie (n : Nat) (f : WPort → WPort) (s : State) : (modWPort n f s).pcie = s.pcie := rfl
@[simp] theorem modWPort_tap (n : Nat) (f : WPort → WPort) (s : State) : (modWPort n f s).tap = s.tap := rfl
@[simp] theorem modWPort_dike (n : Nat) (f : WPort → WPort) (s : State) : (modWPort n f s).dike = s.dike := rfl
@[simp] theorem modWPort_jets (n : Nat) (f : WPort → WPort) (s : State) : (modWPort n f s).jets = s.jets := rfl
@[simp] theorem modWPort_wells (n : Nat) (f : WPort → WPort) (s : State) : (modWPort n f s).wells = s.wells := rfl
@[simp] theorem modWPort_dac (n : Nat) (f : WPort → WPort) (s : State) : (modWPort n f s).dac = s.dac := rfl
@[simp] theorem modWPort_cal (n : Nat) (f : WPort → WPort) (s : State) : (modWPort n f s).cal = s.cal := rfl
@[simp] theorem modWPort_fab (n : Nat) (f : WPort → WPort) (s : State) : (modWPort n f s).fab = s.fab := rfl
@[simp] theorem modWPort_tb (n : Nat) (f : WPort → WPort) (s : State) : (modWPort n f s).tb = s.tb := rfl
@[simp] theorem modWPort_servo (n : Nat) (f : WPort → WPort) (s : State) : (modWPort n f s).servo = s.servo := rfl
@[simp] theorem modWPort_trk (n : Nat) (f : WPort → WPort) (s : State) : (modWPort n f s).trk = s.trk := rfl
@[simp] theorem modWPort_slc (n : Nat) (f : WPort → WPort) (s : State) : (modWPort n f s).slc = s.slc := rfl
@[simp] theorem modWPort_weir (n : Nat) (f : WPort → WPort) (s : State) :
    (modWPort n f s).weir = { s.weir with port := smod {} s.weir.port n f } := rfl
@[simp] theorem modWPort_cld (n : Nat) (f : WPort → WPort) (s : State) : (modWPort n f s).cld = s.cld := rfl
@[simp] theorem modWPort_pair (n : Nat) (f : WPort → WPort) (s : State) : (modWPort n f s).pair = s.pair := rfl
@[simp] theorem modWPort_wear (n : Nat) (f : WPort → WPort) (s : State) : (modWPort n f s).wear = s.wear := rfl
@[simp] theorem modWPort_temp (n : Nat) (f : WPort → WPort) (s : State) : (modWPort n f s).temp = s.temp := rfl
@[simp] theorem modWPort_plat (n : Nat) (f : WPort → WPort) (s : State) : (modWPort n f s).plat = s.plat := rfl
@[simp] theorem modWPort_pld (n : Nat) (f : WPort → WPort) (s : State) : (modWPort n f s).pld = s.pld := rfl
@[simp] theorem modWPort_sec (n : Nat) (f : WPort → WPort) (s : State) : (modWPort n f s).sec = s.sec := rfl
@[simp] theorem modWPort_out (n : Nat) (f : WPort → WPort) (s : State) : (modWPort n f s).out = s.out := rfl
@[simp] theorem modWPort_draws (n : Nat) (f : WPort → WPort) (s : State) : (modWPort n f s).draws = s.draws := rfl
@[simp] theorem modWPort_pending (n : Nat) (f : WPort → WPort) (s : State) : (modWPort n f s).pending = s.pending := rfl

/-! ### `modWQueue` -/

@[simp] theorem modWQueue_part (k : Nat) (f : WQueue → WQueue) (s : State) : (modWQueue k f s).part = s.part := rfl
@[simp] theorem modWQueue_pwr (k : Nat) (f : WQueue → WQueue) (s : State) : (modWQueue k f s).pwr = s.pwr := rfl
@[simp] theorem modWQueue_sys (k : Nat) (f : WQueue → WQueue) (s : State) : (modWQueue k f s).sys = s.sys := rfl
@[simp] theorem modWQueue_mbx (k : Nat) (f : WQueue → WQueue) (s : State) : (modWQueue k f s).mbx = s.mbx := rfl
@[simp] theorem modWQueue_pcie (k : Nat) (f : WQueue → WQueue) (s : State) : (modWQueue k f s).pcie = s.pcie := rfl
@[simp] theorem modWQueue_tap (k : Nat) (f : WQueue → WQueue) (s : State) : (modWQueue k f s).tap = s.tap := rfl
@[simp] theorem modWQueue_dike (k : Nat) (f : WQueue → WQueue) (s : State) : (modWQueue k f s).dike = s.dike := rfl
@[simp] theorem modWQueue_jets (k : Nat) (f : WQueue → WQueue) (s : State) : (modWQueue k f s).jets = s.jets := rfl
@[simp] theorem modWQueue_wells (k : Nat) (f : WQueue → WQueue) (s : State) : (modWQueue k f s).wells = s.wells := rfl
@[simp] theorem modWQueue_dac (k : Nat) (f : WQueue → WQueue) (s : State) : (modWQueue k f s).dac = s.dac := rfl
@[simp] theorem modWQueue_cal (k : Nat) (f : WQueue → WQueue) (s : State) : (modWQueue k f s).cal = s.cal := rfl
@[simp] theorem modWQueue_fab (k : Nat) (f : WQueue → WQueue) (s : State) : (modWQueue k f s).fab = s.fab := rfl
@[simp] theorem modWQueue_tb (k : Nat) (f : WQueue → WQueue) (s : State) : (modWQueue k f s).tb = s.tb := rfl
@[simp] theorem modWQueue_servo (k : Nat) (f : WQueue → WQueue) (s : State) : (modWQueue k f s).servo = s.servo := rfl
@[simp] theorem modWQueue_trk (k : Nat) (f : WQueue → WQueue) (s : State) : (modWQueue k f s).trk = s.trk := rfl
@[simp] theorem modWQueue_slc (k : Nat) (f : WQueue → WQueue) (s : State) : (modWQueue k f s).slc = s.slc := rfl
@[simp] theorem modWQueue_weir (k : Nat) (f : WQueue → WQueue) (s : State) :
    (modWQueue k f s).weir = { s.weir with queue := smod {} s.weir.queue k f } := rfl
@[simp] theorem modWQueue_cld (k : Nat) (f : WQueue → WQueue) (s : State) : (modWQueue k f s).cld = s.cld := rfl
@[simp] theorem modWQueue_pair (k : Nat) (f : WQueue → WQueue) (s : State) : (modWQueue k f s).pair = s.pair := rfl
@[simp] theorem modWQueue_wear (k : Nat) (f : WQueue → WQueue) (s : State) : (modWQueue k f s).wear = s.wear := rfl
@[simp] theorem modWQueue_temp (k : Nat) (f : WQueue → WQueue) (s : State) : (modWQueue k f s).temp = s.temp := rfl
@[simp] theorem modWQueue_plat (k : Nat) (f : WQueue → WQueue) (s : State) : (modWQueue k f s).plat = s.plat := rfl
@[simp] theorem modWQueue_pld (k : Nat) (f : WQueue → WQueue) (s : State) : (modWQueue k f s).pld = s.pld := rfl
@[simp] theorem modWQueue_sec (k : Nat) (f : WQueue → WQueue) (s : State) : (modWQueue k f s).sec = s.sec := rfl
@[simp] theorem modWQueue_out (k : Nat) (f : WQueue → WQueue) (s : State) : (modWQueue k f s).out = s.out := rfl
@[simp] theorem modWQueue_draws (k : Nat) (f : WQueue → WQueue) (s : State) : (modWQueue k f s).draws = s.draws := rfl
@[simp] theorem modWQueue_pending (k : Nat) (f : WQueue → WQueue) (s : State) : (modWQueue k f s).pending = s.pending := rfl

/-! ### `modLane` -/

@[simp] theorem modLane_part (l : Nat) (f : Lane → Lane) (s : State) : (modLane l f s).part = s.part := rfl
@[simp] theorem modLane_pwr (l : Nat) (f : Lane → Lane) (s : State) : (modLane l f s).pwr = s.pwr := rfl
@[simp] theorem modLane_sys (l : Nat) (f : Lane → Lane) (s : State) : (modLane l f s).sys = s.sys := rfl
@[simp] theorem modLane_mbx (l : Nat) (f : Lane → Lane) (s : State) : (modLane l f s).mbx = s.mbx := rfl
@[simp] theorem modLane_pcie (l : Nat) (f : Lane → Lane) (s : State) : (modLane l f s).pcie = s.pcie := rfl
@[simp] theorem modLane_tap (l : Nat) (f : Lane → Lane) (s : State) : (modLane l f s).tap = s.tap := rfl
@[simp] theorem modLane_dike (l : Nat) (f : Lane → Lane) (s : State) : (modLane l f s).dike = s.dike := rfl
@[simp] theorem modLane_jets (l : Nat) (f : Lane → Lane) (s : State) : (modLane l f s).jets = s.jets := rfl
@[simp] theorem modLane_wells (l : Nat) (f : Lane → Lane) (s : State) : (modLane l f s).wells = s.wells := rfl
@[simp] theorem modLane_dac (l : Nat) (f : Lane → Lane) (s : State) : (modLane l f s).dac = s.dac := rfl
@[simp] theorem modLane_cal (l : Nat) (f : Lane → Lane) (s : State) : (modLane l f s).cal = s.cal := rfl
@[simp] theorem modLane_fab (l : Nat) (f : Lane → Lane) (s : State) : (modLane l f s).fab = s.fab := rfl
@[simp] theorem modLane_tb (l : Nat) (f : Lane → Lane) (s : State) : (modLane l f s).tb = s.tb := rfl
@[simp] theorem modLane_servo (l : Nat) (f : Lane → Lane) (s : State) : (modLane l f s).servo = s.servo := rfl
@[simp] theorem modLane_trk (l : Nat) (f : Lane → Lane) (s : State) : (modLane l f s).trk = s.trk := rfl
@[simp] theorem modLane_slc (l : Nat) (f : Lane → Lane) (s : State) : (modLane l f s).slc = s.slc := rfl
@[simp] theorem modLane_weir (l : Nat) (f : Lane → Lane) (s : State) :
    (modLane l f s).weir = { s.weir with lanes := smod {} s.weir.lanes l f } := rfl
@[simp] theorem modLane_cld (l : Nat) (f : Lane → Lane) (s : State) : (modLane l f s).cld = s.cld := rfl
@[simp] theorem modLane_pair (l : Nat) (f : Lane → Lane) (s : State) : (modLane l f s).pair = s.pair := rfl
@[simp] theorem modLane_wear (l : Nat) (f : Lane → Lane) (s : State) : (modLane l f s).wear = s.wear := rfl
@[simp] theorem modLane_temp (l : Nat) (f : Lane → Lane) (s : State) : (modLane l f s).temp = s.temp := rfl
@[simp] theorem modLane_plat (l : Nat) (f : Lane → Lane) (s : State) : (modLane l f s).plat = s.plat := rfl
@[simp] theorem modLane_pld (l : Nat) (f : Lane → Lane) (s : State) : (modLane l f s).pld = s.pld := rfl
@[simp] theorem modLane_sec (l : Nat) (f : Lane → Lane) (s : State) : (modLane l f s).sec = s.sec := rfl
@[simp] theorem modLane_out (l : Nat) (f : Lane → Lane) (s : State) : (modLane l f s).out = s.out := rfl
@[simp] theorem modLane_draws (l : Nat) (f : Lane → Lane) (s : State) : (modLane l f s).draws = s.draws := rfl
@[simp] theorem modLane_pending (l : Nat) (f : Lane → Lane) (s : State) : (modLane l f s).pending = s.pending := rfl

/-! ### `modGroup` -/

@[simp] theorem modGroup_part (g : Nat) (f : TGroup → TGroup) (s : State) : (modGroup g f s).part = s.part := rfl
@[simp] theorem modGroup_pwr (g : Nat) (f : TGroup → TGroup) (s : State) : (modGroup g f s).pwr = s.pwr := rfl
@[simp] theorem modGroup_sys (g : Nat) (f : TGroup → TGroup) (s : State) : (modGroup g f s).sys = s.sys := rfl
@[simp] theorem modGroup_mbx (g : Nat) (f : TGroup → TGroup) (s : State) : (modGroup g f s).mbx = s.mbx := rfl
@[simp] theorem modGroup_pcie (g : Nat) (f : TGroup → TGroup) (s : State) : (modGroup g f s).pcie = s.pcie := rfl
@[simp] theorem modGroup_tap (g : Nat) (f : TGroup → TGroup) (s : State) : (modGroup g f s).tap = s.tap := rfl
@[simp] theorem modGroup_dike (g : Nat) (f : TGroup → TGroup) (s : State) : (modGroup g f s).dike = s.dike := rfl
@[simp] theorem modGroup_jets (g : Nat) (f : TGroup → TGroup) (s : State) : (modGroup g f s).jets = s.jets := rfl
@[simp] theorem modGroup_wells (g : Nat) (f : TGroup → TGroup) (s : State) : (modGroup g f s).wells = s.wells := rfl
@[simp] theorem modGroup_dac (g : Nat) (f : TGroup → TGroup) (s : State) : (modGroup g f s).dac = s.dac := rfl
@[simp] theorem modGroup_cal (g : Nat) (f : TGroup → TGroup) (s : State) : (modGroup g f s).cal = s.cal := rfl
@[simp] theorem modGroup_fab (g : Nat) (f : TGroup → TGroup) (s : State) : (modGroup g f s).fab = s.fab := rfl
@[simp] theorem modGroup_tb (g : Nat) (f : TGroup → TGroup) (s : State) : (modGroup g f s).tb = s.tb := rfl
@[simp] theorem modGroup_servo (g : Nat) (f : TGroup → TGroup) (s : State) : (modGroup g f s).servo = s.servo := rfl
@[simp] theorem modGroup_trk (g : Nat) (f : TGroup → TGroup) (s : State) : (modGroup g f s).trk = s.trk := rfl
@[simp] theorem modGroup_slc (g : Nat) (f : TGroup → TGroup) (s : State) : (modGroup g f s).slc = s.slc := rfl
@[simp] theorem modGroup_weir (g : Nat) (f : TGroup → TGroup) (s : State) : (modGroup g f s).weir = s.weir := rfl
@[simp] theorem modGroup_cld (g : Nat) (f : TGroup → TGroup) (s : State) : (modGroup g f s).cld = s.cld := rfl
@[simp] theorem modGroup_pair (g : Nat) (f : TGroup → TGroup) (s : State) : (modGroup g f s).pair = s.pair := rfl
@[simp] theorem modGroup_wear (g : Nat) (f : TGroup → TGroup) (s : State) : (modGroup g f s).wear = s.wear := rfl
@[simp] theorem modGroup_temp (g : Nat) (f : TGroup → TGroup) (s : State) :
    (modGroup g f s).temp = { s.temp with groups := smod (groupReset g) s.temp.groups g f } := rfl
@[simp] theorem modGroup_plat (g : Nat) (f : TGroup → TGroup) (s : State) : (modGroup g f s).plat = s.plat := rfl
@[simp] theorem modGroup_pld (g : Nat) (f : TGroup → TGroup) (s : State) : (modGroup g f s).pld = s.pld := rfl
@[simp] theorem modGroup_sec (g : Nat) (f : TGroup → TGroup) (s : State) : (modGroup g f s).sec = s.sec := rfl
@[simp] theorem modGroup_out (g : Nat) (f : TGroup → TGroup) (s : State) : (modGroup g f s).out = s.out := rfl
@[simp] theorem modGroup_draws (g : Nat) (f : TGroup → TGroup) (s : State) : (modGroup g f s).draws = s.draws := rfl
@[simp] theorem modGroup_pending (g : Nat) (f : TGroup → TGroup) (s : State) : (modGroup g f s).pending = s.pending := rfl

/-! ### `modInsert` -/

@[simp] theorem modInsert_part (c : Nat) (f : Insert → Insert) (s : State) : (modInsert c f s).part = s.part := rfl
@[simp] theorem modInsert_pwr (c : Nat) (f : Insert → Insert) (s : State) : (modInsert c f s).pwr = s.pwr := rfl
@[simp] theorem modInsert_sys (c : Nat) (f : Insert → Insert) (s : State) : (modInsert c f s).sys = s.sys := rfl
@[simp] theorem modInsert_mbx (c : Nat) (f : Insert → Insert) (s : State) : (modInsert c f s).mbx = s.mbx := rfl
@[simp] theorem modInsert_pcie (c : Nat) (f : Insert → Insert) (s : State) : (modInsert c f s).pcie = s.pcie := rfl
@[simp] theorem modInsert_tap (c : Nat) (f : Insert → Insert) (s : State) : (modInsert c f s).tap = s.tap := rfl
@[simp] theorem modInsert_dike (c : Nat) (f : Insert → Insert) (s : State) : (modInsert c f s).dike = s.dike := rfl
@[simp] theorem modInsert_jets (c : Nat) (f : Insert → Insert) (s : State) : (modInsert c f s).jets = s.jets := rfl
@[simp] theorem modInsert_wells (c : Nat) (f : Insert → Insert) (s : State) : (modInsert c f s).wells = s.wells := rfl
@[simp] theorem modInsert_dac (c : Nat) (f : Insert → Insert) (s : State) : (modInsert c f s).dac = s.dac := rfl
@[simp] theorem modInsert_cal (c : Nat) (f : Insert → Insert) (s : State) : (modInsert c f s).cal = s.cal := rfl
@[simp] theorem modInsert_fab (c : Nat) (f : Insert → Insert) (s : State) :
    (modInsert c f s).fab = { s.fab with inserts := s.fab.inserts.map fun i => if i.cell = c then f i else i } := rfl
@[simp] theorem modInsert_tb (c : Nat) (f : Insert → Insert) (s : State) : (modInsert c f s).tb = s.tb := rfl
@[simp] theorem modInsert_servo (c : Nat) (f : Insert → Insert) (s : State) : (modInsert c f s).servo = s.servo := rfl
@[simp] theorem modInsert_trk (c : Nat) (f : Insert → Insert) (s : State) : (modInsert c f s).trk = s.trk := rfl
@[simp] theorem modInsert_slc (c : Nat) (f : Insert → Insert) (s : State) : (modInsert c f s).slc = s.slc := rfl
@[simp] theorem modInsert_weir (c : Nat) (f : Insert → Insert) (s : State) : (modInsert c f s).weir = s.weir := rfl
@[simp] theorem modInsert_cld (c : Nat) (f : Insert → Insert) (s : State) : (modInsert c f s).cld = s.cld := rfl
@[simp] theorem modInsert_pair (c : Nat) (f : Insert → Insert) (s : State) : (modInsert c f s).pair = s.pair := rfl
@[simp] theorem modInsert_wear (c : Nat) (f : Insert → Insert) (s : State) : (modInsert c f s).wear = s.wear := rfl
@[simp] theorem modInsert_temp (c : Nat) (f : Insert → Insert) (s : State) : (modInsert c f s).temp = s.temp := rfl
@[simp] theorem modInsert_plat (c : Nat) (f : Insert → Insert) (s : State) : (modInsert c f s).plat = s.plat := rfl
@[simp] theorem modInsert_pld (c : Nat) (f : Insert → Insert) (s : State) : (modInsert c f s).pld = s.pld := rfl
@[simp] theorem modInsert_sec (c : Nat) (f : Insert → Insert) (s : State) : (modInsert c f s).sec = s.sec := rfl
@[simp] theorem modInsert_out (c : Nat) (f : Insert → Insert) (s : State) : (modInsert c f s).out = s.out := rfl
@[simp] theorem modInsert_draws (c : Nat) (f : Insert → Insert) (s : State) : (modInsert c f s).draws = s.draws := rfl
@[simp] theorem modInsert_pending (c : Nat) (f : Insert → Insert) (s : State) : (modInsert c f s).pending = s.pending := rfl

/-! ### `setReconf` -/

@[simp] theorem setReconf_part (q : W32) (f : Reconf → Reconf) (s : State) : (setReconf q f s).part = s.part := rfl
@[simp] theorem setReconf_pwr (q : W32) (f : Reconf → Reconf) (s : State) : (setReconf q f s).pwr = s.pwr := rfl
@[simp] theorem setReconf_sys (q : W32) (f : Reconf → Reconf) (s : State) : (setReconf q f s).sys = s.sys := rfl
@[simp] theorem setReconf_mbx (q : W32) (f : Reconf → Reconf) (s : State) : (setReconf q f s).mbx = s.mbx := rfl
@[simp] theorem setReconf_pcie (q : W32) (f : Reconf → Reconf) (s : State) : (setReconf q f s).pcie = s.pcie := rfl
@[simp] theorem setReconf_tap (q : W32) (f : Reconf → Reconf) (s : State) : (setReconf q f s).tap = s.tap := rfl
@[simp] theorem setReconf_dike (q : W32) (f : Reconf → Reconf) (s : State) : (setReconf q f s).dike = s.dike := rfl
@[simp] theorem setReconf_jets (q : W32) (f : Reconf → Reconf) (s : State) : (setReconf q f s).jets = s.jets := rfl
@[simp] theorem setReconf_wells (q : W32) (f : Reconf → Reconf) (s : State) : (setReconf q f s).wells = s.wells := rfl
@[simp] theorem setReconf_dac (q : W32) (f : Reconf → Reconf) (s : State) : (setReconf q f s).dac = s.dac := rfl
@[simp] theorem setReconf_cal (q : W32) (f : Reconf → Reconf) (s : State) : (setReconf q f s).cal = s.cal := rfl
@[simp] theorem setReconf_fab (q : W32) (f : Reconf → Reconf) (s : State) :
    (setReconf q f s).fab = { s.fab with recon := s.fab.recon.map fun r => if r.seq = q then f r else r } := rfl
@[simp] theorem setReconf_tb (q : W32) (f : Reconf → Reconf) (s : State) : (setReconf q f s).tb = s.tb := rfl
@[simp] theorem setReconf_servo (q : W32) (f : Reconf → Reconf) (s : State) : (setReconf q f s).servo = s.servo := rfl
@[simp] theorem setReconf_trk (q : W32) (f : Reconf → Reconf) (s : State) : (setReconf q f s).trk = s.trk := rfl
@[simp] theorem setReconf_slc (q : W32) (f : Reconf → Reconf) (s : State) : (setReconf q f s).slc = s.slc := rfl
@[simp] theorem setReconf_weir (q : W32) (f : Reconf → Reconf) (s : State) : (setReconf q f s).weir = s.weir := rfl
@[simp] theorem setReconf_cld (q : W32) (f : Reconf → Reconf) (s : State) : (setReconf q f s).cld = s.cld := rfl
@[simp] theorem setReconf_pair (q : W32) (f : Reconf → Reconf) (s : State) : (setReconf q f s).pair = s.pair := rfl
@[simp] theorem setReconf_wear (q : W32) (f : Reconf → Reconf) (s : State) : (setReconf q f s).wear = s.wear := rfl
@[simp] theorem setReconf_temp (q : W32) (f : Reconf → Reconf) (s : State) : (setReconf q f s).temp = s.temp := rfl
@[simp] theorem setReconf_plat (q : W32) (f : Reconf → Reconf) (s : State) : (setReconf q f s).plat = s.plat := rfl
@[simp] theorem setReconf_pld (q : W32) (f : Reconf → Reconf) (s : State) : (setReconf q f s).pld = s.pld := rfl
@[simp] theorem setReconf_sec (q : W32) (f : Reconf → Reconf) (s : State) : (setReconf q f s).sec = s.sec := rfl
@[simp] theorem setReconf_out (q : W32) (f : Reconf → Reconf) (s : State) : (setReconf q f s).out = s.out := rfl
@[simp] theorem setReconf_draws (q : W32) (f : Reconf → Reconf) (s : State) : (setReconf q f s).draws = s.draws := rfl
@[simp] theorem setReconf_pending (q : W32) (f : Reconf → Reconf) (s : State) : (setReconf q f s).pending = s.pending := rfl

/-! ### `unprotected` -/

@[simp] theorem unprotected_part (s : State) : (unprotected s).part = s.part := rfl
@[simp] theorem unprotected_pwr (s : State) : (unprotected s).pwr = s.pwr := rfl
@[simp] theorem unprotected_sys (s : State) : (unprotected s).sys = s.sys := rfl
@[simp] theorem unprotected_mbx (s : State) : (unprotected s).mbx = s.mbx := rfl
@[simp] theorem unprotected_pcie (s : State) : (unprotected s).pcie = s.pcie := rfl
@[simp] theorem unprotected_tap (s : State) : (unprotected s).tap = s.tap := rfl
@[simp] theorem unprotected_dike (s : State) : (unprotected s).dike = s.dike := rfl
@[simp] theorem unprotected_jets (s : State) : (unprotected s).jets = s.jets := rfl
@[simp] theorem unprotected_wells (s : State) : (unprotected s).wells = s.wells := rfl
@[simp] theorem unprotected_dac (s : State) : (unprotected s).dac = s.dac := rfl
@[simp] theorem unprotected_cal (s : State) : (unprotected s).cal = s.cal := rfl
@[simp] theorem unprotected_fab (s : State) :
    (unprotected s).fab = { s.fab with dom := { s.fab.dom with prot := 0 } } := rfl
@[simp] theorem unprotected_tb (s : State) : (unprotected s).tb = s.tb := rfl
@[simp] theorem unprotected_servo (s : State) : (unprotected s).servo = s.servo := rfl
@[simp] theorem unprotected_trk (s : State) : (unprotected s).trk = s.trk := rfl
@[simp] theorem unprotected_slc (s : State) : (unprotected s).slc = s.slc := rfl
@[simp] theorem unprotected_weir (s : State) : (unprotected s).weir = s.weir := rfl
@[simp] theorem unprotected_cld (s : State) : (unprotected s).cld = s.cld := rfl
@[simp] theorem unprotected_pair (s : State) : (unprotected s).pair = s.pair := rfl
@[simp] theorem unprotected_wear (s : State) : (unprotected s).wear = s.wear := rfl
@[simp] theorem unprotected_temp (s : State) : (unprotected s).temp = s.temp := rfl
@[simp] theorem unprotected_plat (s : State) : (unprotected s).plat = s.plat := rfl
@[simp] theorem unprotected_pld (s : State) : (unprotected s).pld = s.pld := rfl
@[simp] theorem unprotected_sec (s : State) : (unprotected s).sec = s.sec := rfl
@[simp] theorem unprotected_out (s : State) : (unprotected s).out = s.out := rfl
@[simp] theorem unprotected_draws (s : State) : (unprotected s).draws = s.draws := rfl
@[simp] theorem unprotected_pending (s : State) : (unprotected s).pending = s.pending := rfl

/-! ### `modMgmt` -/

@[simp] theorem modMgmt_part (port : Nat) (f : Mgmt → Mgmt) (s : State) : (modMgmt port f s).part = s.part := rfl
@[simp] theorem modMgmt_pwr (port : Nat) (f : Mgmt → Mgmt) (s : State) : (modMgmt port f s).pwr = s.pwr := rfl
@[simp] theorem modMgmt_sys (port : Nat) (f : Mgmt → Mgmt) (s : State) : (modMgmt port f s).sys = s.sys := rfl
@[simp] theorem modMgmt_mbx (port : Nat) (f : Mgmt → Mgmt) (s : State) : (modMgmt port f s).mbx = s.mbx := rfl
@[simp] theorem modMgmt_pcie (port : Nat) (f : Mgmt → Mgmt) (s : State) : (modMgmt port f s).pcie = s.pcie := rfl
@[simp] theorem modMgmt_tap (port : Nat) (f : Mgmt → Mgmt) (s : State) : (modMgmt port f s).tap = s.tap := rfl
@[simp] theorem modMgmt_dike (port : Nat) (f : Mgmt → Mgmt) (s : State) : (modMgmt port f s).dike = s.dike := rfl
@[simp] theorem modMgmt_jets (port : Nat) (f : Mgmt → Mgmt) (s : State) : (modMgmt port f s).jets = s.jets := rfl
@[simp] theorem modMgmt_wells (port : Nat) (f : Mgmt → Mgmt) (s : State) : (modMgmt port f s).wells = s.wells := rfl
@[simp] theorem modMgmt_dac (port : Nat) (f : Mgmt → Mgmt) (s : State) : (modMgmt port f s).dac = s.dac := rfl
@[simp] theorem modMgmt_cal (port : Nat) (f : Mgmt → Mgmt) (s : State) : (modMgmt port f s).cal = s.cal := rfl
@[simp] theorem modMgmt_fab (port : Nat) (f : Mgmt → Mgmt) (s : State) : (modMgmt port f s).fab = s.fab := rfl
@[simp] theorem modMgmt_tb (port : Nat) (f : Mgmt → Mgmt) (s : State) :
    (modMgmt port f s).tb = if port = 0 then { s.tb with p0 := f s.tb.p0 } else if port = 1 then { s.tb with p1 := f s.tb.p1 } else s.tb := rfl
@[simp] theorem modMgmt_servo (port : Nat) (f : Mgmt → Mgmt) (s : State) : (modMgmt port f s).servo = s.servo := rfl
@[simp] theorem modMgmt_trk (port : Nat) (f : Mgmt → Mgmt) (s : State) : (modMgmt port f s).trk = s.trk := rfl
@[simp] theorem modMgmt_slc (port : Nat) (f : Mgmt → Mgmt) (s : State) : (modMgmt port f s).slc = s.slc := rfl
@[simp] theorem modMgmt_weir (port : Nat) (f : Mgmt → Mgmt) (s : State) : (modMgmt port f s).weir = s.weir := rfl
@[simp] theorem modMgmt_cld (port : Nat) (f : Mgmt → Mgmt) (s : State) : (modMgmt port f s).cld = s.cld := rfl
@[simp] theorem modMgmt_pair (port : Nat) (f : Mgmt → Mgmt) (s : State) : (modMgmt port f s).pair = s.pair := rfl
@[simp] theorem modMgmt_wear (port : Nat) (f : Mgmt → Mgmt) (s : State) : (modMgmt port f s).wear = s.wear := rfl
@[simp] theorem modMgmt_temp (port : Nat) (f : Mgmt → Mgmt) (s : State) : (modMgmt port f s).temp = s.temp := rfl
@[simp] theorem modMgmt_plat (port : Nat) (f : Mgmt → Mgmt) (s : State) : (modMgmt port f s).plat = s.plat := rfl
@[simp] theorem modMgmt_pld (port : Nat) (f : Mgmt → Mgmt) (s : State) : (modMgmt port f s).pld = s.pld := rfl
@[simp] theorem modMgmt_sec (port : Nat) (f : Mgmt → Mgmt) (s : State) : (modMgmt port f s).sec = s.sec := rfl
@[simp] theorem modMgmt_out (port : Nat) (f : Mgmt → Mgmt) (s : State) : (modMgmt port f s).out = s.out := rfl
@[simp] theorem modMgmt_draws (port : Nat) (f : Mgmt → Mgmt) (s : State) : (modMgmt port f s).draws = s.draws := rfl
@[simp] theorem modMgmt_pending (port : Nat) (f : Mgmt → Mgmt) (s : State) : (modMgmt port f s).pending = s.pending := rfl

/-! ### `modCldLane` -/

@[simp] theorem modCldLane_part (i : Nat) (f : Lane → Lane) (s : State) : (modCldLane i f s).part = s.part := rfl
@[simp] theorem modCldLane_pwr (i : Nat) (f : Lane → Lane) (s : State) : (modCldLane i f s).pwr = s.pwr := rfl
@[simp] theorem modCldLane_sys (i : Nat) (f : Lane → Lane) (s : State) : (modCldLane i f s).sys = s.sys := rfl
@[simp] theorem modCldLane_mbx (i : Nat) (f : Lane → Lane) (s : State) : (modCldLane i f s).mbx = s.mbx := rfl
@[simp] theorem modCldLane_pcie (i : Nat) (f : Lane → Lane) (s : State) : (modCldLane i f s).pcie = s.pcie := rfl
@[simp] theorem modCldLane_tap (i : Nat) (f : Lane → Lane) (s : State) : (modCldLane i f s).tap = s.tap := rfl
@[simp] theorem modCldLane_dike (i : Nat) (f : Lane → Lane) (s : State) : (modCldLane i f s).dike = s.dike := rfl
@[simp] theorem modCldLane_jets (i : Nat) (f : Lane → Lane) (s : State) : (modCldLane i f s).jets = s.jets := rfl
@[simp] theorem modCldLane_wells (i : Nat) (f : Lane → Lane) (s : State) : (modCldLane i f s).wells = s.wells := rfl
@[simp] theorem modCldLane_dac (i : Nat) (f : Lane → Lane) (s : State) : (modCldLane i f s).dac = s.dac := rfl
@[simp] theorem modCldLane_cal (i : Nat) (f : Lane → Lane) (s : State) : (modCldLane i f s).cal = s.cal := rfl
@[simp] theorem modCldLane_fab (i : Nat) (f : Lane → Lane) (s : State) : (modCldLane i f s).fab = s.fab := rfl
@[simp] theorem modCldLane_tb (i : Nat) (f : Lane → Lane) (s : State) : (modCldLane i f s).tb = s.tb := rfl
@[simp] theorem modCldLane_servo (i : Nat) (f : Lane → Lane) (s : State) : (modCldLane i f s).servo = s.servo := rfl
@[simp] theorem modCldLane_trk (i : Nat) (f : Lane → Lane) (s : State) : (modCldLane i f s).trk = s.trk := rfl
@[simp] theorem modCldLane_slc (i : Nat) (f : Lane → Lane) (s : State) : (modCldLane i f s).slc = s.slc := rfl
@[simp] theorem modCldLane_weir (i : Nat) (f : Lane → Lane) (s : State) : (modCldLane i f s).weir = s.weir := rfl
@[simp] theorem modCldLane_cld (i : Nat) (f : Lane → Lane) (s : State) :
    (modCldLane i f s).cld = if i = 0 then { s.cld with lane0 := f s.cld.lane0 } else { s.cld with lane1 := f s.cld.lane1 } := rfl
@[simp] theorem modCldLane_pair (i : Nat) (f : Lane → Lane) (s : State) : (modCldLane i f s).pair = s.pair := rfl
@[simp] theorem modCldLane_wear (i : Nat) (f : Lane → Lane) (s : State) : (modCldLane i f s).wear = s.wear := rfl
@[simp] theorem modCldLane_temp (i : Nat) (f : Lane → Lane) (s : State) : (modCldLane i f s).temp = s.temp := rfl
@[simp] theorem modCldLane_plat (i : Nat) (f : Lane → Lane) (s : State) : (modCldLane i f s).plat = s.plat := rfl
@[simp] theorem modCldLane_pld (i : Nat) (f : Lane → Lane) (s : State) : (modCldLane i f s).pld = s.pld := rfl
@[simp] theorem modCldLane_sec (i : Nat) (f : Lane → Lane) (s : State) : (modCldLane i f s).sec = s.sec := rfl
@[simp] theorem modCldLane_out (i : Nat) (f : Lane → Lane) (s : State) : (modCldLane i f s).out = s.out := rfl
@[simp] theorem modCldLane_draws (i : Nat) (f : Lane → Lane) (s : State) : (modCldLane i f s).draws = s.draws := rfl
@[simp] theorem modCldLane_pending (i : Nat) (f : Lane → Lane) (s : State) : (modCldLane i f s).pending = s.pending := rfl

/-! ### Reading an element after one was changed -/

/-- Reading one after changing one by `modLoop`. -/
theorem loopOf_modLoop (s : State) (l k : Nat) (f : Loop → Loop) : loopOf (modLoop l f s) k = if k = l then f (loopOf s l) else loopOf s k := by
  simp only [loopOf, modLoop_jets, sget_smod]

/-- Reading one after changing one by `modJet`. -/
theorem jetOf_modJet (s : State) (l k : Nat) (f : Jet → Jet) : jetOf (modJet l f s) k = if k = l then f (jetOf s l) else jetOf s k := by
  simp only [jetOf, modJet_jets, sget_smod]

/-- Reading one after changing one by `modWell`. -/
theorem wellOf_modWell (s : State) (l k : Nat) (f : Well → Well) : wellOf (modWell l f s) k = if k = l then f (wellOf s l) else wellOf s k := by
  simp only [wellOf, modWell_wells, sget_smod]

/-- Reading one after changing one by `modDom`. -/
theorem slcDom_modDom (s : State) (l k : Nat) (f : SlcDom → SlcDom) : slcDom (modDom l f s) k = if k = l then f (slcDom s l) else slcDom s k := by
  simp only [slcDom, modDom_slc, sget_smod]

/-- Reading one after changing one by `modTrain`. -/
theorem trainOf_modTrain (s : State) (l k : Nat) (f : Train → Train) : trainOf (modTrain l f s) k = if k = l then f (trainOf s l) else trainOf s k := by
  simp only [trainOf, modTrain_trk, sget_smod]

/-- Reading one after changing one by `modHtr`. -/
theorem htrOf_modHtr (s : State) (l k : Nat) (f : Htr → Htr) : htrOf (modHtr l f s) k = if k = l then f (htrOf s l) else htrOf s k := by
  simp only [htrOf, modHtr_dac, sget_smod]

/-- Reading one after changing one by `modPortDac`. -/
theorem portDacOf_modPortDac (s : State) (l k : Nat) (f : PortDac → PortDac) : portDacOf (modPortDac l f s) k = if k = l then f (portDacOf s l) else portDacOf s k := by
  simp only [portDacOf, modPortDac_dac, sget_smod]

/-- Reading one after changing one by `modFlip`. -/
theorem flipOf_modFlip (s : State) (l k : Nat) (f : Flip → Flip) : flipOf (modFlip l f s) k = if k = l then f (flipOf s l) else flipOf s k := by
  simp only [flipOf, modFlip_dac, sget_smod]

/-- Reading one after changing one by `modWPort`. -/
theorem wportOf_modWPort (s : State) (l k : Nat) (f : WPort → WPort) : wportOf (modWPort l f s) k = if k = l then f (wportOf s l) else wportOf s k := by
  simp only [wportOf, modWPort_weir, sget_smod]

/-- Reading one after changing one by `modWQueue`. -/
theorem wqueueOf_modWQueue (s : State) (l k : Nat) (f : WQueue → WQueue) : wqueueOf (modWQueue l f s) k = if k = l then f (wqueueOf s l) else wqueueOf s k := by
  simp only [wqueueOf, modWQueue_weir, sget_smod]

/-- Another place reads as before, whatever stands for an absent value. -/
theorem sget_sset_other {α : Type} [DecidableEq α] (x y : α) (a : Sparse α) (v : α) {n k : Nat} (h : ¬k = n) :
    sget x (sset y a n v) k = sget x a k := by
  have hf : ∀ e ∈ a.filter (fun e => !decide (e.1 = n)), e.1 ≠ n := by simp
  have hg := sget_filter x a (fun j => !decide (j = n)) k
  simp only [sset]
  split
  · simp_all
  · rw [sget_sput x _ n v hf, hg]; simp [h]

/-- Reading a source after one was set. -/
theorem src_setSrc (d : Dike) (n k : Nat) (v : Src) : src (setSrc d n v) k = if k = n then v else src d k := by
  simp only [src, setSrc]
  by_cases h : k = n
  · subst h; simp [sget_sset]
  · have : ∀ x y : Src, sget x (sset y d.src n v) k = sget x d.src k := fun x y => sget_sset_other x y d.src v h
    simp [h, this]

/-! ### What slots, responses and notifications touch -/

/-- All but the window's registers, the MSI-X pending bits and what leaves the device is as before. -/
structure OnlyMbx (s t : State) : Prop where
  part : t.part = s.part
  pwr : t.pwr = s.pwr
  sys : t.sys = s.sys
  tap : t.tap = s.tap
  dike : t.dike = s.dike
  jets : t.jets = s.jets
  wells : t.wells = s.wells
  dac : t.dac = s.dac
  cal : t.cal = s.cal
  fab : t.fab = s.fab
  tb : t.tb = s.tb
  servo : t.servo = s.servo
  trk : t.trk = s.trk
  slc : t.slc = s.slc
  weir : t.weir = s.weir
  cld : t.cld = s.cld
  pair : t.pair = s.pair
  wear : t.wear = s.wear
  temp : t.temp = s.temp
  plat : t.plat = s.plat
  pld : t.pld = s.pld
  sec : t.sec = s.sec
  draws : t.draws = s.draws
  pending : t.pending = s.pending

theorem OnlyMbx.refl (s : State) : OnlyMbx s s := by constructor <;> rfl

theorem OnlyMbx.trans {s t u : State} (h : OnlyMbx s t) (g : OnlyMbx t u) : OnlyMbx s u := by
  cases h; cases g; constructor <;> simp_all

theorem OnlyMbx.ite {c : Prop} [Decidable c] {s a b : State} (h : OnlyMbx s a) (g : OnlyMbx s b) : OnlyMbx s (if c then a else b) := by
  split <;> assumption

theorem withMbx_only (f : Mbx → Mbx) (s : State) : OnlyMbx s (withMbx f s) := by constructor <;> rfl
theorem emit_only (o : Out) (s : State) : OnlyMbx s (emit o s) := by constructor <;> rfl
theorem signal_only (v : Nat) (s : State) : OnlyMbx s (signal v s) :=
  .ite (.refl s) (.ite (by constructor <;> rfl) (emit_only _ s))

/-- An interrupt message is no change of the window. -/
@[simp] theorem signal_mbx (v : Nat) (s : State) : (signal v s).mbx = s.mbx := by
  unfold signal; split
  · rfl
  · split <;> rfl

theorem ringPost_only (typ : Nat) (t : Time) (a : About) (body : List Byte) (s : State) : OnlyMbx s (ringPost typ t a body s) :=
  .ite ((withMbx_only _ s).trans ((signal_only 8 _).trans (withMbx_only _ _))) (withMbx_only _ s)

theorem flushLost_only (s : State) : OnlyMbx s (flushLost s) := by
  unfold flushLost
  split
  · exact .ite ((ringPost_only _ _ _ _ s).trans (withMbx_only _ _)) (.refl s)
  · exact .refl s

theorem notifyAt_only (t : Time) (typ : Nat) (a : About) (d : Bool) (body : List Byte) (s : State) :
    OnlyMbx s (notifyAt t typ a d body s) :=
  .ite ((flushLost_only s).trans (.ite (ringPost_only _ _ _ _ _) (withMbx_only _ _))) (.refl s)

theorem notify_only (typ : Nat) (body : List Byte) (s : State) : OnlyMbx s (notify typ body s) := notifyAt_only _ _ _ _ _ s

theorem dropCmd_only (c : SlotCmd) (s : State) : OnlyMbx s (dropCmd c s) := withMbx_only _ s

theorem respond_only (n op q st : Nat) (p : List Byte) (s : State) : OnlyMbx s (respond n op q st p s) :=
  .ite ((withMbx_only _ s).trans (signal_only _ _)) (withMbx_only _ s)

theorem finish_only (c : SlotCmd) (st : Nat) (p : List Byte) (s : State) : OnlyMbx s (finish c st p s) :=
  .ite (dropCmd_only c s) (.ite ((dropCmd_only c s).trans (notifyAt_only _ _ _ _ _ _))
    (.ite (((respond_only _ _ _ _ _ s).trans (dropCmd_only c _)).trans (notifyAt_only _ _ _ _ _ _))
      ((respond_only _ _ _ _ _ s).trans (dropCmd_only c _))))

theorem failCmd_only (c : SlotCmd) (code : Nat) (s : State) : OnlyMbx s (failCmd c code s) := finish_only _ _ _ s

theorem deferCmd_only (c : SlotCmd) (s : State) : OnlyMbx s (deferCmd c s) := by
  unfold deferCmd
  exact (respond_only c.slot c.opcode c.seq.toNat 1 [] s).trans (withMbx_only _ _)

theorem hold_only (c : SlotCmd) (s : State) : OnlyMbx s (hold c s) := withMbx_only _ s

theorem finishSlot_only (n st : Nat) (p : List Byte) (s : State) : OnlyMbx s (finishSlot n st p s) := by
  unfold finishSlot
  split
  · exact finish_only _ _ _ s
  · exact .refl s

theorem failSlot_only (n code : Nat) (s : State) : OnlyMbx s (failSlot n code s) := by
  unfold failSlot
  split
  · exact failCmd_only _ _ s
  · exact .refl s

/-! ### The fields that host commands' meanings read after an answer -/

@[simp] theorem finish_part (c : SlotCmd) (st : Nat) (p : List Byte) (s : State) : (finish c st p s).part = s.part :=
  (finish_only c st p s).part
@[simp] theorem finish_pwr (c : SlotCmd) (st : Nat) (p : List Byte) (s : State) : (finish c st p s).pwr = s.pwr :=
  (finish_only c st p s).pwr
@[simp] theorem finish_sys (c : SlotCmd) (st : Nat) (p : List Byte) (s : State) : (finish c st p s).sys = s.sys :=
  (finish_only c st p s).sys
@[simp] theorem finish_tap (c : SlotCmd) (st : Nat) (p : List Byte) (s : State) : (finish c st p s).tap = s.tap :=
  (finish_only c st p s).tap
@[simp] theorem finish_dike (c : SlotCmd) (st : Nat) (p : List Byte) (s : State) : (finish c st p s).dike = s.dike :=
  (finish_only c st p s).dike
@[simp] theorem finish_jets (c : SlotCmd) (st : Nat) (p : List Byte) (s : State) : (finish c st p s).jets = s.jets :=
  (finish_only c st p s).jets
@[simp] theorem finish_wells (c : SlotCmd) (st : Nat) (p : List Byte) (s : State) : (finish c st p s).wells = s.wells :=
  (finish_only c st p s).wells
@[simp] theorem finish_dac (c : SlotCmd) (st : Nat) (p : List Byte) (s : State) : (finish c st p s).dac = s.dac :=
  (finish_only c st p s).dac
@[simp] theorem finish_cal (c : SlotCmd) (st : Nat) (p : List Byte) (s : State) : (finish c st p s).cal = s.cal :=
  (finish_only c st p s).cal
@[simp] theorem finish_fab (c : SlotCmd) (st : Nat) (p : List Byte) (s : State) : (finish c st p s).fab = s.fab :=
  (finish_only c st p s).fab
@[simp] theorem finish_tb (c : SlotCmd) (st : Nat) (p : List Byte) (s : State) : (finish c st p s).tb = s.tb :=
  (finish_only c st p s).tb
@[simp] theorem finish_servo (c : SlotCmd) (st : Nat) (p : List Byte) (s : State) : (finish c st p s).servo = s.servo :=
  (finish_only c st p s).servo
@[simp] theorem finish_trk (c : SlotCmd) (st : Nat) (p : List Byte) (s : State) : (finish c st p s).trk = s.trk :=
  (finish_only c st p s).trk
@[simp] theorem finish_slc (c : SlotCmd) (st : Nat) (p : List Byte) (s : State) : (finish c st p s).slc = s.slc :=
  (finish_only c st p s).slc
@[simp] theorem finish_weir (c : SlotCmd) (st : Nat) (p : List Byte) (s : State) : (finish c st p s).weir = s.weir :=
  (finish_only c st p s).weir
@[simp] theorem finish_cld (c : SlotCmd) (st : Nat) (p : List Byte) (s : State) : (finish c st p s).cld = s.cld :=
  (finish_only c st p s).cld
@[simp] theorem finish_pair (c : SlotCmd) (st : Nat) (p : List Byte) (s : State) : (finish c st p s).pair = s.pair :=
  (finish_only c st p s).pair
@[simp] theorem finish_wear (c : SlotCmd) (st : Nat) (p : List Byte) (s : State) : (finish c st p s).wear = s.wear :=
  (finish_only c st p s).wear
@[simp] theorem finish_temp (c : SlotCmd) (st : Nat) (p : List Byte) (s : State) : (finish c st p s).temp = s.temp :=
  (finish_only c st p s).temp
@[simp] theorem finish_plat (c : SlotCmd) (st : Nat) (p : List Byte) (s : State) : (finish c st p s).plat = s.plat :=
  (finish_only c st p s).plat
@[simp] theorem finish_pld (c : SlotCmd) (st : Nat) (p : List Byte) (s : State) : (finish c st p s).pld = s.pld :=
  (finish_only c st p s).pld
@[simp] theorem finish_sec (c : SlotCmd) (st : Nat) (p : List Byte) (s : State) : (finish c st p s).sec = s.sec :=
  (finish_only c st p s).sec
@[simp] theorem finish_draws (c : SlotCmd) (st : Nat) (p : List Byte) (s : State) : (finish c st p s).draws = s.draws :=
  (finish_only c st p s).draws
@[simp] theorem finish_pending (c : SlotCmd) (st : Nat) (p : List Byte) (s : State) : (finish c st p s).pending = s.pending :=
  (finish_only c st p s).pending

@[simp] theorem deferCmd_part (c : SlotCmd) (s : State) : (deferCmd c s).part = s.part :=
  (deferCmd_only c s).part
@[simp] theorem deferCmd_pwr (c : SlotCmd) (s : State) : (deferCmd c s).pwr = s.pwr :=
  (deferCmd_only c s).pwr
@[simp] theorem deferCmd_sys (c : SlotCmd) (s : State) : (deferCmd c s).sys = s.sys :=
  (deferCmd_only c s).sys
@[simp] theorem deferCmd_tap (c : SlotCmd) (s : State) : (deferCmd c s).tap = s.tap :=
  (deferCmd_only c s).tap
@[simp] theorem deferCmd_dike (c : SlotCmd) (s : State) : (deferCmd c s).dike = s.dike :=
  (deferCmd_only c s).dike
@[simp] theorem deferCmd_jets (c : SlotCmd) (s : State) : (deferCmd c s).jets = s.jets :=
  (deferCmd_only c s).jets
@[simp] theorem deferCmd_wells (c : SlotCmd) (s : State) : (deferCmd c s).wells = s.wells :=
  (deferCmd_only c s).wells
@[simp] theorem deferCmd_dac (c : SlotCmd) (s : State) : (deferCmd c s).dac = s.dac :=
  (deferCmd_only c s).dac
@[simp] theorem deferCmd_cal (c : SlotCmd) (s : State) : (deferCmd c s).cal = s.cal :=
  (deferCmd_only c s).cal
@[simp] theorem deferCmd_fab (c : SlotCmd) (s : State) : (deferCmd c s).fab = s.fab :=
  (deferCmd_only c s).fab
@[simp] theorem deferCmd_tb (c : SlotCmd) (s : State) : (deferCmd c s).tb = s.tb :=
  (deferCmd_only c s).tb
@[simp] theorem deferCmd_servo (c : SlotCmd) (s : State) : (deferCmd c s).servo = s.servo :=
  (deferCmd_only c s).servo
@[simp] theorem deferCmd_trk (c : SlotCmd) (s : State) : (deferCmd c s).trk = s.trk :=
  (deferCmd_only c s).trk
@[simp] theorem deferCmd_slc (c : SlotCmd) (s : State) : (deferCmd c s).slc = s.slc :=
  (deferCmd_only c s).slc
@[simp] theorem deferCmd_weir (c : SlotCmd) (s : State) : (deferCmd c s).weir = s.weir :=
  (deferCmd_only c s).weir
@[simp] theorem deferCmd_cld (c : SlotCmd) (s : State) : (deferCmd c s).cld = s.cld :=
  (deferCmd_only c s).cld
@[simp] theorem deferCmd_pair (c : SlotCmd) (s : State) : (deferCmd c s).pair = s.pair :=
  (deferCmd_only c s).pair
@[simp] theorem deferCmd_wear (c : SlotCmd) (s : State) : (deferCmd c s).wear = s.wear :=
  (deferCmd_only c s).wear
@[simp] theorem deferCmd_temp (c : SlotCmd) (s : State) : (deferCmd c s).temp = s.temp :=
  (deferCmd_only c s).temp
@[simp] theorem deferCmd_plat (c : SlotCmd) (s : State) : (deferCmd c s).plat = s.plat :=
  (deferCmd_only c s).plat
@[simp] theorem deferCmd_pld (c : SlotCmd) (s : State) : (deferCmd c s).pld = s.pld :=
  (deferCmd_only c s).pld
@[simp] theorem deferCmd_sec (c : SlotCmd) (s : State) : (deferCmd c s).sec = s.sec :=
  (deferCmd_only c s).sec
@[simp] theorem deferCmd_draws (c : SlotCmd) (s : State) : (deferCmd c s).draws = s.draws :=
  (deferCmd_only c s).draws
@[simp] theorem deferCmd_pending (c : SlotCmd) (s : State) : (deferCmd c s).pending = s.pending :=
  (deferCmd_only c s).pending

@[simp] theorem hold_part (c : SlotCmd) (s : State) : (hold c s).part = s.part :=
  (hold_only c s).part
@[simp] theorem hold_pwr (c : SlotCmd) (s : State) : (hold c s).pwr = s.pwr :=
  (hold_only c s).pwr
@[simp] theorem hold_sys (c : SlotCmd) (s : State) : (hold c s).sys = s.sys :=
  (hold_only c s).sys
@[simp] theorem hold_tap (c : SlotCmd) (s : State) : (hold c s).tap = s.tap :=
  (hold_only c s).tap
@[simp] theorem hold_dike (c : SlotCmd) (s : State) : (hold c s).dike = s.dike :=
  (hold_only c s).dike
@[simp] theorem hold_jets (c : SlotCmd) (s : State) : (hold c s).jets = s.jets :=
  (hold_only c s).jets
@[simp] theorem hold_wells (c : SlotCmd) (s : State) : (hold c s).wells = s.wells :=
  (hold_only c s).wells
@[simp] theorem hold_dac (c : SlotCmd) (s : State) : (hold c s).dac = s.dac :=
  (hold_only c s).dac
@[simp] theorem hold_cal (c : SlotCmd) (s : State) : (hold c s).cal = s.cal :=
  (hold_only c s).cal
@[simp] theorem hold_fab (c : SlotCmd) (s : State) : (hold c s).fab = s.fab :=
  (hold_only c s).fab
@[simp] theorem hold_tb (c : SlotCmd) (s : State) : (hold c s).tb = s.tb :=
  (hold_only c s).tb
@[simp] theorem hold_servo (c : SlotCmd) (s : State) : (hold c s).servo = s.servo :=
  (hold_only c s).servo
@[simp] theorem hold_trk (c : SlotCmd) (s : State) : (hold c s).trk = s.trk :=
  (hold_only c s).trk
@[simp] theorem hold_slc (c : SlotCmd) (s : State) : (hold c s).slc = s.slc :=
  (hold_only c s).slc
@[simp] theorem hold_weir (c : SlotCmd) (s : State) : (hold c s).weir = s.weir :=
  (hold_only c s).weir
@[simp] theorem hold_cld (c : SlotCmd) (s : State) : (hold c s).cld = s.cld :=
  (hold_only c s).cld
@[simp] theorem hold_pair (c : SlotCmd) (s : State) : (hold c s).pair = s.pair :=
  (hold_only c s).pair
@[simp] theorem hold_wear (c : SlotCmd) (s : State) : (hold c s).wear = s.wear :=
  (hold_only c s).wear
@[simp] theorem hold_temp (c : SlotCmd) (s : State) : (hold c s).temp = s.temp :=
  (hold_only c s).temp
@[simp] theorem hold_plat (c : SlotCmd) (s : State) : (hold c s).plat = s.plat :=
  (hold_only c s).plat
@[simp] theorem hold_pld (c : SlotCmd) (s : State) : (hold c s).pld = s.pld :=
  (hold_only c s).pld
@[simp] theorem hold_sec (c : SlotCmd) (s : State) : (hold c s).sec = s.sec :=
  (hold_only c s).sec
@[simp] theorem hold_draws (c : SlotCmd) (s : State) : (hold c s).draws = s.draws :=
  (hold_only c s).draws
@[simp] theorem hold_pending (c : SlotCmd) (s : State) : (hold c s).pending = s.pending :=
  (hold_only c s).pending

@[simp] theorem notify_part (typ : Nat) (body : List Byte) (s : State) : (notify typ body s).part = s.part :=
  (notify_only typ body s).part
@[simp] theorem notify_pwr (typ : Nat) (body : List Byte) (s : State) : (notify typ body s).pwr = s.pwr :=
  (notify_only typ body s).pwr
@[simp] theorem notify_sys (typ : Nat) (body : List Byte) (s : State) : (notify typ body s).sys = s.sys :=
  (notify_only typ body s).sys
@[simp] theorem notify_tap (typ : Nat) (body : List Byte) (s : State) : (notify typ body s).tap = s.tap :=
  (notify_only typ body s).tap
@[simp] theorem notify_dike (typ : Nat) (body : List Byte) (s : State) : (notify typ body s).dike = s.dike :=
  (notify_only typ body s).dike
@[simp] theorem notify_jets (typ : Nat) (body : List Byte) (s : State) : (notify typ body s).jets = s.jets :=
  (notify_only typ body s).jets
@[simp] theorem notify_wells (typ : Nat) (body : List Byte) (s : State) : (notify typ body s).wells = s.wells :=
  (notify_only typ body s).wells
@[simp] theorem notify_dac (typ : Nat) (body : List Byte) (s : State) : (notify typ body s).dac = s.dac :=
  (notify_only typ body s).dac
@[simp] theorem notify_cal (typ : Nat) (body : List Byte) (s : State) : (notify typ body s).cal = s.cal :=
  (notify_only typ body s).cal
@[simp] theorem notify_fab (typ : Nat) (body : List Byte) (s : State) : (notify typ body s).fab = s.fab :=
  (notify_only typ body s).fab
@[simp] theorem notify_tb (typ : Nat) (body : List Byte) (s : State) : (notify typ body s).tb = s.tb :=
  (notify_only typ body s).tb
@[simp] theorem notify_servo (typ : Nat) (body : List Byte) (s : State) : (notify typ body s).servo = s.servo :=
  (notify_only typ body s).servo
@[simp] theorem notify_trk (typ : Nat) (body : List Byte) (s : State) : (notify typ body s).trk = s.trk :=
  (notify_only typ body s).trk
@[simp] theorem notify_slc (typ : Nat) (body : List Byte) (s : State) : (notify typ body s).slc = s.slc :=
  (notify_only typ body s).slc
@[simp] theorem notify_weir (typ : Nat) (body : List Byte) (s : State) : (notify typ body s).weir = s.weir :=
  (notify_only typ body s).weir
@[simp] theorem notify_cld (typ : Nat) (body : List Byte) (s : State) : (notify typ body s).cld = s.cld :=
  (notify_only typ body s).cld
@[simp] theorem notify_pair (typ : Nat) (body : List Byte) (s : State) : (notify typ body s).pair = s.pair :=
  (notify_only typ body s).pair
@[simp] theorem notify_wear (typ : Nat) (body : List Byte) (s : State) : (notify typ body s).wear = s.wear :=
  (notify_only typ body s).wear
@[simp] theorem notify_temp (typ : Nat) (body : List Byte) (s : State) : (notify typ body s).temp = s.temp :=
  (notify_only typ body s).temp
@[simp] theorem notify_plat (typ : Nat) (body : List Byte) (s : State) : (notify typ body s).plat = s.plat :=
  (notify_only typ body s).plat
@[simp] theorem notify_pld (typ : Nat) (body : List Byte) (s : State) : (notify typ body s).pld = s.pld :=
  (notify_only typ body s).pld
@[simp] theorem notify_sec (typ : Nat) (body : List Byte) (s : State) : (notify typ body s).sec = s.sec :=
  (notify_only typ body s).sec
@[simp] theorem notify_draws (typ : Nat) (body : List Byte) (s : State) : (notify typ body s).draws = s.draws :=
  (notify_only typ body s).draws
@[simp] theorem notify_pending (typ : Nat) (body : List Byte) (s : State) : (notify typ body s).pending = s.pending :=
  (notify_only typ body s).pending

@[simp] theorem respond_part (n op q st : Nat) (p : List Byte) (s : State) : (respond n op q st p s).part = s.part :=
  (respond_only n op q st p s).part
@[simp] theorem respond_pwr (n op q st : Nat) (p : List Byte) (s : State) : (respond n op q st p s).pwr = s.pwr :=
  (respond_only n op q st p s).pwr
@[simp] theorem respond_sys (n op q st : Nat) (p : List Byte) (s : State) : (respond n op q st p s).sys = s.sys :=
  (respond_only n op q st p s).sys
@[simp] theorem respond_tap (n op q st : Nat) (p : List Byte) (s : State) : (respond n op q st p s).tap = s.tap :=
  (respond_only n op q st p s).tap
@[simp] theorem respond_dike (n op q st : Nat) (p : List Byte) (s : State) : (respond n op q st p s).dike = s.dike :=
  (respond_only n op q st p s).dike
@[simp] theorem respond_jets (n op q st : Nat) (p : List Byte) (s : State) : (respond n op q st p s).jets = s.jets :=
  (respond_only n op q st p s).jets
@[simp] theorem respond_wells (n op q st : Nat) (p : List Byte) (s : State) : (respond n op q st p s).wells = s.wells :=
  (respond_only n op q st p s).wells
@[simp] theorem respond_dac (n op q st : Nat) (p : List Byte) (s : State) : (respond n op q st p s).dac = s.dac :=
  (respond_only n op q st p s).dac
@[simp] theorem respond_cal (n op q st : Nat) (p : List Byte) (s : State) : (respond n op q st p s).cal = s.cal :=
  (respond_only n op q st p s).cal
@[simp] theorem respond_fab (n op q st : Nat) (p : List Byte) (s : State) : (respond n op q st p s).fab = s.fab :=
  (respond_only n op q st p s).fab
@[simp] theorem respond_tb (n op q st : Nat) (p : List Byte) (s : State) : (respond n op q st p s).tb = s.tb :=
  (respond_only n op q st p s).tb
@[simp] theorem respond_servo (n op q st : Nat) (p : List Byte) (s : State) : (respond n op q st p s).servo = s.servo :=
  (respond_only n op q st p s).servo
@[simp] theorem respond_trk (n op q st : Nat) (p : List Byte) (s : State) : (respond n op q st p s).trk = s.trk :=
  (respond_only n op q st p s).trk
@[simp] theorem respond_slc (n op q st : Nat) (p : List Byte) (s : State) : (respond n op q st p s).slc = s.slc :=
  (respond_only n op q st p s).slc
@[simp] theorem respond_weir (n op q st : Nat) (p : List Byte) (s : State) : (respond n op q st p s).weir = s.weir :=
  (respond_only n op q st p s).weir
@[simp] theorem respond_cld (n op q st : Nat) (p : List Byte) (s : State) : (respond n op q st p s).cld = s.cld :=
  (respond_only n op q st p s).cld
@[simp] theorem respond_pair (n op q st : Nat) (p : List Byte) (s : State) : (respond n op q st p s).pair = s.pair :=
  (respond_only n op q st p s).pair
@[simp] theorem respond_wear (n op q st : Nat) (p : List Byte) (s : State) : (respond n op q st p s).wear = s.wear :=
  (respond_only n op q st p s).wear
@[simp] theorem respond_temp (n op q st : Nat) (p : List Byte) (s : State) : (respond n op q st p s).temp = s.temp :=
  (respond_only n op q st p s).temp
@[simp] theorem respond_plat (n op q st : Nat) (p : List Byte) (s : State) : (respond n op q st p s).plat = s.plat :=
  (respond_only n op q st p s).plat
@[simp] theorem respond_pld (n op q st : Nat) (p : List Byte) (s : State) : (respond n op q st p s).pld = s.pld :=
  (respond_only n op q st p s).pld
@[simp] theorem respond_sec (n op q st : Nat) (p : List Byte) (s : State) : (respond n op q st p s).sec = s.sec :=
  (respond_only n op q st p s).sec
@[simp] theorem respond_draws (n op q st : Nat) (p : List Byte) (s : State) : (respond n op q st p s).draws = s.draws :=
  (respond_only n op q st p s).draws
@[simp] theorem respond_pending (n op q st : Nat) (p : List Byte) (s : State) : (respond n op q st p s).pending = s.pending :=
  (respond_only n op q st p s).pending

end Sys2Proof.Machine
end

