-- ==== Sys2Proof/Tests/Slice0.lean ====
section
/-! SUPPORT. Tests: ill-formed commands are refused, and for each statement with hypotheses a concrete state and operands that meet them. -/

namespace Sys2Proof.Tests

open Sys2Proof Sys2Proof.Machine

set_option Elab.async false

/-! ### Small states -/

/-- The command of an opcode, accepted in slot 0. -/
def cmdOf (op : Nat) : SlotCmd := { slot := 0, opcode := op, seq := 0, notify := false, barrier := false }

/-- Bytes as a memory from `off` lists them. -/
def memOf (off : Nat) (b : List Byte) : Mem := (b.zipIdx off).filterMap fun e => if e.1 = 0 then none else some (e.2, e.1)

/-- A frame of an opcode and payload stands in slot 0, accepted. -/
def told (op : Nat) (p : List Byte) (s : State) : State :=
  { s with mbx := { s.mbx with cmds := [cmdOf op], mem := memOf 0x1000 (le 2 op ++ le 2 0 ++ le 4 p.length ++ zeros 8 ++ p) } }

/-- A unit in a mode and role, with firmware running. -/
def unit (m : Mode) (r : Role := .solo) : State :=
  { State.reset with
    pwr := { hiZ := false, plls := true, basin := true, wiped := true }
    sys := { mode := m, role := r, fwRun := true } }

/-- The state in which such a command begins. -/
def asked (op : Nat) (p : List Byte) (s : State) : State := begun 0 (told op p s)

/-- The command is due there. -/
def dueFor (op : Nat) (p : List Byte) (s : State) : Bool := due (asked op p s) 0 op (cmdOf op) p

/-- The state that a command answers. -/
def next (c : Instr) (s : State) : Option State :=
  match exec c s with
  | .next t => some t
  | _ => none

theorem memOf_cons (off : Nat) (x : Byte) (t : List Byte) :
    memOf off (x :: t) = if x = 0 then memOf (off + 1) t else (off, x) :: memOf (off + 1) t := by
  by_cases h : x = 0#8 <;> simp [memOf, List.zipIdx_cons, h]

theorem sget_memOf (b : List Byte) (off k : Nat) : sget 0 (memOf off b) k = if off ≤ k then b.getD (k - off) 0 else 0 := by
  induction b generalizing off with
  | nil => simp [memOf, sget]
  | cons x t ih =>
    have hs : off + 1 ≤ k → k - off = (k - (off + 1)) + 1 := by omega
    rw [memOf_cons]
    split <;> rename_i hx
    · rw [ih]
      by_cases h : off + 1 ≤ k
      · rw [if_pos h, if_pos (by omega), hs h]; simp
      · by_cases e : off = k
        · subst e; simp [hx]
        · rw [if_neg h, if_neg (by omega)]
    · simp only [sget, ih]
      by_cases e : k = off
      · subst e; simp
      · by_cases h : off + 1 ≤ k
        · rw [if_neg e, if_pos h, if_pos (by omega), hs h]; simp
        · rw [if_neg e, if_neg h, if_neg (by omega)]

/-- Bytes listed as a memory read back. -/
theorem mread_memOf (off i n : Nat) (b : List Byte) (h : i + n ≤ b.length) : mread (memOf off b) (off + i) n = (b.drop i).take n := by
  apply List.ext_getElem
  · simp [mread]; omega
  · intro j h1 h2
    simp [mread] at h1
    simp only [mread, List.getElem_map, List.getElem_range, sget_memOf]
    rw [if_pos (by omega), show off + i + j - off = i + j by omega]
    simp [List.getD_eq_getElem?_getD, List.getElem?_eq_getElem (show i + j < b.length by omega)]

/-- The payload that stands in the slot. -/
theorem payload_told (op : Nat) (p : List Byte) (s : State) (h : p.length < 65536) : slotPayload (told op p s) 0 = p := by
  have hh : slotHeader (told op p s) 0 = le 2 op ++ le 2 0 ++ le 4 p.length ++ zeros 8 := by
    have := mread_memOf 0x1000 0 16 (le 2 op ++ le 2 0 ++ le 4 p.length ++ zeros 8 ++ p) (by simp [le, zeros])
    simpa [slotHeader, slotBase, told, le, zeros] using this
  have hl : fld (slotHeader (told op p s) 0) 4 4 = p.length := by
    rw [hh]
    simp only [le, zeros, fld, List.cons_append, List.nil_append, List.drop_succ_cons, List.drop_zero, List.take_succ_cons, List.take_zero,
      leNat, BitVec.toNat_ofNat]
    omega
  have := mread_memOf 0x1000 16 p.length (le 2 op ++ le 2 0 ++ le 4 p.length ++ zeros 8 ++ p) (by simp [le, zeros]; omega)
  rw [slotPayload, hl]
  simpa [slotBase, told, le, zeros] using this

/-- The command is due wherever, its payload apart, it is. -/
theorem dueFor_of {op : Nat} {p : List Byte} {s : State} (hr : s.sys.resetAt = none) (hl : p.length < 65536)
    (h : (let a := asked op p s; awake a && served a op && decide (readyCmd a 0 op = some (cmdOf op)) && !busyNow a op) = true) :
    dueFor op p s = true := by
  have hp : slotPayload (asked op p s) 0 = p := by
    have hm : (asked op p s).mbx = (told op p s).mbx := by
      have ht : (told op p s).sys.resetAt = none := hr
      rw [asked, begun_keeps (·.mbx) (fun _ _ _ => rfl) (fun _ _ _ => rfl) ht]; unfold elapse takeIrqs; (repeat' split) <;> rfl
    have := payload_told op p s hl
    simpa only [slotPayload, slotHeader, hm] using this
  simp_all [dueFor, due]

/-! ### Power, reset and boot -/

theorem test_power_case : (begun 0 { State.reset with pwr := { powered := false } }).pwr.powered = false ∧
    (let a := begun 0 State.reset
     a.pwr.powered = true ∧ a.pwr.tripped.contains .vddCore = false ∧ a.dike.fatal = false ∧ a.pwr.warned.contains .vddCore = false) ∧
    ((begun 0 { State.reset with dike := { fatal := true } }).dike.fatal = true ∧ State.reset.dike.fatalAt = none) ∧
    (let a := begun 0 { State.reset with dike := { fatal := true, fatalAt := some 3 }, tb := { now := 5 } }
     a.dike.fatalAt = some 3 ∧ sameRound a 3 a.tb.now = true) ∧
    (begun 0 { State.reset with pwr := { warned := [.vpin] } }).pwr.warned = [.vpin] := by decide +kernel

theorem test_resetRelease_case : let a := begun 0 State.reset
    a.sys.mode = .reset ∧ a.pwr.powered = true ∧ a.pwr.tripped = [] ∧ a.pwr.resetLow = false ∧ a.pwr.warned = [] ∧
    (begun 0 { State.reset with dike := { fatal := true }, pwr := { resetLow := true } }).dike.fatal = true := by decide +kernel

/-- A unit in Boot before firmware runs. -/
def booting : State :=
  { State.reset with
    pwr := { hiZ := false, plls := true, basin := true }
    sys := { mode := .boot } }

theorem test_boot_case : let a := begun 0 booting
    awake a = true ∧ answers a = true ∧ a.sys.mode = .boot ∧ a.pwr.plls = true ∧ a.pwr.basin = true ∧ a.pwr.wiped = false ∧
    a.pwr.refclk = true := by
  decide +kernel

theorem test_storeLoaded_case : let s := { unit .boot with temp := { measured := true } }; let a := begun 0 s
    a.sys.mode = .boot ∧ fwLive a = true ∧ a.temp.measured = true ∧ calRecord a.pld = none ∧
    (loadWear (raise 190 { a with pld := measure 0 a.pld })).sys.mode = .boot := by decide +kernel

/-! An image for the KX-256 with a body of one byte, signed by the first leaf of a tree of its own, and flash and OTP of a provisioned
module that holds it in slot 0. -/

def signId : List Byte := zeros 16
def imgHead : List Byte := le 4 0x46584B4F ++ le 2 1 ++ le 1 3 ++ zeros 3 ++ le 1 4 ++ zeros 5 ++ le 4 1 ++ zeros 12
def imgKey : List Byte := lmsPublic signId (zeros 32) 15
def imgSig : List Byte := lmsSign signId (zeros 32) 15 0 (zeros 32) (imgHead ++ imgKey ++ [0])
def imgBytes : List Byte := imgHead ++ (imgKey ++ (imgSig ++ (zeros 1340 ++ [0])))

/-- A control record that prefers slot 0. -/
def ctlZero : List Byte := zeros 28 ++ le 4 (crc32c (zeros 28)).toNat

def shipped : Pld := { lcBits := 0x38, rootHash0 := digestNat imgKey, image0 := imgBytes, ctl0 := ctlZero, calKey := 1, attSeed := 2, attId := 3 }

theorem length_imgKey : imgKey.length = 56 := length_lmsPublic _ _ (by simp [signId])

theorem length_imgSig : imgSig.length = 2668 := by
  rw [imgSig, length_lmsSign _ _ _ _ _ (by simp)]; rfl

theorem length_imgBytes : imgBytes.length = 4097 := by
  simp only [imgBytes, List.length_append, length_imgKey, length_imgSig, List.length_replicate]; rfl

/-- A field of the header is that of the image. -/
theorem fld_imgBytes (off n : Nat) (h : off + n ≤ 32) : fld imgBytes off n = fld imgHead off n := by
  have l : imgHead.length = 32 := by decide +kernel
  rw [fld, fld, imgBytes, List.drop_append_of_le_length (by omega), List.take_append_of_le_length (by simp [l]; omega)]

/-- The image passes the checks on a module that trusts its key. -/
theorem imgBytes_ok {p : Pld} (hl : lcOf p.lcBits = .provisioned) (hk : p.rootHash0 = digestNat imgKey) (hr : p.rootRevoke = 0) :
    imageOk .kx256 p imgBytes = true := by
  have l : imgHead.length = 32 := by decide +kernel
  have lk := length_imgKey
  have lg := length_imgSig
  have key : sub imgBytes 32 56 = imgKey := by
    rw [imgBytes, sub_skip (k := 0) (by omega), sub_head lk]
  have sig : sub imgBytes 88 2668 = imgSig := by
    rw [imgBytes, sub_skip (k := 56) (by omega), sub_skip (k := 0) (by omega), sub_head lg]
  have signed : sub imgBytes 0 88 = imgHead ++ imgKey := by
    rw [imgBytes, ← List.append_assoc, sub_head (by simp [l, lk])]
  have body : sub imgBytes 4096 1 = [0] := by
    rw [imgBytes, sub_skip (k := 4064) (by omega), sub_skip (k := 4008) (by omega), sub_skip (k := 1340) (by omega),
      sub_skip (k := 0) (by simp), sub_all (by rfl)]
  have blank : rsvd imgBytes 2756 1340 = false := by
    have e : sub imgBytes 2756 1340 = zeros 1340 := by
      rw [imgBytes, sub_skip (k := 2724) (by omega), sub_skip (k := 2668) (by omega), sub_skip (k := 0) (by omega), sub_head (by simp)]
    rw [rsvd, show fld imgBytes 2756 1340 = leNat (sub imgBytes 2756 1340) from rfl, e]
    decide +kernel
  have wide : rsvd imgBytes 25 7 = false := by rw [rsvd, fld_imgBytes _ _ (by omega)]; decide +kernel
  have ver := lmsVerify_lmsSign signId (zeros 32) 15 0 (zeros 32) (imgHead ++ imgKey ++ [0]) (by simp [signId]) (by simp) (by omega) (by omega)
  have bl : bodyLen imgBytes = 1 := by rw [bodyLen, fld_imgBytes _ _ (by omega)]; decide +kernel
  have ok : imageSigned imgBytes = true := by
    rw [imageSigned, bl, key, sig, signed, body]; exact ver
  unfold imageOk
  simp only [hl, ok, key, bl, blank, wide, length_imgBytes, fld_imgBytes 0 4 (by omega), fld_imgBytes 4 2 (by omega),
    fld_imgBytes 6 1 (by omega), fld_imgBytes 10 1 (by omega), fld_imgBytes 24 1 (by omega), fld_imgBytes 20 4 (by omega),
    fld_imgBytes 11 1 (by omega), hk, hr]
  have z : fld imgHead 11 1 = 0 := by decide +kernel
  have free : decide (Lc.provisioned = Lc.deployed ∨ Lc.provisioned = Lc.returned) = false := by decide
  simp only [z, if_true, decide_true, free, Bool.false_and]
  decide +kernel

/-- Slot 0 is chosen where it is preferred and its image passes the checks. -/
theorem choice_slot0 {part : Part} {p : Pld} {r : List Byte} (hl : lcOf p.lcBits = .provisioned) (hr : slotRecord p = some r)
    (hp : ctlPrefers r = false) (ho : imageOk part p p.image0 = true) : bootChoice part p = some (false, p.image0) := by
  simp [bootChoice, hl, hr, hp, slotImage, ho]

theorem begun_pld {s : State} (h : s.sys.resetAt = none) : (begun 0 s).pld = s.pld := by
  rw [begun_keeps (·.pld) (fun _ _ _ => rfl) (fun _ _ _ => rfl) h]; unfold elapse takeIrqs; (repeat' split) <;> rfl

theorem test_handover_case : let s := { booting with pld := shipped, pwr := { booting.pwr with wiped := true } }
    let a := begun 0 s
    let m := { a with pld := if a.pld.log.isEmpty then measure (otpEntry a.pld) (measure Config.romDigest a.pld) else a.pld }
    a.sys.mode = .boot ∧ a.pwr.wiped = true ∧ a.pwr.refclk = true ∧ a.sys.fwRun = false ∧ a.pwr.stopped = false ∧
    bootChoice a.part m.pld = some (false, imgBytes) := by
  refine ⟨by decide +kernel, by decide +kernel, by decide +kernel, by decide +kernel, by decide +kernel, ?_⟩
  have e : (begun 0 { booting with pld := shipped, pwr := { booting.pwr with wiped := true } }).part = .kx256 := by decide +kernel
  dsimp only
  rw [e, begun_pld rfl]
  exact choice_slot0 (r := ctlZero) (by decide +kernel) (by decide +kernel) (by decide +kernel) (imgBytes_ok (by decide +kernel) rfl rfl)

/-- A CAL record and a WEAR record sealed under a key. -/
def keyed : Pld := { calKey := 1 }
def record : CalRec := sealCal keyed { kind := 1, serial := 0, gen := 1, length := 0 } {}
def table : WearRec := sealWear keyed { kind := 2, serial := 0, gen := 1, length := 0 } []

/-- Flash that holds them. -/
def stored : Pld := { keyed with cal0 := some record, wear0 := some table }

/-- A sealed record authenticates under the key that sealed it. -/
theorem storeAuth_sealed {p : Pld} {h : StoreHdr} (body : List Byte) (u : usable p.calKey = true) (hs : h.serial = p.serial) :
    storeAuth p h (sealed p h body) body = true := by simp [storeAuth, sealed, u, hs]

theorem stored_records : calRecord stored = some record ∧ wearRecord stored = some table := by
  have c : calAuth stored record = true := storeAuth_sealed (p := stored) _ (by decide +kernel) rfl
  have w : wearAuth stored table = true := storeAuth_sealed (p := stored) _ (by decide +kernel) rfl
  constructor
  · rw [calRecord, show stored.cal0 = some record from rfl, show stored.cal1 = none from rfl]; simp [Option.filter, c]
  · rw [wearRecord, show stored.wear0 = some table from rfl, show stored.wear1 = none from rfl]; simp [Option.filter, w]

/-- A loop over states keeps what each of its steps keeps. -/
theorem forEach_keeps {α β : Type} (g : State → β) (f : State → α → State) (h : ∀ s x, g (f s x) = g s) (l : List α) (s : State) :
    g (forEach l s f) = g s := by
  unfold forEach
  induction l generalizing s with
  | nil => rfl
  | cons x t ih => rw [List.foldl_cons, ih, h]

/-- With a WEAR record, preparing the fabric and loading wear leave the mode. -/
theorem prepared_mode (b : Option Bool) (c : CalData) (s : State) (h : (wearRecord s.pld).isSome = true) :
    (loadWear (prepareFabric b c s)).sys.mode = s.sys.mode := by
  let g := fun u : State => (u.sys.mode, u.pld)
  have start : ∀ (u : State) (l : Nat), g (startLoop l u) = g u := by
    intro u l
    have e : g (lockEvent l u) = g u := by unfold lockEvent; split <;> rfl
    have o : g (setOwn l true (lockEvent l u)) = g (lockEvent l u) := by unfold setOwn; split <;> rfl
    have r : g (roundAvg l (setOwn l true (lockEvent l u))) = g (setOwn l true (lockEvent l u)) :=
      forEach_keeps g _ (by intros; rfl) _ _
    unfold startLoop
    split
    · rfl
    · exact r.trans (o.trans e)
  have run : ∀ u : State, g (runJets u) = g u := fun u => forEach_keeps g _ (by intro s x; split <;> rfl) _ _
  have k : g (prepareFabric b c s) = g s := (forEach_keeps g _ (by intro u l; exact start u l) _ _).trans (run _)
  obtain ⟨k1, k2⟩ := Prod.mk.inj k
  rw [← k2] at h
  obtain ⟨r, hr⟩ := Option.isSome_iff_exists.mp h
  simpa [loadWear, hr] using k1

theorem test_storeLoaded_record :
    let s := { unit .boot with temp := { measured := true }, pld := stored }
    let a := begun 0 s
    a.sys.mode = .boot ∧ fwLive a = true ∧ a.temp.measured = true ∧ calRecord a.pld = some record ∧
    (loadWear (prepareFabric (some (decide (record.hdr.band = 1))) record.data
      { a with pld := Machine.measure (digestNat (calBytes record)) a.pld })).sys.mode = .boot := by
  have e : (begun 0 { unit .boot with temp := { measured := true }, pld := stored }).pld = stored := begun_pld rfl
  refine ⟨by decide +kernel, by decide +kernel, by decide +kernel, by rw [e]; exact stored_records.1, ?_⟩
  rw [prepared_mode]
  · decide +kernel
  · have m : ∀ d p, wearRecord (Machine.measure d p) = wearRecord p := by intro d p; unfold Machine.measure; split <;> rfl
    dsimp only
    rw [e, m, stored_records.2]; rfl

/-- R14, R396, R408: release takes the unit to Boot, and Solo without a partner. -/
theorem test_resetRelease_boot : (next (.resetRelease 0 false false) State.reset).map (fun t => (t.sys.mode, t.sys.role, t.fab.openPorts)) =
    some (.boot, .solo, 0) := by decide +kernel

/-! ### The host's window -/

theorem test_window_case : let a := begun 0 (unit .operate)
    windowLive a = true ∧ portAsleep a = false ∧ (a.mbx.prod - (0 : W32)).toNat ≤ 96 ∧ 96 < (a.mbx.prod - (1 : W32)).toNat ∧
    a.sys.spi = false ∧ slotAt 0x1000 = some 0 ∧ slotAt 0x8FFF = some 7 ∧ a.mbx.busy.getLsbD 7 = false ∧
    ([1, 2, 3, 4] : List Byte).length = 4 ∧ 0x0FFC + 4 ≤ 0x1000 ∧ 0x0FFC % 4 = 0 ∧ 0x0FFE % 4 ≠ 0 ∧ 0x0FFF < 0x1000 ∧
    0xFFFF + ([9] : List Byte).length ≤ 0x10000 := by decide +kernel

theorem test_window_busy_case : let s := unit .operate
    let a := begun 0 { s with mbx := { s.mbx with busy := 1, prod := 96 } }
    windowLive a = true ∧ a.mbx.busy.getLsbD 0 = true ∧ (a.mbx.prod - (0 : W32)).toNat ≤ 96 := by decide +kernel

theorem test_window_away_case : portAsleep (begun 0 { unit .operate with pcie := { d3hot := true } }) = true ∧
    windowLive (begun 0 booting) = false ∧ portAsleep (begun 0 booting) = false := by decide +kernel

theorem test_spi_case : let s := unit .operate
    (begun 0 { s with sys := { s.sys with spi := true } }).sys.spi = true ∧
    windowLive (begun 0 { s with sys := { s.sys with spi := true } }) = true ∧
    (begun 0 { booting with sys := { booting.sys with spi := true } }).sys.spi = true ∧
    windowLive (begun 0 { booting with sys := { booting.sys with spi := true } }) = false := by decide +kernel

/-- R262: a word of a register in D3hot is refused. R362: a doorbell outside Safe rings its slot and raises event 292. -/
theorem test_doorbell : (next (.mbxDoorbell 0 1) { unit .operate with pcie := { d3hot := true } }).map (·.out) = some [.unsupported] ∧
    (next (.mbxDoorbell 0 0x80) (unit .operate)).map (fun t => (t.mbx.rung, sget 0 t.plat.lastEv 292)) = some (0x80, 1) := by
  decide +kernel

/-- A sound IDENTIFY frame in slot 7 and a CONNECT without its payload in slot 0, both rung. -/
def rung : State :=
  let s := unit .operate
  let m := memOf 0x1000 (frameBytes 0x0202 4 0 []) ++ memOf 0x8000 (frameBytes 0x0100 5 0 [])
  { s with mbx := { s.mbx with rung := 0x81, busy := 0x81, mem := m } }

theorem test_acceptance_case : let a := begun 0 rung
    let w := fun (u : State) n => { u with mbx := { u.mbx with rung := setBit u.mbx.rung n false } }
    awake a = true ∧ served a 0x0100 = true ∧ ones 8 a.mbx.rung = [0, 7] ∧
    fld (slotHeader a 0) 4 4 ≤ 4080 ∧ frameFails (w a 0) (slotHeader a 0) (slotPayload a 0) = none ∧ fld (slotHeader a 0) 0 2 = 0x0202 ∧
    fld (slotHeader a 7) 4 4 ≤ 4080 ∧ frameFails (w a 7) (slotHeader a 7) (slotPayload a 7) = none ∧ fld (slotHeader a 7) 0 2 = 0x0100 := by
  decide +kernel

/-- R274: both become commands, the lower slot first. -/
theorem test_acceptance : (next (.commandAcceptance 0) rung).map (fun t => t.mbx.cmds.map (·.slot)) = some [0, 7] := by decide +kernel

theorem test_acceptance_fails_case : let s := unit .operate
    let u := { s with mbx := { s.mbx with rung := 1, busy := 1 } }
    let long := { s with mbx := { s.mbx with mem := memOf 0x1000 (le 4 0 ++ le 4 4081) } }
    fld (slotHeader u 0) 4 4 ≤ 4080 ∧
    (frameFails { u with mbx := { u.mbx with rung := 0 } } (slotHeader u 0) (slotPayload u 0)) = some 0x11 ∧
    4080 < fld (slotHeader long 0) 4 4 := by decide +kernel

theorem test_barrier_case : let s := unit .operate
    let c : SlotCmd := { cmdOf 0x0101 with barrier := true }
    let a := begun 0 { s with mbx := { s.mbx with cmds := [c] } }
    awake a = true ∧ served a 0x0100 = true ∧ cmdAt a 0 = some c ∧ c.barrier = true ∧ (a.mbx.cmds.takeWhile (· != c)) = [] := by
  decide +kernel

/-- R273: a response sets DONE, and the slot holds no command. -/
theorem test_identify_answers : (next (.identify 0 0) (told 0x0100 [] (unit .operate))).map
    (fun t => (t.mbx.done, t.mbx.cmds.length)) = some (1, 0) := by
  decide +kernel

/-- The check value of CRC-32C over "123456789". -/
theorem test_crc : crc32c [0x31, 0x32, 0x33, 0x34, 0x35, 0x36, 0x37, 0x38, 0x39] = 0xE3069283 := by decide +kernel

/-! ### Ill-formed commands -/

theorem test_wf_slots : ([.barrierStart 0 8, .identify 0 8, .connect 0 8, .loopSet 0 8, .calWrite 0 8, .telegram 0 8, .weirPort 0 8,
    .timeSet 0 8, .pairSet 0 8, .faultRead 0 8, .inject 0 8, .attest 0 8 ⟨0, false⟩, .lcTransition 0 8] : List Instr).all
    (fun c => !c.wf .kx064) = true ∧ Instr.wf .kx064 (.identify 0 7) = true := by decide +kernel

/-- A cell's step by a heat of 50, of one group, that every row sees as a rise by 100. -/
def stepped (k : BitVec 16) : Response := ⟨k, .toggle, 0, 50, 7, true, 100, List.replicate 512 200⟩

theorem test_wf_numbers : ([.firmwareHandover 0 [] [] [], .firmwareHandover 0 (List.replicate 64 (0, 0)) [17] [],
    .firmwareHandover 0 (List.replicate 64 (0, 0)) [] [17], .hostWindowWrite 0 0 [], .hostWindowWrite 0 0xFFFF [0, 0],
    .calibrationEnd 0 true [384] [] {} 0, .calibrationEnd 0 true [] [17] {} 0,
    .calibrationEnd 0 true [] [] { steps := [(0, [{ stepped 1 with after := [] }])] } 0,
    .calibrationEnd 0 true [] [] { steps := [(0, [stepped 384])] } 0,
    .calibrationEnd 0 true [] [] { steps := [(0, [stepped 1, stepped 2])] } 0, .registerWrite 0 .cpu .p1 (2 ^ 40) 0,
    .registerWrite 0 .cpu .p1 2 0, .busTimeout 0 .cpu .p1 1 true, .wellSchedWrite 0 17 0 0 false, .wellSchedWrite 0 0 80 0 false,
    .wellChanWrite 0 17 0 0 false, .wellChanWrite 0 0 80 0 false, .wellTakeover 0 17, .wellWakeEnd 0 17, .wellSliceFail 0 17,
    .wellFrame 0 17 (List.replicate 80 0), .wellFrame 0 0 [0], .wellFrame 0 0 (List.replicate 80 16384), .rangeStepDown 0 17 0,
    .rangeStepUp 0 0 80, .dacWrite 0 (.htr 768) true 0, .dacWrite 0 (.port 64) true 0, .dacWrite 0 (.port 320) true 0,
    .dacWrite 0 (.flip 384) true 0, .rangeChangeEnd 0 768, .jetSwapWrite 0 17 true 0, .skipLimitExceeded 0 17, .skipWindowEnd 0 17,
    .jetTakeover 0 17, .roundStart 0 [512], .lockLossTimeout 0 384, .cellFailureReroute 0 384 .good, .heaterBPendingInsert 0 384,
    .heaterBTIns 384, .heaterBReopen 384] : List Instr).all (fun c => !c.wf .kx064) = true := by decide +kernel

theorem test_wf_more : ([.levelReadback [384], .entryPrepare 0 true 16 0, .entryArm 0 true 0 8192,
    .calendarStart 16, .calendarWindow 16, .calendarResume 16, .telegramReceive 0 2 0 ⟨⟨none, 0⟩, 0, 0, []⟩,
    .telegramReceive 0 0 (2 ^ 48 * (1000000000 * 65536)) ⟨⟨none, 0⟩, 0, 0, []⟩, .ptpMessageRx 0 2 0 ⟨none, 0⟩ ⟨0, 0, 0, 0, 0, .udp 0, .other⟩,
    .trainStale 64, .delayReqTx 0 (2 ^ 48 * (1000000000 * 65536)), .ppsInEdge 0 (2 ^ 48 * (1000000000 * 65536)), .arpRequest 0 2 0 ⟨none, 0⟩,
    .mgmtFrameOther 0 ⟨2, ⟨none, 0⟩⟩, .mgmtLinkChange 0 2 true, .laneUp 0 (.weir 8), .laneUp 0 (.cld 2), .laneDown 0 (.weir 8), .heartbeatRx 0 ⟨2, []⟩,
    .mirrorItemRx 0 ⟨0, zeros 4097⟩ none, .followRx 0 2 [], .retransmitRequest 0 ⟨2, []⟩, .resyncItemRx 0 ⟨2, []⟩ ⟨none, false⟩, .weirRequest 0 8 [],
    .weirRequest 0 0 (zeros 65), .weirDecision 0 64, .timeMessageTx 0 8, .faultOccurrence 0 192 true, .faultWindowClose 0 192 true,
    .tempMeasurementDone 0 [], .injectionDurationEnd 0 512] : List Instr).all (fun c => !c.wf .kx064) = true := by decide +kernel

theorem test_wf_accepts : ([.firmwareHandover 0 (List.replicate 64 (0, 0)) [16] [16], .hostWindowWrite 0 0xFFFF [0],
    .wellSchedWrite 0 16 79 0 false, .dacWrite 0 (.htr 767) true 0, .dacWrite 0 (.port 319) true 0, .roundStart 0 [511],
    .calibrationEnd 0 true [] [] { steps := [(0, [stepped 1, { stepped 2 with group := 1 }])] } 0,
    .entryArm 0 true 15 8191, .laneUp 0 (.weir 7), .laneUp 0 (.cld 1), .faultOccurrence 0 191 true,
    .registerWrite 0 .cpu .p1 (2 ^ 40 - 4) 0] : List Instr).all (Instr.wf .kx064) = true := by decide +kernel

/-! ### Host commands: system -/

theorem test_checks_case :
    (let a := asked 0x0209 [] (unit .operate)
     readyCmd a 0 0x0209 = some (cmdOf 0x0209) ∧ served a 0x0209 = true ∧ awake a = true ∧ onlyMode .dark a.sys.mode = false) ∧
    (let s := { unit .dark with pld := { lcBits := 0xE00 } }; let a := asked 0x0103 [1, 0, 0, 0] s
     readyCmd a 0 0x0103 = some (cmdOf 0x0103) ∧ inRun a.sys.mode = true ∧ decide (lcNow a = .returned ∧ fld [1, 0, 0, 0] 0 1 = 1) = true) ∧
    (let a := asked 0x0204 [0, 0, 0, 0] (unit .operate .standby)
     readyCmd a 0 0x0204 = some (cmdOf 0x0204) ∧ inSvc a.sys.mode = true ∧ roleLit a.sys.role = false) ∧
    (let s := unit .operate
     let d : SlotCmd := { cmdOf 0x0202 with slot := 1, deferred := true }
     let t := told 0x0204 [0, 0, 0, 0] s
     let a := begun 0 { t with mbx := { t.mbx with cmds := [d, cmdOf 0x0204] } }
     readyCmd a 0 0x0204 = some (cmdOf 0x0204) ∧ inSvc a.sys.mode = true ∧ roleLit a.sys.role = true ∧ busyNow a 0x0204 = true) := by
  decide +kernel

theorem test_system_case : dueFor 0x0100 [] (unit .safe) = true ∧ dueFor 0x0101 [] (unit .boot) = true ∧
    (dueFor 0x0102 [0, 0, 0, 0] (unit .safe) = true ∧ (asked 0x0102 [0, 0, 0, 0] (unit .safe)).dike.fatal = false) ∧
    (let p := [2, 0, 0, 0]; let a := asked 0x0103 p (unit .dark)
     dueFor 0x0103 p (unit .dark) = true ∧ inRun a.sys.mode = true ∧ fld p 1 3 = 0 ∧ reachable a.sys.mode (fld p 0 1) = true ∧
     a.sys.trans = none ∧ fld p 0 1 ≠ 1) ∧
    (let p := [1, 0, 0, 0]; let s := unit .dark; let s := { s with sys := { s.sys with calValid := true } }; let a := asked 0x0103 p s
     dueFor 0x0103 p s = true ∧ reachable a.sys.mode (fld p 0 1) = true ∧ a.sys.trans = none ∧ lcNow a ≠ .returned ∧ calibrated a = true) ∧
    (let p := [1, 0xFF, 1, 0, 0xFF, 0x07]; let a := asked 0x0104 p (unit .dark)
     dueFor 0x0104 p (unit .dark) = true ∧ p.length = 4 + 2 * fld p 2 2 ∧ calBad p = false ∧ (∀ k ∈ calCellsOf p, k < a.part.cells) ∧
     noDefer a = false) := by decide +kernel

/-- A unit whose command-driven transition to Maintenance is under way, and one that has made it. -/
def changing (made : Bool) : State :=
  let s := unit .operate; { s with sys := { s.sys with trans := some ⟨.maintenance, 0, 1, made⟩ } }

theorem test_modeChange_case : let a := begun 0 (changing false)
    awake a = true ∧ fwLive a = true ∧ a.sys.trans = some ⟨.maintenance, 0, 1, false⟩ ∧ (1 : W32) ≠ a.jets.round ∧
    (begun 0 (changing true)).sys.trans = some ⟨.maintenance, 0, 1, true⟩ := by decide +kernel

/-- A small unit in Calibrate, its CALIBRATE deferred. -/
def calibrating : State :=
  let s := unit .calibrate
  { s with part := .kx064, mbx := { s.mbx with cmds := [{ cmdOf 0x0104 with deferred := true, started := true }] } }

theorem test_calibrationEnd_case : let a := begun 0 calibrating
    let k : SlotCmd := { cmdOf 0x0104 with deferred := true, started := true }
    let x := fitMatrix a (calNamed a) (stepRows a.part {})
    let left := if a.sys.calFull then [] else a.sys.uncal.filter fun k => !a.sys.calCells.contains k
    let v := useResults true [] [] x.touched x.cal a
    let u := { v with sys := { v.sys with calValid := a.sys.calFull || a.sys.calValid, uncal := left } }
    let w := useResults false [] [] x.touched x.cal a
    fwLive a = true ∧ a.sys.mode = .calibrate ∧ x.bad = [] ∧ (unmeasured a.part (calNamed a) {}).filter (· < a.part.cells) = [] ∧
    deferredCmd (enterMode .dark { u with pld := storeCal (u.sys.band.getD false) u.cal u.pld }) 0x0104 = some k ∧
    deferredCmd (enterMode .dark { w with sys := { w.sys with
      calValid := a.sys.calValid, uncal := (List.range a.part.cells).filter (calNamed a) ++ left } }) 0x0104 = some k := by
  decide +kernel

/-- R136: a change of 100 by a heat of 50 is a coefficient of 2; of a row whose cell lacked light the cell fails. -/
theorem test_coupling : (stepped 1).after.length = 512 ∧ coefOf (stepped 1) = ⟨1, 2, 7⟩ ∧
    quot ((((stepped 1).after.drop 256).map fun y => y - (stepped 1).before).sum) (256 * (stepped 1).heat) = 2 ∧
    unmeasured .kx064 (fun _ => true) { steps := [(3, [{ stepped 1 with able := false }])] } = [3] := by decide +kernel

/-! ### Host commands: fabric -/

/-- A map that connects port 0 to port 255 and no other. -/
def oneConn : List Byte := [0xFF, 0] ++ List.replicate 510 0xFF

theorem test_connect_case : let p := le 2 1 ++ le 1 1 ++ le 1 0 ++ oneConn; let a := asked 0x0202 p (unit .dark)
    dueFor 0x0202 p (unit .dark) = true ∧ inSvc a.sys.mode = true ∧ roleLit a.sys.role = true ∧ p.length = 516 ∧ fld p 2 1 ≤ 1 ∧
    fld p 3 1 = 0 ∧ mapForm a (BitVec.ofNat 16 (fld p 0 2)) (sub p 4 512) = true ∧ mapRange a (sub p 4 512) = true ∧
    notStatic a (BitVec.ofNat 16 (fld p 0 2)) = false := by
  refine ⟨dueFor_of rfl (by decide +kernel) (by decide +kernel), ?_⟩
  decide +kernel

theorem test_configDefine_case : let p := le 2 0xFFFF ++ le 2 1 ++ le 1 0 ++ zeros 3 ++ oneConn; let a := asked 0x0203 p (unit .dark)
    dueFor 0x0203 p (unit .dark) = true ∧ inSvc a.sys.mode = true ∧ roleLit a.sys.role = true ∧ p.length = 520 ∧ fld p 4 1 ≤ 1 ∧
    fld p 5 3 = 0 ∧ mapForm a (BitVec.ofNat 16 (fld p 2 2)) (sub p 8 512) = true ∧ mapRange a (sub p 8 512) = true ∧
    (cfgOf a.fab (fld p 0 2)).valid = false ∧ namers a (fld p 0 2) = [] := by
  refine ⟨dueFor_of rfl (by decide +kernel) (by decide +kernel), ?_⟩
  decide +kernel

theorem test_domainSet_case : let p := zeros 512 ++ [1, 2] ++ zeros 18; let a := asked 0x0200 p (unit .dark)
    dueFor 0x0200 p (unit .dark) = true ∧ a.sys.mode = .dark ∧ roleLit a.sys.role = true ∧ p.length = 532 ∧ fld p 530 2 = 0 ∧
    (∀ k < 256, a.part.ports ≤ k → fld p k 1 = 0 ∧ fld p (256 + k) 1 = 0) ∧ (∀ b ∈ sub p 0 512, b.toNat ≤ 15) ∧
    (∀ b ∈ sub p 512 16, b.toNat ≤ 2) ∧ crossDomain (domainsOf a.part p) a.fab.conns = false := by
  refine ⟨dueFor_of rfl (by decide +kernel) (by decide +kernel), ?_⟩
  decide +kernel

/-- A unit with a valid configuration of no connections. -/
def holding : State := let s := unit .dark; { s with part := .kx064, fab := { s.fab with configs := [(7, { valid := true, scope := 1 })] } }

theorem test_configs_case :
    (dueFor 0x0207 [0xFF, 7, 1, 0] (unit .dark) = true ∧ fld [0xFF, 7, 1, 0] 0 2 < Part.kx256.cells) ∧
    dueFor 0x0201 [] (unit .operate) = true ∧ dueFor 0x0209 [0x10, 0x27, 0, 0] (unit .dark) = true ∧
    dueFor 0x0209 [0x58, 2, 0, 0] (unit .dark) = true ∧ fld [0x10, 0x27, 0, 0] 0 2 = 10000 ∧ fld [0x58, 2, 0, 0] 0 2 = 600 ∧
    (let a := asked 0x0204 [7, 0, 0, 0] holding
     dueFor 0x0204 [7, 0, 0, 0] holding = true ∧ (cfgOf a.fab 7).valid = true ∧ namers a 7 = [] ∧ roleLit a.sys.role = true) ∧
    dueFor 0x0205 [0xFF, 0xFF, 0, 0] (unit .dark) = true ∧
    (let a := asked 0x0206 [7, 0, 0, 0] holding
     dueFor 0x0206 [7, 0, 0, 0] holding = true ∧ notStatic a (cfgOf a.fab 7).scope = false ∧ compatibleNow a 7 = true) ∧
    dueFor 0x0208 [0, 0, 0, 8] (unit .operate) = true ∧ fld [0, 0, 0, 8] 2 2 = 2048 := by decide +kernel

/-! ### The route engine and the reconfiguration sequence -/

/-- A routed CONNECT. -/
def routed (check : Bool) (code : Nat) : Routed :=
  { req := { origin := .connect 0 0 check, want := [] }, report := { outcome := code }, cells := 0, conns := [], armSeq := 0 }

theorem test_route_case :
    (let q := (routed false 0).req; let a := begun 0 { unit .operate with fab := { queue := [q] } }
     awake a = true ∧ a.fab.active = none ∧ a.fab.queue = [q] ∧ slcClock a = true) ∧
    ([(false, 1), (true, 1), (false, 2)].all fun x =>
     let a := begun 0 { unit .operate with fab := { active := some (routed x.1 x.2) } }
     decide (a.fab.active = some (routed x.1 x.2) ∧ (routed x.1 x.2).req.origin = .connect 0 0 x.1 ∧
       Disturb.rejected (routed x.1 x.2).report = decide (x.2 = 2))) = true ∧
    (let a := begun 0 { unit .operate with fab := { ready := [routed false 0] } }
     awake a = true ∧ a.fab.ready = [routed false 0] ∧ (routed false 0).armSeq = a.fab.seq) ∧
    (let a := begun 0 { unit .operate with fab := { active := some (routed false 0), seq := 1 } }
     awake a = true ∧ a.fab.active = some (routed false 0) ∧ (routed false 0).armSeq ≠ a.fab.seq) ∧
    (let a := begun 0 (unit .dark)
     fwLive a = true ∧ inSvc a.sys.mode = true) := by decide +kernel

theorem test_background_case :
    let s := unit .dark
    let a := begun 0 { s with part := .kx064, fab := { configs := [(7, { valid := true, scope := 1, reroute := true })] } }
    let x := rerouteRecord a 7 ((cfgOf a.fab 7).entryRouted || (namedConfigs a).contains 7)
    awake a = true ∧ slcClock a = true ∧ fwLive a = true ∧ a.sys.mode ≠ .safe ∧ a.fab.active = none ∧
    (a.fab.queue.any fun x => x.origin.isReroute) = false ∧ bgNext a = some 7 ∧ Disturb.rejected x.1 = false := by decide +kernel

/-- A request on the small part, with ports 0 and 1 in different domains. -/
def request (after : ConnMap) : RouteIn :=
  { part := .kx064, base := 0, before := [], after := after, fixed := 0, fixVal := 0, bad := 0, dom := { egr := [(1, 1)] } }

/-- R48: a connection on the empty fabric is routed in phase 1 and moves no other. -/
theorem test_route : let x := routeEngine 0 (request [(0, 2)]) (request [(0, 2)])
    x.1.outcome = 0 ∧ x.1.phase = 1 ∧ pathEnd .kx064 x.2 0 = 2 := by decide +kernel

theorem test_rejections_case :
    (∃ e ∈ (request [(0, 1)]).after, sget 0 (request [(0, 1)]).dom.ing e.1 ≠ sget 0 (request [(0, 1)]).dom.egr e.2) ∧
    (∀ e ∈ (request [(0, 2), (0, 3)]).after, sget 0 (request []).dom.ing e.1 = sget 0 (request []).dom.egr e.2) ∧
    ¬((request [(0, 2), (0, 3)]).after.map (·.1)).Nodup ∧
    Disturb.rejected (routeEngine 0 (request [(0, 1)]) (request [(0, 1)])).1 = true ∧
    Disturb.rejected (routeEngine 0 (request []) (request [])).1 = false := by decide +kernel

/-- A reconfiguration in a phase, with nothing to do. -/
def recon (ph : Phase) : Reconf :=
  { seq := 0, source := 0, origin := .connect 0 0 false, config := 0, entries := [], cells := 0, conns := [], wanted := 0, tClose := 0,
    gap := 800, phase := ph, opening := 1 }

/-- A unit in which it is under way. -/
def under (ph : Phase) : State := { unit .operate with fab := { recon := [recon ph] } }

theorem test_sequence_case :
    firstIn .armed (begun 0 (under .armed)).fab = some (recon .armed) ∧ firstIn .closed (begun 0 (under .closed)).fab = some (recon .closed) ∧
    firstIn .dark (begun 0 (under .dark)).fab = some (recon .dark) ∧ firstIn .opened (begun 0 (under .opened)).fab = some (recon .opened) ∧
    awake (begun 0 (under .armed)) = true := by decide +kernel

/-- The small unit with the valves' ladders in the Jets' hands, as after the entry into Dark. -/
def opening : State :=
  { under .dark with part := .kx064, dac := { port := (List.range 64).map fun n => (256 + n, { own := true }) } }

theorem test_opening_case : firstIn .dark opening.fab = some (recon .dark) ∧
    (∀ n < opening.part.ports, valveRefused opening n = false) ∧
    (recon .dark).opening.getLsbD 0 = true ∧ (recon .dark).opening.getLsbD 63 = false := by decide +kernel

theorem test_report_case : let a := begun 0 (under .judged)
    awake a = true ∧ fwLive a = true ∧
    a.fab.recon.find? (fun r => decide (r.phase = .judged ∨ r.phase = .abandoned)) = some (recon .judged) ∧
    (recon .judged).late = [] ∧ (recon .judged).entries = [] ∧ (recon .judged).todo = [] ∧ (recon .judged).source = 0 := by decide +kernel

/-- R31: on the Kolox 256 the wiring behind stage 0 takes the cells' output bit to bit 7. -/
theorem test_wiring : wire .kx256 0 1 = 128 ∧ wire .kx256 0 2 = 1 ∧ wire .kx256 0 255 = 255 := by decide +kernel

/-- R32: with every cell of the fabric in the bar state, In reaches En. -/
theorem test_all_bar : (List.range 64).all (fun n => decide (pathEnd .kx064 0 n = n)) = true := by decide +kernel

/-! ### Loops, wells, ladders and Jets -/

theorem test_loops_case :
    (dueFor 0x0300 [0xFF, 9, 0, 0] (unit .operate) = true ∧ fld [0xFF, 9, 0, 0] 0 2 = Part.kx256.loops - 1) ∧
    (let p := [0, 0, 1, 0] ++ zeros 44; let a := asked 0x0301 p (unit .dark)
     dueFor 0x0301 p (unit .dark) = true ∧ p.length = 48 ∧ fld p 3 1 = 0 ∧ fld p 2 1 < 32 ∧ paramsBad a p = false ∧
     bit (fld p 2 1) 0 = true ∧ jetCycles a 0 (bankOf (sub p 4 32)) ≤ jetRoom a) ∧
    (let p := [0, 0, 0x1E, 0] ++ zeros 40 ++ [1, 0, 0, 0]; let a := asked 0x0301 p (unit .dark)
     dueFor 0x0301 p (unit .dark) = true ∧ p.length = 48 ∧ fld p 2 1 < 32 ∧ paramsBad a p = false ∧ bit (fld p 2 1) 0 = false) ∧
    (let p := [0, 0, 1, 0]; let a := asked 0x0302 p (unit .dark)
     dueFor 0x0302 p (unit .dark) = true ∧ fld p 2 1 = 1 ∧ forerunnerOn a 0 = false ∧ (loopOf a 0).enabled = false) ∧
    (let p := [0xFF, 7, 0, 0]; let a := asked 0x0302 p (unit .dark)
     dueFor 0x0302 p (unit .dark) = true ∧ fld p 0 2 < a.part.cells ∧ fld p 2 1 = 0 ∧ onPath a 2047 = false) ∧
    (let p := [0, 0, 0, 0]; let a := asked 0x0303 p (unit .dark)
     dueFor 0x0303 p (unit .dark) = true ∧ inSvc a.sys.mode = true ∧ recentreBad a 0 = false) ∧
    (let p := [0, 0, 1, 0]; let a := asked 0x0304 p (unit .dark)
     let n := htrIdx 0 (loopOf a 0).desc.htrB
     dueFor 0x0304 p (unit .dark) = true ∧ (htrOf a n).range ≠ decide (fld p 2 1 = 1) ∧ (htrOf a n).rcBusy = false ∧
     frozenCell a 0 = false ∧ dueFor 0x0304 [0, 0, 0, 0] (unit .dark) = true ∧ (htrOf a n).range = decide (fld [0, 0, 0, 0] 2 1 = 1)) ∧
    (let p := [0, 0, 1, 0]
     let s := { unit .dark with dac := { htr := [(0, { rcBusy := true })] } }
     let o := { unit .dark with fab := { cond := [(0, 3)] } }
     dueFor 0x0304 p s = true ∧ (htrOf (asked 0x0304 p s) (htrIdx 0 (loopOf (asked 0x0304 p s) 0).desc.htrB)).rcBusy = true ∧
     dueFor 0x0304 p o = true ∧ frozenCell (asked 0x0304 p o) 0 = true ∧ 0 < (asked 0x0304 p o).part.cells) ∧
    (dueFor 0x0305 [2, 0, 0, 0] (unit .calibrate) = true ∧ fld [2, 0, 0, 0] 0 1 ≤ 2) ∧
    (let p := le 4 604800 ++ [1, 0, 1, 0]
     dueFor 0x0306 p (unit .operate) = true ∧ fld p 0 4 = 604800 ∧ fld p 4 1 ≠ 0 ∧ fld p 5 1 = 0 ∧ fld p 6 2 ≠ 0) := by decide +kernel

theorem test_wells_case :
    let s := { unit .operate with
      tb := { now := ns 1200 }
      wells := [(0, { pdState := false, wakeAt := some 0, win := [(0, { clips := 4 }), (71, { lows := 1024 })], chan := [(0, { gain := 1 })] })] }
    let a := begun 0 s
    let x := wellOf a 0
    awake a = true ∧ schedOk x 71 (schedFrom 0x80000047) = true ∧ chanOk (chanFrom 0x00000800) = true ∧
    (chanFrom 0x00000800).filtK = 0 ∧ a.pwr.refclk = true ∧
    x.wakeAt = some 0 ∧ 0 + ns 1200 ≤ a.tb.now ∧ 4 ≤ (sget {} x.win 0 : Window).clips ∧ (chanOf x 0).gain ≠ 0 ∧
    1024 ≤ (sget {} x.win 71 : Window).lows ∧ (chanOf x 71).gain ≠ 3 := by decide +kernel

/-- R57 and R362: a full-scale frame tags the results of its two entries and of the eight background entries clipped, each at its own
instant. -/
theorem test_wellFrame_clips : 67 < Part.kx256.jets + Part.kx256.spares ∧
    let x := frameClips 0 (List.replicate 80 16383) { pdState := false, sched := [(0, { en := true, chan := 0 }), (3, { en := true, chan := 5 })] }
    x.length = 10 ∧ x.take 3 = [0, 3 * 12500 * 65536 / 1000, 72 * 12500 * 65536 / 1000] := by decide +kernel

/-- A RECENTRE of cell 0 that waits for the round start, with a code. -/
def recentring (base : BitVec 40) : State :=
  let t := told 0x0303 [0, 0, 0, 0] (unit .dark)
  { t with mbx := { t.mbx with cmds := [{ cmdOf 0x0303 with started := true }] },
           jets := { loops := [(0, { desc := { base := base } })] } }

theorem test_recentre_case : ([0x80000000, 0xFFFFFFFF00] : List (BitVec 40)).all (fun b => let u := recentring b
    decide (u.mbx.cmds = [{ cmdOf 0x0303 with started := true }] ∧ fld (slotPayload u 0) 0 2 = 0 ∧ litThrough u 0 = false ∧
      ((recentreOf u 0).1 = 0 ↔ b = 0x80000000))) = true := by decide +kernel

theorem test_takeovers_case :
    let s := { unit .operate with wells := [(0, { failed := true })], jets := { regs := [(0, { failed := true })] } }
    let a := begun 0 s
    awake a = true ∧ fwLive a = true ∧ a.sys.mode ≠ .safe ∧ (wellOf a 0).failed = true ∧ (wellOf a 0).away = false ∧
    a.dike.wellSpare.contains (spareGroup a.part 0) = false ∧ (wellOf a (spareWell a.part 0)).failed = false ∧
    (jetOf a 0).takenBy = none ∧ (jetOf a 0).failed = true ∧ a.dike.jetSpare.contains (spareGroup a.part 0) = false ∧
    (jetOf a (a.part.jets + spareGroup a.part 0)).failed = false ∧ seqBusy a.fab = false ∧ insertingIn a 0 = false := by decide +kernel

/-- A unit with ladders in both owners' hands, and in range changes that no command, and one, waits for. -/
def ladders : State :=
  { unit .operate with
    dac := { htr := [(7, { own := true, rcBusy := true }), (9, { rcBusy := true, rcSlot := some 7 }), (4094, { own := true }), (4095, { own := true })],
             port := [(255, { own := true, safeCode := 3 }), (511, { own := true })], flip := [(0, { level := true }), (2047, { own := true })] }
    fab := { cond := [(0, 1), (1, 3)] } }

theorem test_ladders_case : let a := begun 0 ladders
    awake a = true ∧ a.pwr.refclk = true ∧ a.sys.mode ≠ .safe ∧ 4095 < 2 * a.part.cells ∧ (htrOf a 4095).own = true ∧
    (htrOf a 4094).own = true ∧ 4094 = htrIdx (4094 / 2) (loopOf a (4094 / 2)).desc.htrB ∧ (htrOf a 4095).rcBusy = false ∧
    (htrOf a 0).own = false ∧ (htrOf a 0).rcBusy = false ∧ (htrOf a 0).range = false ∧ mayTurn a 0 = true ∧
    (portDacOf a 255).own = true ∧ (portDacOf a 511).own = true ∧ (portDacOf a 0).own = false ∧ 511 < 256 + a.part.ports ∧
    (flipOf a 2047).own = true ∧ (flipOf a 0).own = false ∧ condAt a.fab 2047 = .good ∧ condAt a.fab 0 = .stuckBar ∧
    frozenCell a (2 / 2) = true ∧ frozenCell a (4095 / 2) = false ∧ frozenCell a (0 / 2) = false ∧ 2 < 2 * a.part.cells ∧
    (0xC0000005 : W32).getLsbD 30 ≠ (htrOf a 0).range ∧ (0x80000005 : W32).getLsbD 30 = (htrOf a 0).range ∧
    (htrOf a 7).rcBusy = true ∧ (htrOf a 7).rcSlot = none ∧ (htrOf a 9).rcSlot = some 7 ∧
    (begun 0 (unit .safe)).sys.mode = .safe := by
  decide +kernel

/-- R77 and R34: each owner's write; the heater that is not in use stays at code 0. -/
theorem test_dacWrite_owner : (next (.dacWrite 0 (.htr 4094) true 5) ladders).map (fun t => ((htrOf t 4094).code, t.out)) = some (5, []) ∧
    (next (.dacWrite 0 (.htr 4095) true 5) ladders).map (fun t => (htrOf t 4095).code) = some 0 ∧
    (next (.dacWrite 0 (.flip 2047) false 0x80000000) ladders).map (·.out) = some [.busError] := by decide +kernel

theorem test_jets_case :
    let s := { unit .operate with jets := { regs := [(67, { skipped := 17 })] }, fab := { conns := [(0, 0)] } }
    let a := begun 0 s
    awake a = true ∧ a.pwr.refclk = true ∧ fwLive a = true ∧ 63 < a.part.jets ∧ (jetOf a 67).limit.toNat < (jetOf a 67).skipped ∧
    67 < a.part.jets + a.part.spares ∧
    (slotCycles a 67 fun k x => (x.desc.kind, if ([0, 31] : List Nat).contains k then x.shadow else x.coming)) ≤ jetRoom a ∧
    (loopOf a 0).lock = false ∧ onPath a 0 = true ∧
    (begun 0 (unit .safe)).sys.mode = .safe ∧ a.sys.mode ≠ .safe := by decide +kernel

/-- A unit whose Jet 0 has swaps asked for in its cells' slots, and would break its slot budget with those of the others as well. -/
def heavy : State :=
  let bank : Bank := { a := List.replicate 8 1 }
  { unit .operate with jets := { loops := (loopsOfJet .kx256 0).map fun l =>
      (l, { desc := { kind := kindOf .kx256 l }, bank1 := bank, swap := decide (l < 2048) }) } }

theorem test_swap_case : let a := begun 0 heavy
    a.pwr.refclk = true ∧
    jetRoom a < slotCycles a 0 fun k x =>
      (x.desc.kind, if ((ones 8 (0xFF : W32)).map (32 + ·)).contains k then x.shadow else x.coming) := by
  decide +kernel

/-- R64: a well result keeps its tag, gain and value. -/
theorem test_stepGain : (chanOf (applyPend (stepGain (ns 100) 3 2 { pdState := false })) 3).gain = 2 := by decide +kernel

/-- R79: a write to a ladder in the other owner's hands changes nothing and is answered with an error. -/
theorem test_dacWrite_refused : (next (.dacWrite 0 (.htr 0) true 5) (unit .dark)).map (fun t => (t.out, (htrOf t 0).code)) =
    some ([.busError], 0) := by decide +kernel

/-- R95: the level that stands leaves the signs, and a rise counts a flip. -/
theorem test_levelWrite_case : let s := { unit .operate with jets := { loops := [(2047, { desc := { con := 3 } })] } }
    (flipOf s 2047).level = false ∧ (loopOf (writeLevel 2047 false s) 2047).desc.con = 3 ∧
    (loopOf (writeLevel 2047 true s) 2047).desc.con = -3 ∧ (sget {} (writeLevel 2047 true s).wear 2047 : Wear).addFlips = 1 := by
  decide +kernel

/-- R268: the largest response, in the last slot. -/
theorem test_response_case : (7 : Nat) < 8 ∧ (zeros 4080).length ≤ 4080 ∧ slotBase 7 + (16 + 4080) = 0x9000 := by decide +kernel

/-! ### Calendars, entries and the Sluice -/

/-- A bank of one window, from instant 0, in a cycle of 1 ms, with configuration 7. -/
def bank : CalBank := { hdr := zeros 12 ++ le 4 1000000 ++ le 2 1 ++ zeros 14, ents := [(0, zeros 6 ++ le 2 7 ++ zeros 8)] }

/-- A unit in Operate with time locked and a domain's calendar given. -/
def timed (v : SlcDom) : State := { unit .operate with tb := { ts := .locked }, slc := { dom := [(15, v)] } }

theorem test_calendars_case :
    (let p := [15, 1, 0xFF, 0x0F] ++ le 2 1 ++ zeros 2 ++ zeros 32 ++ zeros 16
     dueFor 0x0400 p (unit .dark) = true ∧ 8 ≤ p.length ∧ p.length = 40 + 16 * fld p 4 2 ∧ fld p 2 2 + fld p 4 2 = 4096) ∧
    (let a := asked 0x0401 [15, 0, 0, 0] (unit .dark)
     dueFor 0x0401 [15, 0, 0, 0] (unit .dark) = true ∧ inSvc a.sys.mode = true ∧ roleLit a.sys.role = true ∧ noDefer a = false) ∧
    dueFor 0x0402 [0, 0, 0, 0] (unit .maintenance) = true ∧
    (let p := [15, 1, 0x04, 0x0F] ++ le 2 252 ++ zeros 2
     dueFor 0x0403 p (unit .calibrate) = true ∧ fld p 1 1 ≤ 1 ∧ fld p 4 2 = 252 ∧ fld p 2 2 + fld p 4 2 = 4096) ∧
    dueFor 0x0404 [15, 0, 0, 0] (unit .operate .standby) = true := by decide +kernel

theorem test_calCommitDone_case :
    let k : SlotCmd := { cmdOf 0x0401 with deferred := true, started := true }
    let s := timed { checkAt := some 0, bank1 := bank }
    let a := begun 0 { s with mbx := { s.mbx with cmds := [k] } }
    let x := commitCal (aboutCmd (some k)) 15 (modDom 15 (fun v => { v with checkAt := none }) a)
    awake a = true ∧ fwLive a = true ∧ ((List.range 16).find? fun d => (slcDom a d).checkAt.isSome) = some 15 ∧
    deferredCmd a 0x0401 = some k ∧ commitTurn a k.acc (((calOf (slcDom a 15).shadow).map Cal.names).getD []) = true ∧
    x.2.1 = true := by decide +kernel

theorem test_calendarCourse_case :
    (let a := begun 0 (timed { waiting := true, bank1 := bank })
     awake a = true ∧ (calWaiting (slcDom a 15)).map (·.cycle) = some (ns 1000000)) ∧
    (let a := begun 0 (timed { state := .running, bank0 := bank })
     awake a = true ∧ (calActive (slcDom a 15)).map (·.count) = some 1 ∧ (slcDom a 15).waiting = false) ∧
    (let a := begun 0 (timed { state := .suspended, bank0 := bank, resume := some (ns 1000000) })
     awake a = true ∧ sluiceRuns a = true ∧ (slcDom a 15).resume = some (ns 1000000) ∧
     (calActive (slcDom a 15)).map (fun c => (c.at (ns 1000000)).1 * c.count + (c.at (ns 1000000)).2) = some 1 ∧
     (slcDom a 15).cycle = 0 ∧ (slcDom a 15).entry.toNat = 0) := by decide +kernel

theorem test_tracking_case :
    (let p := [63, 0, 0, 0] ++ le 4 5; let a := asked 0x0500 p (unit .dark)
     dueFor 0x0500 p (unit .dark) = true ∧ fld p 1 1 = 0 ∧
     (∀ t ∈ a.trk.trains, t.2.bound = true → t.2.id = BitVec.ofNat 32 (fld p 4 4) → t.1 = fld p 0 1)) ∧
    (let p := [63, 1, 0, 0] ++ zeros 4
     dueFor 0x0500 p (unit .dark) = true ∧ fld p 1 1 = 1 ∧ (BitVec.ofNat 32 (fld p 4 4) : W32) = 0) ∧
    dueFor 0x0501 [63, 0, 0, 0] (unit .dark) = true ∧ dueFor 0x0506 (zeros 64) (unit .operate) = true ∧
    (let p := le 2 0 ++ le 2 1 ++ le 2 0 ++ le 2 511 ++ le 2 1 ++ zeros 2
     dueFor 0x0507 p (unit .operate) = true ∧ fld p 10 2 = 0 ∧ fld p 2 2 ≠ 0 ∧ fld p 6 2 = 511 ∧ fld p 8 2 ≠ 0) := by decide +kernel

/-- A small unit in which an entry for configuration 7 of domain 0 is staged at 8191. -/
def staging (routedAlready : Bool) : State :=
  let s := unit .dark
  { s with part := .kx064
           fab := { s.fab with dom := { disc := [(0, .tracked)] }
                               configs := [(7, { valid := true, scope := 1, entryRouted := routedAlready })] }
           slc := { staged := [(8191, [0, 0, 0x80, 0, 7, 0] ++ zeros 26)] } }

theorem test_entries_case :
    (let p := le 2 8191 ++ le 2 1 ++ zeros 4 ++ zeros 32
     dueFor 0x0502 p (unit .dark) = true ∧ p.length = 8 + 32 * fld p 2 2 ∧
     (∀ i < fld p 2 2, rsvd (writtenEntry p i) 3 1 = false ∧ rsvd (writtenEntry p i) 6 2 = false ∧ rsvd (writtenEntry p i) 16 16 = false) ∧
     fld p 0 2 + fld p 2 2 = 8192) ∧
    (let p := zeros 4; let a := asked 0x0503 p (staging true)
     dueFor 0x0503 p (staging true) = true ∧ entryFails a = none ∧ unroutedOf a = []) ∧
    (let p := zeros 4; let a := asked 0x0503 p (staging false)
     dueFor 0x0503 p (staging false) = true ∧ entryFails a = none ∧ unroutedOf a ≠ [] ∧ noDefer a = false) ∧
    (let p := le 2 8191 ++ le 2 1; let a := asked 0x0504 p (unit .dark)
     dueFor 0x0504 p (unit .dark) = true ∧
     (∀ n ∈ entryRange p, (sget {} a.slc.entries n : TEntry).used = true → (sget {} a.slc.entries n : TEntry).state ≠ .armed)) ∧
    (dueFor 0x0505 (le 2 8065 ++ le 2 127) (unit .dark) = true ∧ 8065 + 127 = 8192) := by decide +kernel

theorem test_entryCommitDone_case :
    let k : SlotCmd := { cmdOf 0x0503 with deferred := true, started := true }
    let s := staging false
    let a := begun 0 { s with mbx := { s.mbx with cmds := [k] }, slc := { s.slc with commitSlot := some 0 } }
    let b := { a with slc := { a.slc with commitSlot := none } }
    let x := routeAll6 (unroutedOf b) (placeStaged b)
    awake a = true ∧ fwLive a = true ∧ a.slc.commitSlot = some 0 ∧ deferredCmd a 0x0503 = some k ∧
    commitTurn a k.acc (unroutedOf a) = true ∧ x.2 = none ∧ armedStaged b = none := by
  decide +kernel

/-- A unit whose entry 8191 is due to fire. -/
def firing : State :=
  { unit .operate with tb := { ts := .locked, now := ns 5000 },
                       slc := { entries := [(8191, { used := true, domain := 15, state := .scheduled, tFire := ns 5000 })] } }

theorem test_sluice_case : let a := begun 0 firing
    let n : TEntry := sget {} a.slc.entries 8191
    let w := begun 0 { firing with slc := { firing.slc with recheckAt := some (ns 5000), recheck := [(true, 15, 8191, ns 4900)] } }
    let c := begun 0 (timed { state := .running, bank0 := bank })
    awake a = true ∧ sluiceRuns a = true ∧ (a.slc.prep.any fun p => p.tracked == true && p.domain == 15 && p.entry == 8191) = false ∧
    n.used = true ∧ n.domain = 15 ∧ n.state = .scheduled ∧ n.tFire ≤ a.tb.now + ns 1000000 ∧ a.slc.prep.length < 256 ∧
    (dueNow a true 15 8191).isSome = true ∧ recheckRuns a = false ∧ recheckRuns w = true ∧ a.slc.recheck = [] ∧
    w.slc.recheck = [(true, 15, 8191, ns 4900)] ∧
    (dueSince (ns 4900) { w with slc := { w.slc with recheckAt := none, recheck := [] } } true 15 8191).isSome = true ∧
    awake c = true ∧ sluiceRuns c = true ∧ (toPrepare c false 15 0).isSome = true ∧ (dueNow c false 15 0).isSome = true ∧
    recheckRuns c = false := by decide +kernel

/-- A telegram for train 5, of a corridor, sequence and fix; its CRC sound or not. -/
def telegramOf (corridor seq : Nat) (fix : Time) (sound : Bool := true) : List Byte :=
  let p := le 2 0x5054 ++ le 1 1 ++ le 1 0 ++ le 2 corridor ++ le 2 0 ++ le 4 5 ++ le 4 seq ++ timeBytes fix ++ zeros 32
  p ++ le 4 ((crc32c p).toNat + flag (!sound))

/-- A sound one of corridor 0. -/
abbrev telegram : List Byte := telegramOf 0 1 (ns 5000)

/-- A unit with train 5 bound to slot 63. -/
def tracking (r : Train := { id := 5, bound := true }) : State := { firing with trk := { trains := [(63, r)] } }

/-- The checks of a telegram, each as it passes, by the record of slot 63. -/
def passes (s : State) (stamp : Time) (p : List Byte) : List Bool :=
  let fix := timeOf p 16
  let n := (BitVec.ofNat 32 (fld p 12 4) - (trainOf s 63).seq).toNat
  [decide (p.length = 64 ∧ fld p 0 2 = 0x5054 ∧ fld p 2 1 = 1 ∧ fld p 3 1 < 4 ∧ fld p 52 8 = 0 ∧ timeOk p 16 = true),
   decide (fld p 60 4 = (crc32c (p.take 60)).toNat), decide (fld p 4 2 = s.trk.corridor.toNat),
   decide (slotOfTrain s (BitVec.ofNat 32 (fld p 8 4)) = some 63), decide (s.tb.ts ≠ .free ∧ s.tb.ts ≠ .acquiring),
   decide (tdiff fix stamp ≤ (ns 1000000 : Nat)), decide (tdiff stamp fix ≤ (ns 1000000 * s.trk.ageMax.toNat : Nat)),
   decide ((trainOf s 63).valid = true → 1 ≤ n ∧ n < 2 ^ 31), decide ((trainOf s 63).valid = true → later fix (trainOf s 63).fix = true),
   roleLit s.sys.role]

/-- A telegram for each code, which fails that check first. -/
theorem test_telegram_case :
    let known : Train := { id := 5, bound := true, valid := true, fix := ns 5000, seq := 1 }
    let at_ := fun s p => ((telegramCheck s (ns 5000) p).1, (passes s (ns 5000) p).takeWhile id |>.length)
    at_ (tracking) telegram = (0, 10) ∧ at_ (tracking) [] = (1, 0) ∧ at_ (tracking) (telegramOf 0 1 (ns 5000) false) = (2, 1) ∧
    at_ (tracking) (telegramOf 1 1 (ns 5000)) = (3, 2) ∧ at_ firing telegram = (4, 3) ∧
    at_ { tracking with tb := { tracking.tb with ts := .free } } telegram = (5, 4) ∧
    at_ (tracking) (telegramOf 0 1 (ns 1005001)) = (6, 5) ∧
    at_ { tracking with trk := { tracking.trk with ageMax := 0 } } (telegramOf 0 1 (ns 4999)) = (7, 6) ∧
    at_ (tracking known) (telegramOf 0 1 (ns 5001)) = (8, 7) ∧ at_ (tracking known) (telegramOf 0 2 (ns 5000)) = (9, 8) ∧
    at_ { tracking with sys := { (tracking).sys with role := .standby } } telegram = (10, 9) := by decide +kernel

theorem test_instants_case : -(2 ^ 63 : Int) ≤ (0 : Nat) - (2 ^ 63 : Nat) ∧ (2 ^ 63 : Nat) - (1 : Nat) < (2 ^ 63 : Int) ∧ timeWf (2 ^ 48 * (1000000000 * 65536) - 1) = true ∧
    timeOf (timeBytes (2 ^ 48 * (1000000000 * 65536) - 1)) 0 = 2 ^ 48 * (1000000000 * 65536) - 1 ∧ later 5 3 = true ∧ later 3 5 = false := by
  decide +kernel

theorem test_window_of_instant_case : let c : Cal := { base := 10, cycle := 100, offs := [0, 40], cfgs := [none, none] }
    c.offs.Pairwise (· < ·) ∧ c.offs.head? = some 0 ∧ (∀ o ∈ c.offs, o < c.cycle) ∧ c.base ≤ 10 ∧
    c.at 10 = (0, 0) ∧ c.at 49 = (0, 0) ∧ c.at 50 = (0, 1) ∧ c.at 109 = (0, 1) ∧ c.at 110 = (1, 0) := by decide +kernel

/-! ### The Weir and the lanes -/

/-- A request of port 63 for one frame of 1,000 bytes in queue 7. -/
def wreq : List Byte :=
  let m := le 1 1 ++ le 1 63 ++ le 1 7 ++ zeros 1 ++ le 3 1000 ++ zeros 1 ++ le 2 9 ++ zeros 2
  m ++ le 4 (crc32c m).toNat

/-- A small unit whose port 63 is served by domain 15's calendar, which joins it to egress port 5 throughout. -/
def granting : State :=
  let s := timed { state := .running, bank0 := bank }
  { s with part := .kx064
           fab := { dom := { ing := [(63, 15)], egr := [(5, 15)], disc := [(15, .calendar)] },
                    configs := [(7, { valid := true, scope := 0x8000, ports := bitAt 256 63, conn := [(63, 6)] })] }
           weir := { laneEn := 0xFF, lanes := [(7, { up := true })], port := [(63, { lineRate := 10000, maxFit := 1000000 })] } }

/-- The same with a request in queue. -/
def queued : State :=
  { granting with weir := { granting.weir with queue := [(511, { reqs := [⟨1000, 9, 0⟩] })] } }

theorem test_weirCommands_case :
    (let p := le 2 63 ++ zeros 2 ++ le 4 (200000 * 2 ^ 14) ++ le 4 (40000 * 2 ^ 16) ++ le 4 (200000 * 2 ^ 14) ++ zeros 4
     let s := { unit .dark with part := .kx064 }
     dueFor 0x0600 p s = true ∧ fld p 2 2 = 0 ∧ bits (fld p 4 4) 13 6 = 0 ∧ bits (fld p 4 4) 31 14 = 200000 ∧
     bits (fld p 8 4) 31 16 = 40000 ∧ bits (fld p 8 4) 15 10 = 0 ∧ bits (fld p 12 4) 31 14 ≤ 200000 ∧
     calHolds (asked 0x0600 p s) 63 = false) ∧
    (let p := le 2 2047 ++ zeros 2 ++ le 4 1 ++ le 4 (200000 * 2 ^ 14 + 32) ++ le 4 1 ++ le 4 1
     dueFor 0x0601 p (unit .operate) = true ∧ fld p 0 2 < 8 * Part.kx256.ports ∧ bits (fld p 8 4) 5 0 = 32 ∧ bits (fld p 8 4) 13 6 = 0 ∧
     bits (fld p 4 4) 31 14 ≤ bits (fld p 8 4) 31 14 ∧ bits (fld p 8 4) 31 14 = 200000 ∧ bits (fld p 4 4) 7 0 ≠ 0 ∧
     bits (fld p 4 4) 13 9 = 0 ∧ fld p 12 4 ≠ 0 ∧ fld p 16 4 ≠ 0) ∧
    dueFor 0x0602 [0x7F, 0, 0, 0] (unit .calibrate) = true ∧
    (dueFor 0x0603 [255, 0, 0, 0] (unit .operate) = true ∧ fld [255, 0, 0, 0] 0 2 < Part.kx256.ports) := by decide +kernel

theorem test_lanes_case : let a := begun 0 granting
    awake a = true ∧ a.weir.laneEn.getLsbD 7 = true ∧ a.cld.laneEn.getLsbD 1 = true ∧ a.pwr.refclk = true ∧
    (sget {} a.weir.lanes 7 : Lane).up = true ∧ laneOf a.part 63 = 7 ∧
    (let a := begun 0 { granting with cld := { lane0 := { up := true }, lane1 := { up := true } } }
     (cldLane a 0).up = true ∧ (cldLane a (1 - 0)).up = true ∧ (cldLane a (1 - 1)).up = true) := by decide +kernel

theorem test_request_case : let a := begun 0 granting
    crcOk wreq = true ∧ fld wreq 0 1 = 1 ∧ fld wreq 1 1 = 63 ∧ 63 < a.part.ports ∧ roleLit a.sys.role = true ∧
    (let k := 8 * 63 + fld wreq 2 1 % 8
     let u := count 0x0205 1 a
     let b := countedLen (wportOf u 63) (fld wreq 4 3)
     let x := (wqueueOf u k).meter a.tb.now (bits (fld wreq 2 1) 4 3) b
     k = 511 ∧ requestOk wreq = true ∧ scheduled u 63 = true ∧ b ≤ (wportOf u 63).maxFit ∧ x.1 ≠ 2 ∧
     x.2.reqs.length < (if x.1 = 0 then 32 else x.2.yelMax.toNat)) := by decide +kernel

/-- R217: the request stands in its queue; R223: it is granted at GLEAD, behind the guard, in the running window. -/
theorem test_request_queued : (next (.weirRequest 0 7 wreq) granting).map (fun t => (wqueueOf t 511).reqs) = some [⟨1000, 9, 0⟩] := by
  decide +kernel

theorem test_grant_case : let a := begun 0 queued
    sluiceRuns a = true ∧ scheduled a 63 = true ∧ (slcDom a (domOf a.fab 63)).state ≠ .suspended ∧ readyQueues a 63 ≠ [] ∧
    (let v := wportOf a 63
     let t0 := max v.nextFree (max (a.tb.now + ns v.glead.toNat) (v.shapedAt a.tb.now))
     firstIv a 63 t0 (grantIn a 63 t0) = some (ns 5000, 511)) := by decide +kernel

/-! ### Time -/

theorem test_timeCommands_case :
    (let p := [63, 0, 0, 0] ++ le 4 0x00000001 ++ le 4 10 ++ le 4 (50 * 2 ^ 26 + 86400) ++ le 4 0xFFFF ++ zeros 16
     dueFor 0x0700 p (unit .operate) = true ∧ p.length = 36 ∧ fld p 0 1 = 63 ∧ fld p 4 4 &&& 0x07000F1E = 0 ∧
     fld p 8 4 &&& 0xC0000000 = 0 ∧ fld p 12 4 &&& 0x03FE0000 = 0 ∧ fld p 16 4 &&& 0xFFFF0000 = 0 ∧ timeUnmarked p = false ∧
     timeRefused p = false) ∧
    (dueFor 0x0701 [] (unit .operate) = true ∧
     (asked 0x0701 [] (unit .operate)).servo.master = none) ∧
    (let s := { unit .operate with tb := { src := 2 } }; let a := asked 0x0702 (zeros 8) s
     dueFor 0x0702 (zeros 8) s = true ∧ a.tb.ts = .free ∧ a.tb.src = 2) ∧
    (let p := le 8 horizon; let a := asked 0x0703 p (unit .dark)
     dueFor 0x0703 p (unit .dark) = true ∧ (sgn 64 (fld p 0 8)).natAbs = horizon ∧ a.servo.step = none) ∧
    (let a := begun 0 { unit .operate with servo := { step := some (-5, none) } }
     awake a = true ∧ a.servo.step = some (-5, none) ∧ a.pwr.refclk = true) ∧
    (let a := begun 0 { unit .dark with servo := { step := some (5, some 7) } }
     awake a = true ∧ a.servo.step = some (5, some 7)) ∧
    (let p := [1, 8] ++ le 2 0x6FFE ++ le 4 0x0A000001 ++ [32, 0] ++ [2, 0, 0, 0, 0, 1] ++ zeros 32
     dueFor 0x0704 p (unit .operate) = true ∧ p.length = 48 ∧ fld p 1 1 = 8 ∧ fld p 2 2 % 4096 = 4094 ∧ bit (fld p 2 2) 15 = false ∧
     bit (fld p 10 1) 0 = false) := by decide +kernel

/-- A unit with a master on port 1, of clock identity 7. -/
def slaved : State :=
  let f : Foreign := ⟨7, 1, 128, 6, 0x21, 0x4E5D, 128, 7, 1, 37⟩
  { unit .operate with
    tb := { parent := true, p1En := true, p1 := { linkUp := true, addr := 0x0A000001, foreign := [f] } }
    servo := { hasParent := true, master := some f } }

theorem test_sources_case :
    (let a := begun 0 slaved
     let m : PtpMsg := ⟨0, 3, 7, 1, 0, .udp 0x0A000001, .sync false (ns 100) 0⟩
     awake a = true ∧ receives a 1 ⟨none, 64⟩ = true ∧ ptpPort a 1 = true ∧ ptpTo a 1 m = true ∧
     ptpTaken a m = true ∧ a.tb.src ≠ 2 ∧ fromParent a 1 m = true ∧ a.servo.hasParent = true ∧ a.servo.master.isSome = true ∧
     a.tb.src = 0) ∧
    (let a := begun 0 { slaved with tb := { slaved.tb with src := 1 }, servo := { slaved.servo with ppsLost := false } }
     a.tb.src = 1 ∧ a.servo.ppsLost = false ∧ a.servo.first = false ∧ a.servo.ptpOff = none) ∧
    (let a := begun 0 { slaved with tb := { slaved.tb with ts := .holdover, ppsOutEn := true }, servo := { ppsHigh := true, ppsFall := 9 } }
     a.tb.ts = .holdover ∧ a.sys.mode ≠ .reset ∧ a.pwr.refclk = true ∧ a.tb.ppsOutEn = true ∧ a.tb.ts ≠ .free ∧
     a.servo.ppsHigh = true) := by decide +kernel

theorem test_mgmt_case :
    let s := { slaved with trk := { trains := [(63, { id := 5, bound := true, valid := true })] } }
    let a := begun 0 s
    awake a = true ∧ receives a 1 ⟨none, 1522⟩ = true ∧ slcClock a = true ∧ inTurn a 1 (lineStamp (mgmtOf a 1) 7) = true ∧ a.trk.udpPort ≠ 0 ∧ 47806 = a.trk.udpPort.toNat ∧
    (mgmtOf a 1).addr ≠ 0 ∧ (mgmtOf a 1).addr = 0x0A000001 ∧ (trainOf a 63).bound = true ∧ (trainOf a 63).valid = true ∧
    (trainOf a 63).stale = false ∧ a.pwr.refclk = true := by decide +kernel

/-- R301: a port of another VLAN takes no frame, and its own take the tag. -/
theorem test_vlan : vlanOk { vlan := 0x6005 } (some 5) = true ∧ vlanOk { vlan := 0x6005 } none = false ∧
    tagOfPort { unit .operate with tb := { p0 := { vlan := 0x6005 } } } 0 = some 0xC005 := by decide +kernel

/-! ### The pair -/

/-- A unit with a partner on a link that is up, both lanes working. -/
def paired (m : Mode) (r : Role) : State :=
  { unit m r with cld := { present := true, linkUp := true, lane0 := { up := true }, lane1 := { up := true } } }

theorem test_pairCommands_case :
    (dueFor 0x0800 [0xC4, 9, 3, 0] (unit .operate) = true ∧ fld [0xC4, 9, 3, 0] 0 2 = 2500 ∧
     dueFor 0x0800 [0xE8, 3, 3, 0] (unit .operate) = true ∧ fld [0xE8, 3, 3, 0] 0 2 = 1000) ∧
    dueFor 0x0801 (le 4 cldW1c.toNat) (unit .operate) = true ∧ ((BitVec.ofNat 32 (fld (le 4 cldW1c.toNat) 0 4) : W32) &&& ~~~cldW1c = 0) ∧
    (let s := paired .operate .standby; let a := asked 0x0802 [0, 0, 0, 0] s
     dueFor 0x0802 [0, 0, 0, 0] s = true ∧ mayPromote a.sys.mode = true ∧ a.sys.role = .standby ∧ eligible a.sys = true ∧
     roleIn a = false ∧ a.pair.promo = none) ∧
    (let s := paired .operate .active
     let s := { s with cld := { s.cld with partner := { role := .standby, eligible := true } } }
     let p := timeBytes (10 * sec) ++ zeros 4
     let a := asked 0x0803 p s
     dueFor 0x0803 p s = true ∧ inService a.sys.mode = true ∧ a.sys.role = .active ∧ timeOk p 0 = true ∧
     timeOf p 0 = a.tb.now + 10 * sec ∧ noDefer a = false ∧ exchangeRefused a (timeOf p 0) = none) := by decide +kernel

/-- What the partner's release, and a takeover and an exchange under way, find. -/
def waitingFor (p : Option Promo) (e : Option Exch) : PairSt := { promo := p, exch := e, takeover := some (none, []) }

theorem test_roles_case :
    (let a := begun 0 (unit .operate)
     awake a = true ∧ a.cld.asserted = false ∧ ¬ (a.sys.role = .standby ∧ a.cld.present = true) ∧ a.cld.present = false ∧ a.sys.role = .solo) ∧
    (let s := paired .operate .standby
     let a := begun 0 { s with cld := { s.cld with asserted := true, armedBy := true } }
     a.cld.asserted = true ∧ a.cld.roleInA = false ∧ a.cld.roleInB = false ∧ eligible a.sys = true ∧ a.cld.armedBy = true ∧ a.pair.promo = none) ∧
    (let a := begun 0 { unit .operate .resync with cld := { roleInA := true } }
     a.cld.roleInA ≠ a.cld.roleInB ∧ a.cld.present = false ∧ roleIn a = true ∧ a.sys.role = .resync) ∧
    (let a := begun 0 { unit .operate .active with cld := { roleInA := true } }
     a.sys.role = .active ∧ roleIn a = true ∧ a.sys.sideB = false) ∧
    (let x : Promo := { tRec := 0, tProm := ns 1000 }
     let a := begun 0 { paired .degraded .standby with pair := waitingFor (some x) none }
     a.sys.mode ≠ .reset ∧ a.pair.promo = some x ∧ eligible (reach x.tProm a).sys = true ∧ roleIn (reach x.tProm a) = false ∧
     fwLive a = true ∧ a.pair.takeover = some (none, [])) ∧
    (let s := paired .operate .active
     let k : SlotCmd := { cmdOf 0x0803 with deferred := true, started := true }
     let a := begun 0 { s with pair := waitingFor none (some ⟨ns 9, 0⟩), mbx := { s.mbx with cmds := [k] } }
     a.sys.role = .active ∧ a.pair.exch = some ⟨ns 9, 0⟩ ∧
     deferredCmd (sendDue { reach (ns 9) a with pair := { (reach (ns 9) a).pair with exch := none } }) 0x0803 = some k) := by decide +kernel

/-- A mirrored deletion, a follow, a heartbeat and a request, as their messages. -/
def gone : Item := .entry 8191 none
def follow : Follow := { reconf := 3, config := 7, tClose := ns 5000 }
def beat : Heartbeat := { mode := .operate, role := .active, gap := 800 }

theorem test_messages_sent_case :
    (let a := begun 0 (paired .operate .active)
     (if a.cld.lane0.up then [0] else []) ++ (if a.cld.lane1.up then [1] else []) ≠ [] ∧ cldCanSend a = true ∧ a.cld.linkUp = true ∧ a.pwr.refclk = true) ∧
    (let a := begun 0 { paired .operate .active with pair := { outbox := [gone] } }
     a.sys.role = .active ∧ a.cld.pairMis = false ∧ a.pair.outbox = [gone]) ∧
    (let a := begun 0 { paired .operate .active with pair := { resyncOut := [.domains] } }
     a.pair.outbox = [] ∧ a.pair.resyncOut = [.domains] ∧ a.cld.linkUp = true) ∧
    (let s := paired .operate .active
     let a := begun 0 { s with cld := { s.cld with seqTx := 9 }, pair := { store := [.follow 9 follow] } }
     let m := cldSlots 4 0 9 []
     cldBad m = false ∧ fld m 0 1 = 4 ∧ fld m 1 1 = 0 ∧ a.sys.role = .active ∧ a.cld.pairMis = false ∧ cldCanSend a = true ∧
     (let n := (a.cld.seqTx + 1 - seqOf m).toNat
      n = 1 ∧ n < 2 ^ 31 ∧ (storedFrom a (seqOf m)).length = n)) := by decide +kernel

theorem test_messages_heard_case :
    (let a := begun 0 (paired .operate .standby)
     let m := cldSlots 1 0 5 (heartbeatBytes beat)
     (cldLane a 1).up = true ∧ cldBad (zeros 16) = true ∧ cldBad m = false ∧ fld m 0 1 = 1 ∧ heartbeatIn (m.drop 16) = some beat ∧
     a.cld.linkUp = true ∧ a.cld.mirrorStale = false ∧ a.sys.role ≠ .active ∧ beat.gap = a.jets.gap.toNat ∧
     beat.rate = a.jets.rate.toNat ∧ beat.part = a.part) ∧
    (let a := begun 0 (paired .operate .standby)
     let m := cldSlots 2 6 1 (zeros 48)
     cldBad m = false ∧ fld m 0 1 = 2 ∧ hears a = true ∧ a.sys.role = .standby ∧ seqOf m = a.cld.seqAck + 1 ∧ itemCode gone = fld m 2 2) ∧
    (let a := begun 0 (paired .operate .standby)
     let m := cldSlots 3 0 1 (followBytes a.part follow)
     cldBad m = false ∧ fld m 0 1 = 3 ∧ followIn (m.drop 16) = some follow ∧ hears a = true ∧ seqOf m = a.cld.seqAck + 1) := by
  decide +kernel

theorem test_resync_case :
    (let a := begun 0 (paired .operate .resync)
     let m := cldSlots 5 1 4 (zeros 16)
     cldBad m = false ∧ fld m 0 1 = 5 ∧ hears a = true ∧ a.sys.role = .resync ∧ fld m 2 2 = 1 ∧ itemCode (.domains {}) = 1 ∧
     mayPromote a.sys.mode = true) ∧
    (let s := { paired .operate .resync with pair := { resyncSeen := true } }
     let a := begun 0 s
     let m := cldSlots 5 6 1 (zeros 48)
     cldBad m = false ∧ hears a = true ∧ fld m 2 2 ≠ 1 ∧ itemCode gone = fld m 2 2 ∧ a.pair.resyncSeen = true ∧ seqOf m = a.cld.seqAck + 1) ∧
    (let a := begun 0 { paired .operate .resync with pair := { resyncDone := true, lastApplied := some ([], 0) } }
     resynced a = true ∧ fwLive a = true ∧ mayPromote a.sys.mode = true) := by decide +kernel

theorem test_link_case : cldBad (cldBytes .kx064 (.follow 3 follow)) = false ∧ heartbeatIn (heartbeatBytes beat) = some beat ∧
    followIn (followBytes .kx064 { follow with config := 0xFFFFFFFF, map := [(0, 63), (63, 0)] }) =
      some { follow with config := 0xFFFFFFFF, map := [(0, 63), (63, 0)] } ∧ timeWf follow.tClose = true := by decide +kernel

/-! ### Faults -/

theorem test_faultCommands_case :
    dueFor 0x0900 [] (unit .safe) = true ∧ (dueFor 0x0901 (zeros 24) (unit .operate) = true ∧ inRun Mode.operate = true) ∧
    (let p := [190, 1] ++ le 2 0xFFFF ++ [255, 0, 0, 0]; let q := [4, 0] ++ le 2 1 ++ [1, 0, 0, 0]
     dueFor 0x0902 p (unit .dark) = true ∧ fld p 1 1 = 1 ∧ srcAbsent .kx256 190 = false ∧ srcClass 190 = .minor ∧
     dueFor 0x0902 q (unit .dark) = true ∧ fld q 1 1 = 0 ∧ srcAbsent .kx256 4 = false) ∧
    (let s := { unit .maintenance with part := .kx128 }; let p := [164, 255, 0, 0]
     dueFor 0x0903 p s = true ∧ srcAbsent s.part 164 = false ∧ srcCheck 164 = true) ∧
    (let s := { unit .maintenance with pld := { lcBits := 7 } }; let a := asked 0x0903 [0, 100, 0, 0] s
     dueFor 0x0903 [0, 100, 0, 0] s = true ∧ dueFor 0x0903 [0, 101, 0, 0] s = true ∧ a.part = .kx256 ∧ lcNow a = .factory ∧
     srcCheck 0 = true ∧ noDefer a = false ∧ canInject a = true) ∧
    (let a := begun 0 (unit .operate)
     awake a = true ∧ a.pwr.refclk = true ∧ srcCheck 8 = false ∧ canInject a = false ∧ fwLive a = true) := by decide +kernel

/-- R326: the third check of an injection of three ends it. -/
theorem test_injection : (checkMade 164 { unit .maintenance with dike := { injSrc := 164, injLeft := 1, ftm := true } }).dike.ftm = false ∧
    (checkMade 164 { unit .maintenance with dike := { injSrc := 164, injLeft := 3 } }).dike.injLeft = 2 := by decide +kernel

theorem test_occurrence_case : let a := begun 0 (unit .operate)
    awake a = true ∧ srcAbsent a.part 191 = false ∧ a.dike.injLeft = 0 ∧ classCode (srcClass 156) < 2 ∧
    (classCode (srcClass 171) < 2 ∧ classCode (srcLasting 171) < 2 ∧ (src a.dike 171).lasting = false) ∧
    (let d := setSrc a.dike 171 { src a.dike 171 with lasting := true, winOpen := true, input := true, count := 1 }
     (src d 171).lasting = true ∧ (src d 171).winOpen = true) := by decide +kernel

/-- A small unit whose source 164 has so many occurrences in its window. -/
def counting (n : BitVec 8) (holds : Bool) : State :=
  { unit .operate with part := .kx064, dike := { src := [(164, { srcReset 164 with sticky := true, winOpen := true, count := n, input := holds })] } }

theorem test_major_case :
    (let a := begun 0 (unit .operate)
     srcClass 4 = .major ∧ srcClass 0 = .fatal ∧ srcAbsent a.part 4 = false ∧ a.sys.mode ≠ .safe) ∧
    (let a := begun 0 (unit .boot)
     awake a = true ∧ a.sys.mode ≠ .safe ∧ a.sys.fwRun = true) ∧
    (let a := begun 0 (counting 3 true)
     let v := src a.dike 164
     srcLasting 164 = .major ∧ v.lasting = false ∧ v.mask = false ∧ v.thresh.toNat ≤ (if v.winOpen then satInc v.count else 1).toNat) ∧
    (let v := src (begun 0 (counting 1 true)).dike 164
     v.lasting = false ∧ v.mask = false ∧ v.winOpen = true ∧ v.input = true ∧ v.count = 1) := by decide +kernel

/-- R317: a MAJOR source takes the unit to Safe. -/
theorem test_major : (next (.faultOccurrence 0 4 false) { unit .operate with part := .kx064 }).map
    (fun t => (t.sys.mode, t.dike.safeLine, t.pwr.halted)) = some (.safe, true, true) := by decide +kernel

/-- R314: the fourth occurrence in a window makes FLIP_READBACK lasting, of class MAJOR: every valve's ladder is at SAFE_CODE. -/
theorem test_lasting : (next (.faultOccurrence 0 164 false) (counting 3 false)).map
    (fun t => (t.sys.mode, (List.range 64).all fun n => (sget {} t.dac.port (256 + n) : PortDac).safe)) = some (.safe, true) ∧
    (next (.faultOccurrence 0 164 false) (counting 2 false)).map (·.sys.mode) = some .operate := by decide +kernel

/-! ### The bus -/

theorem test_bus_case :
    reached .kx256 .cladal .p0 0x40000000 = some .sluice ∧ reached .kx256 .capture .p0 0x40000000 = none ∧
    reached .kx256 .cpu .p1 (swapped true 0) = some .sram ∧ reached .kx256 .cpu .p1 (swapped false 0x60000000) = none ∧
    reached .kx256 .cpu .p0 (swapped false 0x60000000) = some .dike ∧
    (let a := begun 0 (unit .operate)
     awake a = true ∧ a.pwr.halted = false ∧ a.pwr.refclk = true ∧ a.plat.remap = false) ∧
    (let a := begun 0 { unit .operate with pwr := { (unit .operate).pwr with refclk := false } }
     awake a = true ∧ a.pwr.refclk = false) := by decide +kernel

/-- R372 and R43: a word of the condition table in the Basin sets four cells' conditions. -/
theorem test_basin : let f := (writeBasin 0x09500004 0x03000201 (unit .dark)).fab
    (List.range 9).map (condAt f) = [.good, .good, .good, .good, .stuckBar, .stuckCross, .good, .opaqueCell, .good] := by decide +kernel

/-- An event of source 319 accepted at instant 0, one just within 16 ns and one 16 ns later. -/
theorem test_refractory_case : let s := { unit .dark with plat := { lastEv := [(319, 0 + 1)] } }
    sget 0 s.plat.lastEv 319 = 0 + 1 ∧ ns 16 - 1 < 0 + ns 16 ∧ 0 + ns 16 ≤ ns 16 ∧
    (acceptEv 319 (ns 16 - 1) s).2 = false ∧ (acceptEv 319 (ns 16) s).2 = true := by decide +kernel

/-! ### Diagnostics, wear and temperature -/

theorem test_diagnostics_case :
    (let s := unit .maintenance
     (let p := le 2 0 ++ le 2 2560 ++ le 2 1 ++ [1, 1] ++ le 2 2048 ++ le 2 0; let a := asked 0x0A00 p s
      dueFor 0x0A00 p s = true ∧ fld p 0 2 + fld p 2 2 ≤ a.part.loops ∧ a.sys.throttle = false) ∧
     dueFor 0x0A01 [0, 0, 0, 0] s = true ∧
     (let p := zeros 8 ++ le 4 4064
      dueFor 0x0A02 p (unit .safe) = true ∧ fld p 0 8 % 16 = 0 ∧ fld p 8 4 % 16 = 0 ∧ fld p 8 4 = 4064) ∧
     (let p := [0, 1] ++ le 2 2559 ++ [0, 0] ++ le 2 4095 ++ le 4 (2 ^ 22) ++ zeros 4; let a := asked 0x0A03 p s
      dueFor 0x0A03 p s = true ∧ fld p 2 2 < a.part.loops ∧ onPath a 2559 = false ∧ fld p 8 4 = 2 ^ 22) ∧
     (let p := [1, 0] ++ le 2 2047 ++ [1, 0] ++ le 2 15 ++ zeros 8; let a := asked 0x0A03 p s
      dueFor 0x0A03 p s = true ∧ fld p 2 2 < a.part.cells ∧ onPath a 2047 = false) ∧
     dueFor 0x0A03 ([2, 0] ++ zeros 14) s = true) ∧
    awake (begun 0 (unit .operate)) = true ∧ dueFor 0x0A04 [] (unit .safe) = true ∧
    (let p := [6, 0] ++ le 2 0 ++ le 2 800 ++ le 2 800 ++ le 2 16 ++ le 2 1000
     dueFor 0x0A05 p (unit .operate) = true ∧ p.length = 12 ∧ tempCfgBad p = false) ∧
    (let p := le 2 1794 ++ le 2 254
     dueFor 0x0A06 p (unit .safe) = true ∧ fld p 0 2 + fld p 2 2 = Part.kx256.cells) ∧
    (let p := [63, 0, 0, 0] ++ le 2 0x0205 ++ zeros 10; let q := [0, 3, 0, 0] ++ zeros 12
     dueFor 0x0A07 p (unit .operate) = true ∧ fld p 15 1 = 0 ∧ selectOk (sub p 4 12) = true ∧ dueFor 0x0A07 q (unit .operate) = true) ∧
    dueFor 0x0A08 [0, 64, 0, 0] (unit .safe) = true := by decide +kernel

theorem test_wear_case :
    (let a := begun 0 { unit .dark with temp := { busy := true } }
     awake a = true ∧ fwLive a = true ∧ a.temp.busy = true) ∧
    (let p := le 2 2047 ++ le 2 0; let s := unit .dark; let a := asked 0x0307 p s
     dueFor 0x0307 p s = true ∧ inSvc a.sys.mode = true ∧ fld p 0 2 < a.part.cells ∧ (loopOf a 2047).desc.htrB = false ∧
     condAt (hold (cmdOf 0x0307) a).fab 2047 ≠ .opaqueCell ∧
     insertOf (hold (cmdOf 0x0307) a).fab 2047 = none ∧ unlit (hold (cmdOf 0x0307) a) = true) ∧
    (let p := le 2 2047 ++ le 2 0
     let i : Insert := { cell := 2047, tIns := ns 100, running := true }
     let s := { unit .dark with fab := { inserts := [i] } }; let a := asked 0x0307 p s
     dueFor 0x0307 p s = true ∧ insertOf a.fab 2047 = some i ∧ insertOf (hold (cmdOf 0x0307) a).fab 2047 = some i) ∧
    (let p := le 2 2047 ++ le 2 0
     let i : Insert := { cell := 5, tIns := ns 100, slots := [7] }
     let s := { unit .dark with fab := { inserts := [i] } }; let b := hold (cmdOf 0x0307) (asked 0x0307 p s)
     dueFor 0x0307 p s = true ∧ insertOf b.fab 2047 = none ∧ unlit b = true ∧
     (b.fab.inserts.filter fun i => !i.running && !i.slots.isEmpty) = [i]) ∧
    (let a := begun 0 { unit .dark with wear := [(2047, { pending := true })] }
     fwLive a = true ∧ inSvc a.sys.mode = true ∧ (sget {} a.wear 2047 : Wear).pending = true ∧ insertOf a.fab 2047 = none ∧
     condAt a.fab 2047 ≠ .opaqueCell ∧ unlit a = true ∧ (jetOf a (jetOfLoop a.part 2047)).remap = false) ∧
    ([false, true].all fun b =>
      let i : Insert := { cell := 5, tIns := ns 100, running := b, remapped := b }
      let a := begun 0 { unit .operate with fab := { inserts := [i] } }
      decide (a.sys.mode ≠ .reset ∧ insertOf a.fab 5 = some i ∧
        ((a.fab.inserts.takeWhile fun x => x.cell != 5).filter fun i => !i.running && !i.slots.isEmpty) = [] ∧ (jetOf a (jetOfLoop a.part 5)).remap = false)) = true := by decide +kernel

/-! ### Security -/

/-- The image of `imgBytes` in the staging buffer. -/
theorem staged_image : mread (memOf 0 imgBytes) 0 4097 = imgBytes := by
  have h := mread_memOf 0 0 4097 imgBytes (by rw [length_imgBytes])
  rw [List.drop_zero, List.take_of_length_le (by rw [length_imgBytes])] at h
  exact h

theorem test_security_case :
    (let s := { unit .operate with pld := { shipped with attNext := 1048575 } }; let a := asked 0x0B00 (zeros 32) s
     dueFor 0x0B00 (zeros 32) s = true ∧ lcNow a = .provisioned ∧ secretless (lcNow a) = false ∧ attUsable a.pld = true ∧
     a.pld.attNext + 0 < 1048576) ∧
    (dueFor 0x0B01 (le 2 1012 ++ le 2 4064) (unit .dark) = true ∧ 1012 + 4064 = 5076) ∧ dueFor 0x0B02 [] (unit .operate) = true ∧
    (let p := le 4 0x3FFFF0 ++ zeros 4 ++ zeros 16
     dueFor 0x0B03 p (unit .dark) = true ∧ p.length = 24 ∧ fld p 0 4 % 16 = 0 ∧ fld p 0 4 + 16 = 0x400000) ∧
    (let p := le 4 0x400000 ++ zeros 4; let a := asked 0x0B04 p (unit .dark)
     dueFor 0x0B04 p (unit .dark) = true ∧ fld p 0 4 = 0x400000 ∧ noDefer a = false) ∧
    (let s := { unit .dark with pld := shipped }; let p := [3, 0, 0, 0] ++ zeros 8 ++ zeros 24; let a := asked 0x0B05 p s
     dueFor 0x0B05 p s = true ∧ a.sys.mode = .dark ∧ lcTarget (fld p 0 1) = some .deployed ∧ lcMoves a .deployed = true ∧ p.length = 36 ∧
     fld p 1 3 = 0 ∧ authOk a .deployed (sub p 4 32) = true) := by decide +kernel

theorem begun_sec {s : State} (h : s.sys.resetAt = none) : (begun 0 s).sec = s.sec := by
  rw [begun_keeps (·.sec) (fun _ _ _ => rfl) (fun _ _ _ => rfl) h]; unfold elapse takeIrqs; (repeat' split) <;> rfl

theorem test_activate_case :
    let k : SlotCmd := { cmdOf 0x0B04 with deferred := true, started := true }
    let s := { unit .dark with pld := shipped, sec := { staging := memOf 0 imgBytes, fwLen := 4097, fwSlot := some 0 } }
    let a := begun 0 { s with mbx := { s.mbx with cmds := [k] } }
    awake a = true ∧ fwLive a = true ∧ a.sec.fwSlot.isSome = true ∧ deferredCmd a 0x0B04 = some k ∧
    imageOk a.part a.pld (mread a.sec.staging 0 a.sec.fwLen) = true := by
  refine ⟨by decide +kernel, by decide +kernel, by decide +kernel, by decide +kernel, ?_⟩
  dsimp only
  rw [begun_sec rfl, begun_pld rfl, staged_image]
  exact imgBytes_ok (by decide +kernel) rfl rfl

/-- R367, R368: CYCLES counts 1 a nanosecond, and its MAX mode holds 1; a frozen counter holds. -/
theorem test_cycles :
    let counter : Pmon := { select := [0x00, 0x02, 0, 0, 0, 0, 0, 0, 0, 0, 0, 0] }
    let greatest : Pmon := { select := [0x00, 0x02, 0, 8, 0, 0, 0, 0, 0, 0, 0, 0] }
    let at_ := fun frozen => (begun (7 * 65536 + 9) { unit .dark with plat := { pmon := [(0, counter), (1, greatest)], frozen := frozen } }).plat
    (at_ false).pmon.map (·.2.value) = [7, 1] ∧ (at_ true).pmon.map (·.2.value) = [0, 0] ∧ (at_ true).cycleAt = 7 * 65536 := by
  decide +kernel

/-! ### The endpoint, the test access port and the line -/

/-- R419: IDCODE is shifted out, its lowest bit first. -/
theorem test_idcode : (tapCapture (tapReset { State.reset with part := .kx064 })).tap.shift.take 8 =
    [true, true, false, false, true, false, true, true] := by decide +kernel

/-- R419: under HIGHZ no ball is driven; under EXTEST the boundary register drives them, INT_N as an open drain (R407). -/
theorem test_boundary : ballOut (tapInstruction .highz State.reset) .intN = none ∧
    ballOut (tapUpdate { tapInstruction .extest State.reset with
      tap := { instr := .extest, shift := List.replicate 22 false ++ [true] } }) .intN = none ∧
    ballOut (tapInstruction .extest State.reset) .intN = some false := by decide +kernel

/-- R262: BAR0's low 16 bits read 0. R278: unmasking a vector sends the message that is pending. -/
theorem test_endpoint : (writeBar0 0xFFFFFFFF (unit .operate)).pcie.bar0 = 0xFFFF0000 ∧
    (let s := unit .operate
     (writeVector 8 false { s with mbx := { s.mbx with msixOn := true }, pcie := { tableMask := 0x100, pend := 0x100 } }).out) = [.msix 8] := by
  decide +kernel

/-- R209: a slot of the idle pair, and an alignment slot as every 8,192nd. -/
theorem test_line : slotBlocks (txSlot 3 8192 none) = [⟨2, 0x0000000F0000034B⟩, ⟨2, 0x0000000F0000004B⟩] ∧
    slotBlocks (txSlot 3 8193 none) = [⟨2, 0x1E⟩, ⟨2, 0x1E⟩] := by decide +kernel

/-! ### What every command keeps -/

/-- A step of a unit in Degraded that meets the four invariants, and that keeps them. -/
theorem test_invariants_case :
    let s := { unit .degraded with part := .kx064, pending := [.railGood 0 .vddCore]
                                   dike := { src := [(171, { srcReset 171 with sticky := true, mask := true })] } }
    degradedInv s = true ∧ valveInv s = true ∧ soloInv s = true ∧ memWf s = true ∧
    (match step s with
     | .next t => degradedInv t && valveInv t && soloInv t && memWf t
     | _ => false) = true := by decide +kernel

end Sys2Proof.Tests
end

section
/-! SUPPORT. The bus (R8, R352 to R358): what a write and a time-out do at the matrix, one lemma for each outcome, and the statement
on the bus from them. -/

namespace Sys2Proof.Machine

/-- The swap of R357 is the processor's alone. -/
theorem matrixAddr_cpu (s : State) (addr : Nat) : matrixAddr s .cpu addr = swapped s.plat.remap addr := if_pos rfl

theorem matrixAddr_of_ne_cpu {m : Master} (s : State) (addr : Nat) (hm : m ≠ .cpu) : matrixAddr s m addr = addr := if_neg hm

/-! ### An access that starts at the matrix address `x`: the clock runs, and the cores do where it is the processor's (R376) -/

section
variable {m : Master} {q : Priv} {addr x : Nat} {s : State}

/-- Nothing holds such an access back. -/
theorem access_not_held (hclk : s.pwr.refclk = true) (hcpu : m = .cpu → s.pwr.halted = false) :
    (!s.pwr.refclk || (decide (m = .cpu) && s.pwr.halted)) = false := by
  simpa [hclk] using hcpu

theorem writeRegister_of_reached {t : BusTarget} {v : W32} (hclk : s.pwr.refclk = true) (hcpu : m = .cpu → s.pwr.halted = false)
    (hx : matrixAddr s m addr = x) (ht : reached s.part m q x = some t) :
    writeRegister m q addr v s = granted m q x (writeTarget t x v s) := by
  simp [writeRegister, access_not_held hclk hcpu, hx, ht]

/-- R356: the default target answers. -/
theorem writeRegister_of_unreached {v : W32} (hclk : s.pwr.refclk = true) (hcpu : m = .cpu → s.pwr.halted = false)
    (hx : matrixAddr s m addr = x) (hn : reached s.part m q x = none) :
    writeRegister m q addr v s = answerError 8 m q x true s := by
  simp [writeRegister, access_not_held hclk hcpu, hx, hn]

/-- R358, R369: the access counts as granted where a target took it. -/
theorem timeOut_eq_answerError {write : Bool} (hclk : s.pwr.refclk = true) (hcpu : m = .cpu → s.pwr.halted = false)
    (hx : matrixAddr s m addr = x) :
    timeOut m q addr write s = answerError 9 m q x write
      (if (reached s.part m q x).isSome then countTxn 0x0201 ⟨masterNo m, levelOf m q, x, write, true⟩ s else s) := by
  simp [timeOut, access_not_held hclk hcpu, hx]

end

/-- R376: without the reference clock the matrix stands still. -/
theorem timeOut_of_unclocked {m : Master} {q : Priv} {addr : Nat} {write : Bool} {s : State} (hclk : s.pwr.refclk = false) :
    timeOut m q addr write s = s := by
  simp [timeOut, hclk]

theorem busRead_of_unreached {m : Master} {q : Priv} {x : Nat} {held : W32} {s : State} (hn : reached s.part m q x = none) :
    busRead m q x held s = (0, answerError 8 m q x false s) := by
  simp [busRead, hn]

/-! ### The commands -/

section
variable {dt : Nat} {m : Master} {q : Priv} {addr : Nat} {s : State}

theorem exec_registerWrite {v : W32} (ha : awake (begun dt s)) :
    exec (.registerWrite dt m q addr v) s = .next (after (begun dt s) (writeRegister m q addr v (begun dt s))) := live_next ha

theorem exec_busTimeout {write : Bool} (ha : awake (begun dt s)) :
    exec (.busTimeout dt m q addr write) s = .next (after (begun dt s) (timeOut m q addr write (begun dt s))) := live_next ha

end

/-- Settles O50, by the master: the processor's address passes the swap of R357 and its access needs running cores, any other
master's address is the matrix's own. -/
theorem busComplete : Obligations.BusComplete := by
  intro dt m q addr v write s a taken ha
  refine ⟨fun hm => ?other, fun hm hrun hclk => ?cpu, busRead_of_unreached⟩
  case other =>
    have hcpu : m = .cpu → a.pwr.halted = false := fun h => absurd h hm
    have hx := matrixAddr_of_ne_cpu a addr hm
    refine ⟨fun t hclk ht => ?_, fun hclk hn => ?_, fun hclk => ?_, fun hclk => ?_⟩
    · rw [exec_registerWrite ha, writeRegister_of_reached hclk hcpu hx ht]
    · rw [exec_registerWrite ha, writeRegister_of_unreached hclk hcpu hx hn]
    · rw [exec_busTimeout ha, timeOut_eq_answerError hclk hcpu hx]
    · rw [exec_busTimeout ha, timeOut_of_unclocked hclk]
  case cpu =>
    subst hm
    have hx := matrixAddr_cpu a addr
    refine ⟨fun t ht => ?_, fun hn => ?_, ?_⟩
    · rw [exec_registerWrite ha, writeRegister_of_reached hclk (fun _ => hrun) hx ht]
    · rw [exec_registerWrite ha, writeRegister_of_unreached hclk (fun _ => hrun) hx hn]
    · rw [exec_busTimeout ha, timeOut_eq_answerError hclk (fun _ => hrun) hx]

end Sys2Proof.Machine
end

section
/-! SUPPORT. What every command has in common: the form of `run`, the frame of what follows it, and the invariants that every step keeps
(R13, R14, R16, R148). -/

namespace Sys2Proof.Machine

/-! ### The shape of every command's meaning -/

/-- A command's meaning has the form of `run`. -/
def Runs (s : State) (o : Host.Outcome State Fault Refusal) : Prop := ∃ (dt : Nat) (f : State → State), o = run dt s f

theorem runs_run (dt : Nat) (s : State) (f : State → State) : Runs s (run dt s f) := ⟨dt, f, rfl⟩

theorem runs_live (dt : Nat) (s : State) (f : State → State) : Runs s (live dt s f) := ⟨dt, _, rfl⟩

/-- The commands of power, reset, pins and the host's window take effect in Reset too; all others, host commands among them, go through
`live`. Four are unfolded first, whose effect is written out where they are defined. -/
theorem runs_exec (c : Instr) (s : State) : Runs s (exec c s) := by
  cases c
  case powerOn | powerRemoved | supplyTrip | supplyWarn | resetNLow | resetRelease | watchdogExpiry | perst | railGood | resetNHigh
      | supplyInRange | spiTransaction | hostWindowWrite | mbxDoorbell | mbxCompleteClear | mbxIrqMaskWrite | mbxRingConsWrite
      | mbxRingLostRead | roleInChange | presentInChange => exact runs_run ..
  case mgmtLinkChange =>
    unfold exec execMgmtLinkChange
    exact runs_run ..
  case tbNowRead =>
    unfold exec execTbNowRead
    exact runs_live ..
  case arpRequest =>
    unfold exec execArpRequest
    exact runs_live ..
  case cellFailureReroute =>
    unfold exec execCellFailureReroute
    exact runs_live ..
  all_goals exact runs_live ..

/-- What a command leaves is what follows from some effect on the state in which it begins. -/
theorem exec_next {c : Instr} {s t : State} (h : exec c s = .next t) : ∃ (a b : State), t = after a b := by
  obtain ⟨dt, f, hf⟩ := runs_exec c s
  rw [hf, run_eq, Host.Outcome.next.injEq] at h
  exact ⟨_, _, h.symm⟩

/-- Settles O2: every meaning has the form of `run`, which answers a next state and keeps the queue. -/
theorem everyCommandAnswersAndKeepsTheQueue : Obligations.EveryCommandAnswersAndKeepsTheQueue := by
  intro c s
  obtain ⟨dt, f, h⟩ := runs_exec c s
  exact ⟨_, h, by simp⟩

/-! ### The frame of what follows a command -/

theorem kept_commit (a s : State) : kept (commit a s) = kept s := by
  unfold commit
  split
  · exact kept_forgetEvents s
  · simp

/-- Settles O60, field by field from what `kept` leaves of a state. -/
theorem afterFrame : Obligations.AfterFrame := by
  intro a b t
  have hk : kept (commit a b) = kept b := kept_commit a b
  refine ⟨(congrArg State.part hk :), rfl, (congrArg State.cal hk :), (congrArg State.temp hk :), (congrArg State.sec hk :),
    (congrArg State.pld hk :), (congrArg State.trk hk :), (congrArg State.servo hk :), ?fab,
    congrArg (fun u : State => { u.tb with now := t.tb.now }) hk,
    congrArg (fun u : State => { u.sys with mode := t.sys.mode, role := t.sys.role, trans := t.sys.trans }) hk⟩
  exact congrArg (fun u : State => { u.fab with
    inserts := t.fab.inserts, active := t.fab.active, ready := t.fab.ready, openPorts := t.fab.openPorts, queue := t.fab.queue,
    recon := t.fab.recon }) hk

/-! ### What every step keeps -/

/-- What holds in Reset and of every state that the rules leave, and reads no more than `ruled`, every step keeps. -/
theorem step_keeps {inv : State → Bool} (hreset : ∀ s : State, s.sys.mode = .reset → inv s = true)
    (hrules : ∀ s : State, inv (rules s) = true) (hruled : ∀ s t : State, ruled s = ruled t → inv s = inv t) {s t : State}
    (hs : inv s = true) (h : step s = .next t) : inv t = true := by
  cases hq : s.pending with
  | nil =>
    rw [step_nil hq, Host.Outcome.next.injEq] at h
    exact h ▸ hs
  | cons c rest =>
    rw [step_cons hq] at h
    obtain ⟨a, b, rfl⟩ := exec_next h
    by_cases hb : b.sys.mode = .reset
    · exact hreset _ (by rw [after_reset hb]; exact hb)
    · obtain ⟨u, hu⟩ := ruled_after (a := a) hb
      rw [hruled _ _ hu]
      exact hrules u

/-! ### Closed valves -/

/-- Of the map of open valves the bits of those that are closed clear. -/
theorem closeValves_openPorts (l : List Nat) (s : State) (n : Nat) (hl : ∀ k ∈ l, k < 256) :
    (forEach l s fun s k => writeValve k false s).fab.openPorts.getLsbD n = (s.fab.openPorts.getLsbD n && !decide (n ∈ l)) := by
  induction l generalizing s with
  | nil => simp
  | cons k l ih =>
    rw [forEach, List.foldl_cons, ← forEach, ih _ fun m hm => hl m (List.mem_cons_of_mem _ hm)]
    have hk : (writeValve k false s).fab.openPorts.getLsbD n = if n = k then false else s.fab.openPorts.getLsbD n :=
      getLsbD_setBit _ _ _ _ (hl k List.mem_cons_self)
    rw [hk]
    by_cases h : n = k <;> simp [h]

theorem blockValves_sys (s : State) : (blockValves s).sys = s.sys :=
  foldl_keeps State.sys (fun s n => writeValve n false s) (fun _ _ => rfl) _ s

theorem blockValves_part (s : State) : (blockValves s).part = s.part :=
  foldl_keeps State.part (fun s n => writeValve n false s) (fun _ _ => rfl) _ s

/-- No valve of the part is open once all are blocked. -/
theorem ones_blockValves (s : State) : ones s.part.ports (blockValves s).fab.openPorts = [] := by
  have hp : s.part.ports ≤ 256 := by cases s.part <;> decide
  refine List.eq_nil_iff_forall_not_mem.mpr fun n hn => ?_
  obtain ⟨hlt, hset⟩ := (mem_ones _ _ _).mp hn
  rw [blockValves, closeValves_openPorts _ _ _ fun k hk => ((mem_ones _ _ _).mp hk).1.trans_le hp] at hset
  simp [mem_ones, hlt] at hset

/-- R13, R148: the rules leave no valve open where mode or role lets no light out. -/
theorem valveInv_rules (s : State) : valveInv (rules s) = true := by
  unfold rules
  generalize soloRule (settleDegraded (answerMode s)) = u
  by_cases hl : valvesLive u.sys = true
  · simp [valveInv, hl]
  · simp [valveInv, hl, blockValves_sys, blockValves_part, ones_blockValves]

/-- Settles O56: in Reset nothing is asked of the valves, and elsewhere the rules close them. -/
theorem stepKeepsValvesBlocked : Obligations.StepKeepsValvesBlocked := fun _ _ =>
  step_keeps (inv := valveInv) (fun s h => by simp [valveInv, h]) valveInv_rules (fun _ _ h => (inv_ruled h).2.1)

/-! ### Degraded -/

/-- What the rule on Degraded reads: mode, mode command, sticky bits with their masks, insertions that wait. -/
def degradedView (s : State) : Mode × Option Trans × Sparse Src × Sparse Wear := (s.sys.mode, s.sys.trans, s.dike.src, s.wear)

theorem degradedInv_congr {s t : State} (h : degradedView s = degradedView t) : degradedInv s = degradedInv t := by
  simp only [degradedView, Prod.mk.injEq] at h
  obtain ⟨hm, ht, hd, hw⟩ := h
  simp only [degradedInv, degradedCond, maskedSticky, modeOrdered, hm, ht, hd, hw]

theorem degradedView_of_ruled {s t : State} (h : ruled s = ruled t) : degradedView s = degradedView t := by
  simp only [ruled, Prod.mk.injEq] at h
  obtain ⟨-, hs, hd, hw, -⟩ := h
  simp only [degradedView, hs, hd, hw]

@[simp] theorem degradedView_failCmd (c : SlotCmd) (code : Nat) (s : State) : degradedView (failCmd c code s) = degradedView s :=
  degradedView_of_ruled (ruled_failCmd c code s)

@[simp] theorem degradedView_failSlot (k code : Nat) (s : State) : degradedView (failSlot k code s) = degradedView s :=
  degradedView_of_ruled (ruled_failSlot k code s)

@[simp] theorem degradedView_releaseRole (s : State) : degradedView (releaseRole s) = degradedView s := by
  unfold releaseRole
  split
  · dsimp only
    split
    · exact degradedView_failCmd _ _ _
    · rfl
  · rfl

@[simp] theorem degradedView_abandonPromotion (s : State) : degradedView (abandonPromotion s) = degradedView s := by
  unfold abandonPromotion
  split
  · dsimp only
    split
    · exact degradedView_failSlot _ _ _
    · rfl
  · rfl

@[simp] theorem degradedView_enterResync (s : State) : degradedView (enterResync s) = degradedView s :=
  (rfl : degradedView (enterResync s) = degradedView (abandonPromotion s)).trans (degradedView_abandonPromotion s)

@[simp] theorem degradedView_becomeEligible (s : State) : degradedView (becomeEligible s) = degradedView s := by
  unfold becomeEligible
  split
  · rfl
  · split <;> rfl

@[simp] theorem degradedView_soloRule (s : State) : degradedView (soloRule s) = degradedView s := by
  unfold soloRule
  split
  · rfl
  · split
    · rfl
    · exact degradedView_releaseRole s

@[simp] theorem degradedView_blockValves (s : State) : degradedView (blockValves s) = degradedView s :=
  foldl_keeps degradedView (fun s n => writeValve n false s) (fun _ _ => rfl) _ s

/-- Entering a mode changes the mode alone of what the rule reads. -/
theorem degradedView_enterMode (m : Mode) (s : State) : degradedView (enterMode m s) = (m, s.sys.trans, s.dike.src, s.wear) := by
  unfold enterMode
  dsimp only
  generalize hu : (if inService s.sys.mode && !inService m then releaseRole { s with sys := { s.sys with mode := m } }
    else { s with sys := { s.sys with mode := m } }) = u
  generalize hv : (if mayPromote s.sys.mode && !mayPromote m then abandonPromotion u else u) = v
  have hdu : degradedView u = (m, s.sys.trans, s.dike.src, s.wear) := by
    subst hu
    split
    · exact degradedView_releaseRole _
    · rfl
  have hdv : degradedView v = degradedView u := by
    subst hv
    split <;> simp
  rw [← hdu, ← hdv]
  split
  · split <;> simp
  · rfl

theorem degradedInv_settleDegraded (s : State) : degradedInv (settleDegraded s) = true := by
  unfold settleDegraded
  split
  case isTrue ho => simp [degradedInv, ho]
  case isFalse ho =>
    have hm : ∀ m, degradedInv (enterMode m s) = degradedInv { s with sys := { s.sys with mode := m } } := fun m =>
      degradedInv_congr (degradedView_enterMode m s)
    split
    case isTrue hd => simp_all [degradedInv, degradedCond]
    case isFalse hd =>
      split
      case isTrue hc => simp_all [degradedInv, degradedCond]
      case isFalse hc => simp_all [degradedInv]

/-- R14, R16: the rules leave the mode true to the degraded conditions. -/
theorem degradedInv_rules (s : State) : degradedInv (rules s) = true := by
  rw [← degradedInv_settleDegraded (answerMode s)]
  unfold rules
  apply degradedInv_congr
  dsimp only
  split <;> simp

/-- Settles O55: of Reset the rule says nothing, and elsewhere the rules settle the degraded conditions. -/
theorem stepKeepsDegraded : Obligations.StepKeepsDegraded := fun _ _ =>
  step_keeps (inv := degradedInv) (fun s h => by simp [degradedInv, h]) degradedInv_rules (fun _ _ h => (inv_ruled h).1)

end Sys2Proof.Machine
end

section
/-! SUPPORT. Reset (R14, R15, R390 to R397): what a trigger answers, what a Reset leaves and how it ends. -/

namespace Sys2Proof.Machine

/-! ### What the triggers and their ends do -/

/-- R16: a FATAL latch holds off a trigger but in the round in which it was set. -/
theorem resetIgnored_eq_false_iff (s : State) :
    resetIgnored s = false ↔ s.dike.fatal = false ∨ ∃ t, s.dike.fatalAt = some t ∧ sameRound s t s.tb.now = true := by
  unfold resetIgnored
  cases s.dike.fatal <;> cases s.dike.fatalAt <;> simp

theorem resetIgnored_of_fatal {s : State} (hf : s.dike.fatal = true)
    (hr : ∀ t, s.dike.fatalAt = some t → sameRound s t s.tb.now = false) : resetIgnored s = true := by
  rw [← Bool.not_eq_false, resetIgnored_eq_false_iff]
  rintro (h | ⟨t, ht, hs⟩)
  · simp [hf] at h
  · simp [hr t ht] at hs

theorem softReset_of_heeded {a : State} (h : resetIgnored a = false) : softReset a = intoReset a := by simp [softReset, h]

theorem softReset_of_ignored {a : State} (h : resetIgnored a = true) : softReset a = a := by simp [softReset, h]

/-- The level of RESET_N is no matter of whether a trigger is ignored. -/
theorem resetNLow_of_heeded {a : State} (h : resetIgnored a = false) :
    resetNLow a = intoReset { a with pwr := { a.pwr with resetLow := true } } :=
  if_neg (ne_true_of_eq_false h)

theorem resetNLow_of_ignored {a : State} (h : resetIgnored a = true) :
    resetNLow a = { a with pwr := { a.pwr with resetLow := true } } := if_pos h

theorem applyPower_of_unpowered {a : State} (h : a.pwr.powered = false) :
    applyPower a = { intoReset a with
      pwr := { (intoReset a).pwr with powered := true, tripped := [] }, dike := {}, mbx := {}, pcie := {}, tap := {} } :=
  if_neg (ne_true_of_eq_false h)

theorem tripRail_of_good {a : State} {r : Rail} (hp : a.pwr.powered = true) (ht : a.pwr.tripped.contains r = false) :
    tripRail r a = intoReset { a with pwr := { a.pwr with tripped := r :: a.pwr.tripped } } :=
  if_neg (by simp only [ht, hp]; decide)

theorem warnRail_of_inRange {a : State} {r : Rail} (h : a.pwr.warned.contains r = false) :
    warnRail r a = setLevel 19 true { a with pwr := { a.pwr with warned := r :: a.pwr.warned } } :=
  congrArg (setLevel 19 true) (if_neg (ne_true_of_eq_false h))

theorem inRangeRail_of_only {a : State} {r : Rail} (h : a.pwr.warned = [r]) :
    inRangeRail r a = setLevel 19 false { a with pwr := { a.pwr with warned := [] } } := by
  simp [inRangeRail, withPwr, h]

/-- A command whose effect is what a Reset leaves but for other supplies, mailbox, Dike or ports answers just that. -/
theorem run_intoReset {dt : Nat} {s u t : State} {f : State → State} (hf : f (begun dt s) = t) (hm : t.sys.mode = (intoReset u).sys.mode)
    (hp : t.plat = (intoReset u).plat) (hu : t.pending = (begun dt s).pending) : run dt s f = .next t :=
  run_reset hf hm (by rw [hp]; rfl) (by rw [hu, begun_pending])

/-- A command that takes effect in Reset too. -/
theorem run_next {dt : Nat} {s t : State} {f : State → State} (hf : f (begun dt s) = t) : run dt s f = .next (after (begun dt s) t) :=
  hf ▸ run_eq dt s f

/-- Settles O3, trigger by trigger. -/
theorem resetTriggersComplete : Obligations.ResetTriggersComplete := by
  intro dt rail s a
  refine ⟨?removed, fun hp => ?on, fun hp ht => ?trip, fun hf => ?heeded, fun hf hr => ?held, rfl, rfl, rfl, fun hw => ?warn,
    fun hw => ?inRange⟩
  case removed => exact run_intoReset (u := a) rfl rfl rfl rfl
  case on => exact run_intoReset (u := a) (applyPower_of_unpowered hp) rfl rfl rfl
  case trip => exact run_intoReset (u := a) (tripRail_of_good hp ht) rfl rfl rfl
  case heeded =>
    have hi := (resetIgnored_eq_false_iff a).mpr hf
    exact ⟨run_intoReset (u := a) (resetNLow_of_heeded hi) rfl rfl rfl, run_intoReset (u := a) (softReset_of_heeded hi) rfl rfl rfl⟩
  case held =>
    have hi := resetIgnored_of_fatal hf hr
    exact ⟨run_next (resetNLow_of_ignored hi), run_next (softReset_of_ignored hi)⟩
  case warn => exact run_next (warnRail_of_inRange hw)
  case inRange => exact run_next (inRangeRail_of_only hw)

/-! ### What a Reset leaves -/

/-- R320: of the Dike's records those of its own sources stay. -/
theorem src_dikeAfterReset (d : Dike) (n : Nat) : src (dikeAfterReset d) n = if n ≤ 3 then src d n else srcReset n := by
  simpa [src, dikeAfterReset] using sget_filter (srcReset n) d.src (fun k => decide (k ≤ 3)) n

/-- Settles O4: what `intoReset` writes out, and the records of the Dike. -/
theorem resetLeaves : Obligations.ResetLeaves := by
  intro s t
  exact ⟨rfl, rfl, rfl, rfl, rfl, rfl, rfl, rfl, rfl, rfl, rfl, src_dikeAfterReset s.dike, rfl, rfl, rfl, rfl, rfl, rfl, rfl, rfl⟩

/-- R395 to R397: with every rail good, none warned, and no trigger left. -/
theorem releaseReset_of_free {a : State} {sideB spi : Bool} (hm : a.sys.mode = .reset) (hp : a.pwr.powered = true)
    (ht : a.pwr.tripped = []) (hl : a.pwr.resetLow = false ∨ a.dike.fatal = true) (hw : a.pwr.warned = []) :
    releaseReset sideB spi a = { a with
      pwr := { a.pwr with hiZ := false, t0 := a.tb.now, watchdog := a.tb.now }
      sys := { a.sys with mode := .boot, sideB := sideB, spi := spi, role := if a.cld.present then .standby else .solo }
      cld := { a.cld with asserted := roleIn a, resyncWait := roleIn a && a.cld.present } } := by
  have hn : (a.pwr.resetLow && !a.dike.fatal) = false := by rcases hl with h | h <;> simp [h]
  have hfree : (decide (a.sys.mode = .reset) && a.pwr.powered && a.pwr.tripped.isEmpty && !(a.pwr.resetLow && !a.dike.fatal)) = true := by
    simp [hm, hp, ht, hn]
  unfold releaseReset
  rw [if_pos hfree]
  exact if_pos (by rw [hw]; rfl)

/-- Settles O5. -/
theorem resetReleaseCompletes : Obligations.ResetReleaseCompletes :=
  fun _ _ _ _ hm hp ht hl hw => run_next (releaseReset_of_free hm hp ht hl hw)

/-- Settles O59: `State.reset` is made of the reset values. -/
theorem resetMeetsTheInvariants : Obligations.ResetMeetsTheInvariants := by
  refine ⟨by decide, by decide, by decide, by decide, rfl, rfl, rfl, rfl, rfl, rfl, rfl, rfl, rfl, rfl, rfl, rfl, rfl, rfl, rfl, rfl, rfl,
    rfl, fun n _ => ?ports, fun k _ => ?queues, fun j _ => ?jets, fun n _ => ?sources, fun p => rfl⟩
  case ports => exact ⟨rfl, rfl, rfl⟩
  case queues => exact ⟨rfl, rfl, rfl, rfl⟩
  case jets => exact ⟨rfl, rfl, rfl, rfl⟩
  case sources => exact ⟨rfl, rfl, rfl⟩

end Sys2Proof.Machine
end

section
/-! SUPPORT. The mode change and the end of a calibration (R14, R16, R17, R136, R137, R287, R289, R400). -/

namespace Sys2Proof.Machine

/-! ### The mode change -/

/-- R17: the change is made in a later round than that in which it was ordered. -/
theorem changeMode_of_due {a : State} {t : Trans} (hf : fwLive a = true) (ht : a.sys.trans = some t) (hm : t.made = false)
    (hr : t.round ≠ a.jets.round) :
    changeMode a = settleDegraded (enterMode (nextMode a.sys t) { a with sys := { a.sys with
      trans := some { t with round := a.jets.round, made := true }
      fromDark := if nextMode a.sys t = .maintenance then decide (a.sys.mode = .dark) else a.sys.fromDark } }) := by
  unfold changeMode
  simp only [hf, ht, if_true, Option.filter_some, hm, hr, ne_eq, not_false_eq_true, decide_true, Bool.not_false, Bool.and_self]

/-- R17, R287: the answer is due in a later round than the change. -/
theorem answerMode_of_due {a : State} {t : Trans} (ht : a.sys.trans = some t) (hm : t.made = true) (hr : t.round ≠ a.jets.round) :
    answerMode a = finishSlot t.slot 0 (le 1 (modeCode a.sys.mode) ++ le 1 (roleCode a.sys.role) ++ zeros 2)
      { a with sys := { a.sys with trans := none } } := by
  unfold answerMode
  simp only [ht, Option.filter_some, hm, hr, ne_eq, not_false_eq_true, decide_true, Bool.and_self, if_true]

/-! ### The end of a calibration whose steps could all be measured -/

/-- Cells left without a calibration: of one that did not measure every loop those that it did not name. -/
def uncalLeft (a : State) : List Nat := if a.sys.calFull then [] else a.sys.uncal.filter fun k => !a.sys.calCells.contains k

/-- The state after a calibration's results, before the unit enters Dark. -/
def calResults (ok : Bool) (x : Fit) (a : State) : State :=
  let v := useResults ok [] [] x.touched x.cal a
  { v with sys := { v.sys with
      calValid := if ok then a.sys.calFull || a.sys.calValid else a.sys.calValid
      uncal := (if ok then [] else (List.range a.part.cells).filter (calNamed a)) ++ uncalLeft a } }

theorem endCalibration_of_measured {ok : Bool} {r : CalResult} {ms : W32} {a : State} (hf : fwLive a = true)
    (hm : a.sys.mode = .calibrate) (hb : (fitMatrix a (calNamed a) (stepRows a.part r)).bad = [])
    (hu : (unmeasured a.part (calNamed a) r).filter (· < a.part.cells) = []) :
    let u := calResults ok (fitMatrix a (calNamed a) (stepRows a.part r)) a
    let d := enterMode .dark (if ok then { u with pld := storeCal (u.sys.band.getD false) u.cal u.pld } else u)
    endCalibration ok [] [] r ms a = match deferredCmd d 0x0104 with
      | some c => finish c 0 (le 1 (flag (!ok)) ++ zeros 1 ++ le 2 0 ++ le 4 ms.toNat ++ le 8 0) d
      | none => d := by
  have hlive : ¬((!fwLive a || decide (a.sys.mode ≠ .calibrate)) = true) := by simp [hf, hm]
  intro u d
  unfold endCalibration
  rw [if_neg hlive]
  simp only [hb, hu, List.filter_nil, List.nil_append, List.flatMap_nil, List.append_nil, List.eraseDups_nil, List.isEmpty_nil,
    Bool.and_true, Bool.not_true, Bool.or_false]
  cases ok
  · simp only [Bool.and_false, Bool.false_or]
    rfl
  · simp only [Bool.and_true]
    rfl

/-- The deferred CALIBRATE ends with its result (R289). -/
theorem calibrationEnd_next {ok : Bool} {r : CalResult} {ms : W32} {c : SlotCmd} {dt : Nat} {s : State} (hf : fwLive (begun dt s) = true)
    (hm : (begun dt s).sys.mode = .calibrate)
    (hb : (fitMatrix (begun dt s) (calNamed (begun dt s)) (stepRows (begun dt s).part r)).bad = [])
    (hu : (unmeasured (begun dt s).part (calNamed (begun dt s)) r).filter (· < (begun dt s).part.cells) = []) :
    let u := calResults ok (fitMatrix (begun dt s) (calNamed (begun dt s)) (stepRows (begun dt s).part r)) (begun dt s)
    let d := enterMode .dark (if ok then { u with pld := storeCal (u.sys.band.getD false) u.cal u.pld } else u)
    deferredCmd d 0x0104 = some c →
    exec (.calibrationEnd dt ok [] [] r ms) s = .next (after (begun dt s)
      (finish c 0 (le 1 (flag (!ok)) ++ zeros 1 ++ le 2 0 ++ le 4 ms.toNat ++ le 8 0) d)) := by
  intro u d hd
  have ha : awake (begun dt s) = true := by simp [hm]
  refine (live_next (f := endCalibration ok [] [] r ms) ha).trans ?_
  rw [endCalibration_of_measured hf hm hb hu]
  simp only [hd, u, d]

/-! ### The coefficient of a response -/

/-- R136: the rounds 256 to 511, by the change in the source's heat word. -/
theorem coefOf_a {x : Response} (hx : x.after.length = 512) {v : Int}
    (hv : v = quot (((x.after.drop 256).map fun y => y - x.before).sum) (256 * x.heat)) (hlt : v < 32768) (hge : -32768 ≤ v) :
    (coefOf x).a.toInt = v := by
  have hl : (x.after.drop 256).length = 256 := by simp [hx]
  have hd : (x.after.drop 256).take 256 = x.after.drop 256 := List.take_of_length_le hl.le
  have hq : quot (((x.after.drop 256).map fun y => y - x.before).sum) ((x.after.drop 256).length * x.heat) = v := by
    rw [hl, hv]
    rfl
  have ha : (coefOf x).a = BitVec.ofInt 16 v := by
    simp only [coefOf, hd, hq]
    exact if_pos ⟨hge, hlt⟩
  rw [ha, BitVec.toInt_ofInt]
  exact Int.bmod_eq_of_le (by omega) (by omega)

/-- Settles O14. -/
theorem modeChangeCompletes : Obligations.ModeChangeCompletes := by
  intro dt t c r ms s a
  refine ⟨fun ha hf ht hm hr => ?change, fun ht hm hr => answerMode_of_due ht hm hr, ?calibration, ?coefficient⟩
  case change => exact (live_next ha).trans (by rw [changeMode_of_due hf ht hm hr])
  case calibration =>
    intro hf hm x hb hu left
    exact ⟨calibrationEnd_next (ok := true) hf hm hb hu, calibrationEnd_next (ok := false) hf hm hb hu⟩
  case coefficient =>
    intro x hx v hlt hge
    exact ⟨coefOf_a hx rfl hlt hge, rfl, rfl⟩

end Sys2Proof.Machine
end

section
/-! SUPPORT. The domain, configuration and cell commands (R24, R43, R139, R182, R290, R292, R293). -/

namespace Sys2Proof.Machine

section
variable {dt slot : Nat} {c : SlotCmd} {p : List Byte} {s : State}

/-- R290: a membership of a port that the part has not, a domain above 15, a discipline above 2 and a connection across domains are
refused. -/
theorem domainSet_next (hd : due (begun dt s) slot 0x0200 c p = true) (hm : (begun dt s).sys.mode = .dark)
    (hr : roleLit (begun dt s).sys.role = true) (hp : p.length = 532) (hz : fld p 530 2 = 0)
    (hn : ∀ k < 256, (begun dt s).part.ports ≤ k → fld p k 1 = 0 ∧ fld p (256 + k) 1 = 0)
    (hb : ∀ b ∈ sub p 0 512, b.toNat ≤ 15)
    (hc : ∀ b ∈ sub p 512 16, b.toNat ≤ 2) (hx : crossDomain (domainsOf (begun dt s).part p) (begun dt s).fab.conns = false) :
    exec (.domainSet dt slot) s =
      .next (after (begun dt s) (finish c 0 [] (setDomains (domainsOf (begun dt s).part p) (begun dt s)))) := by
  refine hostCmd_next hd (by simp [hm]) rfl hr ?_
  simp only [List.forall_mem_cons, List.any_eq_false, decide_eq_false_iff_not, List.mem_range]
  have hports : ∀ k < 256, ¬((begun dt s).part.ports ≤ k ∧ (fld p k 1 ≠ 0 ∨ fld p (256 + k) 1 ≠ 0)) := by
    rintro k hk ⟨hge, hne⟩
    obtain ⟨hi, he⟩ := hn k hk hge
    rcases hne with h | h <;> contradiction
  refine ⟨by simp [hp], by simp [rsvd, hz], ?_, ?_, ?_, hx, by simp⟩
  · simpa using hports
  · simpa using hb
  · simpa using hc

theorem domainGet_next (hd : due (begun dt s) slot 0x0201 c [] = true) (hm : inRun (begun dt s).sys.mode = true) :
    exec (.domainGet dt slot) s = .next (after (begun dt s) (finish c 0 (domainBytes (begun dt s).fab.dom) (begun dt s))) :=
  hostCmd_next hd hm rfl rfl (by simp)

/-- R139: the gap is 600 to 10,000 ns. -/
theorem setGap_next (hd : due (begun dt s) slot 0x0209 c p = true) (hm : (begun dt s).sys.mode = .dark) (hp : p.length = 4)
    (hz : fld p 2 2 = 0) (hlo : 600 ≤ fld p 0 2) (hhi : fld p 0 2 ≤ 10000) :
    exec (.setGap dt slot) s = .next (after (begun dt s) (finish c 0 []
      { begun dt s with jets := { (begun dt s).jets with gap := BitVec.ofNat 14 (fld p 0 2) } })) :=
  hostCmd_next hd (by simp [hm]) rfl rfl (by simp [hp, rsvd, hz, hlo, hhi])

/-- R292: a record that is valid and that no entry or calendar names. -/
theorem configDelete_next (hd : due (begun dt s) slot 0x0204 c p = true) (hm : inSvc (begun dt s).sys.mode = true)
    (hr : roleLit (begun dt s).sys.role = true) (hp : p.length = 4) (hz : fld p 2 2 = 0)
    (hv : (cfgOf (begun dt s).fab (fld p 0 2)).valid = true) (hn : namers (begun dt s) (fld p 0 2) = []) :
    let b := { begun dt s with fab := { (begun dt s).fab with
      configs := smod {} (begun dt s).fab.configs (fld p 0 2) fun r => { r with valid := false } } }
    exec (.configDelete dt slot) s = .next (after (begun dt s) (finish c 0 [] (mirror (configItem b (fld p 0 2)) b))) :=
  hostCmd_next hd hm rfl hr (by simp [hp, rsvd, hz, hv, hn])

theorem configRead_next (hd : due (begun dt s) slot 0x0205 c p = true) (hm : inRun (begun dt s).sys.mode = true) (hp : p.length = 4)
    (hz : fld p 2 2 = 0) :
    exec (.configRead dt slot) s = .next (after (begun dt s) (finish c 0 (recordBytes (begun dt s) (fld p 0 2)) (begun dt s))) :=
  hostCmd_next hd hm rfl rfl (by simp [hp, rsvd, hz])

/-- R293: a valid record of static domains that fits what is applied now. -/
theorem configApply_next (hd : due (begun dt s) slot 0x0206 c p = true) (hm : inSvc (begun dt s).sys.mode = true)
    (hr : roleLit (begun dt s).sys.role = true) (hp : p.length = 4) (hz : fld p 2 2 = 0)
    (hv : (cfgOf (begun dt s).fab (fld p 0 2)).valid = true)
    (hs : notStatic (begun dt s) (cfgOf (begun dt s).fab (fld p 0 2)).scope = false)
    (hc : compatibleNow (begun dt s) (fld p 0 2) = true) :
    exec (.configApply dt slot) s = .next (after (begun dt s)
      (tagStage (tagOfSlot slot) 1 (applyReady slot (fld p 0 2) 0 (hold c (begun dt s))))) := by
  obtain ⟨rfl, -, -⟩ := due_slot hd
  exact hostCmd_next hd hm rfl hr (by simp [hp, rsvd, hz, hv, hs, hc])

/-- R293: up to 2,048 cells of those that the part has. -/
theorem cellRead_next (hd : due (begun dt s) slot 0x0208 c p = true) (hm : inRun (begun dt s).sys.mode = true) (hp : p.length = 4)
    (hlo : 1 ≤ fld p 2 2) (hhi : fld p 2 2 ≤ 2048) (hc : fld p 0 2 + fld p 2 2 ≤ (begun dt s).part.cells) :
    exec (.cellRead dt slot) s = .next (after (begun dt s) (finish c 0 ((List.range (fld p 2 2)).flatMap fun i =>
      le 1 (sget 0 (begun dt s).fab.cond (fld p 0 2 + i)).toNat) (begun dt s))) :=
  hostCmd_next hd hm rfl rfl (by simp [hp, hhi, hc, Nat.one_le_iff_ne_zero.mp hlo])

end

/-- Settles O16, command by command. -/
theorem configurationCommandsComplete : Obligations.ConfigurationCommandsComplete := fun _ _ _ _ _ =>
  ⟨domainSet_next, domainGet_next, setGap_next, configDelete_next, configRead_next, configApply_next, cellRead_next⟩

end Sys2Proof.Machine
end

section
/-! SUPPORT. The route engine's rejections (R22, R41, R49). -/

namespace Sys2Proof.Machine

theorem crossDomain_iff (m : Domains) (c : ConnMap) : crossDomain m c = true ↔ ∃ e ∈ c, sget 0 m.ing e.1 ≠ sget 0 m.egr e.2 := by
  simp [crossDomain]

theorem duplicate_iff (c : ConnMap) : duplicate c = true ↔ ¬((c.map (·.1)).Nodup ∧ (c.map (·.2)).Nodup) := by
  simp only [duplicate, Bool.not_eq_true', decide_eq_false_iff_not, Bool.and_eq_true, decide_eq_true_eq]
  rw [and_comm]

theorem routeEngine_of_crossDomain {rank : Nat} {r free : RouteIn} (h : crossDomain r.dom r.after = true) :
    routeEngine rank r free = (rejectOf 3 0xFFFFFFFF, r.base) := if_pos h

theorem routeEngine_of_duplicate {rank : Nat} {r free : RouteIn} (hx : crossDomain r.dom r.after = false)
    (h : duplicate r.after = true) : routeEngine rank r free = (rejectOf 5 0xFFFFFFFF, r.base) :=
  (if_neg (ne_true_of_eq_false hx)).trans (if_pos h)

/-- R50: a route that a phase finds has outcome 0 or 1. -/
theorem reportOf_not_rejected (r : RouteIn) (phase : Nat) (v : CellMap) : Disturb.rejected (reportOf r phase v) = false := by
  simp only [Disturb.rejected, reportOf]
  split <;> rfl

/-- R49: what is rejected changes no cell. -/
theorem routeEngine_base_of_rejected {rank : Nat} {r free : RouteIn} (h : Disturb.rejected (routeEngine rank r free).1 = true) :
    (routeEngine rank r free).2 = r.base := by
  unfold routeEngine at h ⊢
  split
  case isTrue => rfl
  case isFalse hx =>
    rw [if_neg hx] at h
    split
    case isTrue => rfl
    case isFalse hd =>
      rw [if_neg hd] at h
      dsimp only at h ⊢
      cases hp : phases r.strict with
      | some x =>
        rw [hp] at h
        exact absurd h (by simp [reportOf_not_rejected])
      | none => rfl

/-- Settles O18. -/
theorem engineRejections : Obligations.EngineRejections := by
  intro rank r free
  refine ⟨fun hx => ?cross, fun hsame hdup => ?twice, routeEngine_base_of_rejected⟩
  case cross =>
    rw [routeEngine_of_crossDomain ((crossDomain_iff _ _).mpr hx)]
    exact ⟨rfl, rfl⟩
  case twice =>
    have hx : crossDomain r.dom r.after = false := by
      rw [← Bool.not_eq_true, crossDomain_iff]
      rintro ⟨e, he, hne⟩
      exact hne (hsame e he)
    rw [routeEngine_of_duplicate hx ((duplicate_iff _).mpr hdup)]
    exact ⟨rfl, rfl⟩

end Sys2Proof.Machine
end

section
/-! SUPPORT. Writes to the drive outputs (R13, R33, R34, R76 to R82, R95, R123, R330, R430): what a write does to the output, to its loop
and to the bus, one lemma for each kind of output and owner. -/

namespace Sys2Proof.Machine

/-! ### Heaters -/

section
variable {n : Nat} {v : W32} {a : State}

/-- What a write may touch of a heater's device, and what it leaves of the other heaters. -/
def HtrFrame (n : Nat) (a t : State) : Prop :=
  (∀ k, k ≠ n → htrOf t k = htrOf a k) ∧
  t = { a with dac := { a.dac with htr := t.dac.htr }, jets := { a.jets with loops := t.jets.loops }, out := t.out }

theorem HtrFrame.refl (n : Nat) (a : State) : HtrFrame n a a := ⟨fun _ _ => rfl, rfl⟩

theorem HtrFrame.trans {t u : State} (h : HtrFrame n a t) (k : HtrFrame n t u) : HtrFrame n a u := by
  obtain ⟨h1, h2⟩ := h
  obtain ⟨k1, k2⟩ := k
  refine ⟨fun i hi => (k1 i hi).trans (h1 i hi), ?_⟩
  rw [h2] at k2
  exact k2

theorem HtrFrame.emit (n : Nat) (o : Out) (a : State) : HtrFrame n a (emit o a) := ⟨fun _ _ => rfl, rfl⟩

theorem HtrFrame.modHtr (n : Nat) (f : Htr → Htr) (a : State) : HtrFrame n a (modHtr n f a) :=
  ⟨fun k hk => by rw [htrOf_modHtr, if_neg hk], rfl⟩

theorem HtrFrame.modLoop (n l : Nat) (f : Loop → Loop) (a : State) : HtrFrame n a (modLoop l f a) := ⟨fun _ _ => rfl, rfl⟩

/-- R34: the heater that is not in use takes no code. -/
def usedCode (a : State) (n : Nat) (v : W32) : BitVec 16 :=
  if n = htrIdx (n / 2) (loopOf a (n / 2)).desc.htrB then v.extractLsb' 0 16 else (htrOf a n).code

theorem htrUsed_iff : htrUsed a n = true ↔ n = htrIdx (n / 2) (loopOf a (n / 2)).desc.htrB := by simp [htrUsed]

theorem codeHtr_frame (n : Nat) (v : W32) (a : State) : HtrFrame n a (codeHtr n v a) := by
  unfold codeHtr
  split
  · exact .modHtr n _ a
  · exact .refl n a

theorem htrOf_codeHtr : htrOf (codeHtr n v a) n = { htrOf a n with code := usedCode a n v } := by
  unfold codeHtr usedCode
  simp only [htrUsed_iff]
  split
  · rw [htrOf_modHtr, if_pos rfl]
  · rfl

theorem codeHtr_out : (codeHtr n v a).out = a.out := by unfold codeHtr; split <;> rfl

theorem loopOf_codeHtr (k : Nat) : loopOf (codeHtr n v a) k = loopOf a k := by unfold codeHtr; split <;> rfl

/-- R123: LAST_CODE of the loop follows its Jet's write to the heater in use. -/
theorem loopOf_lastWritten_htr (k : Nat) : loopOf (lastWritten (.htr n) v a) k =
    if k = n / 2 ∧ n = htrIdx (n / 2) (loopOf a (n / 2)).desc.htrB then
      { loopOf a k with desc := { (loopOf a k).desc with lastCode := v.extractLsb' 0 16 } }
    else loopOf a k := by
  unfold lastWritten
  simp only [htrUsed_iff]
  split
  case isTrue h =>
    rw [loopOf_modLoop]
    by_cases hk : k = n / 2 <;> simp [hk, ← h]
  case isFalse h => simp [h]

theorem lastWritten_htr_frame (n : Nat) (v : W32) (a : State) : HtrFrame n a (lastWritten (.htr n) v a) := by
  unfold lastWritten
  dsimp only
  split
  · exact .modLoop n _ _ a
  · exact .refl n a

theorem htrOf_lastWritten_htr (k : Nat) : htrOf (lastWritten (.htr n) v a) k = htrOf a k := by
  unfold lastWritten; dsimp only; split <;> rfl

theorem lastWritten_htr_out : (lastWritten (.htr n) v a).out = a.out := by
  unfold lastWritten; dsimp only; split <;> rfl

/-- A write to a heater of the part, outside Safe, whose cell is not OPAQUE (R13, R42). -/
theorem dacWriteNow_htr {byJet : Bool} (hc : a.pwr.refclk = true) (hm : a.sys.mode ≠ .safe) (hn : n < 2 * a.part.cells)
    (hz : frozenCell a (n / 2) = false) : dacWriteNow (.htr n) byJet v a =
    if byJet then
      (if (htrOf a n).rcBusy then a
       else if (htrOf a n).own then lastWritten (.htr n) v (codeHtr n v a) else emit .busError a)
    else cpuHtr n v a := by
  simp [dacWriteNow, hc, outExists, hn, hm, hz]

/-- The code taken from its Jet, and LAST_CODE of the heater in use (R34, R123). -/
theorem jetHtr_spec (n : Nat) (v : W32) (a : State) : let t := lastWritten (.htr n) v (codeHtr n v a)
    HtrFrame n a t ∧ htrOf t n = { htrOf a n with code := usedCode a n v } ∧ t.out = a.out ∧
    ∀ k, loopOf t k = if k = n / 2 ∧ n = htrIdx (n / 2) (loopOf a (n / 2)).desc.htrB then
      { loopOf a k with desc := { (loopOf a k).desc with lastCode := v.extractLsb' 0 16 } } else loopOf a k := by
  refine ⟨(codeHtr_frame n v a).trans (lastWritten_htr_frame n v _), ?_, ?_, fun k => ?_⟩
  · rw [htrOf_lastWritten_htr, htrOf_codeHtr]
  · rw [lastWritten_htr_out, codeHtr_out]
  · simp only [loopOf_lastWritten_htr, loopOf_codeHtr]

/-- R80, log entry 123: the processor's word turns the heater's range. -/
def turnsHtr (a : State) (n : Nat) (v : W32) : Bool := v.getLsbD 30 != (htrOf a n).range && mayTurn a (n / 2)

theorem turnsHtr_iff : turnsHtr a n v = true ↔ v.getLsbD 30 ≠ (htrOf a n).range ∧ mayTurn a (n / 2) = true := by simp [turnsHtr]

/-- The processor's word to a heater, its code aside. -/
def wordHtr (n : Nat) (v : W32) (a : State) : State :=
  modHtr n (fun h => { h with own := v.getLsbD 31, range := h.range != turnsHtr a n v, rcBusy := turnsHtr a n v,
                              held := if turnsHtr a n v then h.code else h.held }) a

theorem htrOf_wordHtr : htrOf (wordHtr n v a) n = { htrOf a n with
    own := v.getLsbD 31, range := (htrOf a n).range != turnsHtr a n v, rcBusy := turnsHtr a n v,
    held := if turnsHtr a n v then (htrOf a n).code else (htrOf a n).held } := by
  rw [wordHtr, htrOf_modHtr, if_pos rfl]

/-- The register after a word that leaves the range as it is changes OWN alone. -/
theorem htrOf_wordHtr_of_idle (hb : (htrOf a n).rcBusy = false) (ht : turnsHtr a n v = false) :
    htrOf (wordHtr n v a) n = { htrOf a n with own := v.getLsbD 31 } := by
  rw [htrOf_wordHtr, ht]
  generalize htrOf a n = h at hb ⊢
  cases h
  subst hb
  simp

theorem usedCode_wordHtr : usedCode (wordHtr n v a) n v = usedCode a n v := by
  have hl : loopOf (wordHtr n v a) (n / 2) = loopOf a (n / 2) := rfl
  simp [usedCode, hl, htrOf_wordHtr]

theorem cpuHtr_of_busy (hb : (htrOf a n).rcBusy = true) : cpuHtr n v a = a := if_pos hb

theorem cpuHtr_of_idle (hb : (htrOf a n).rcBusy = false) : cpuHtr n v a =
    if v.getLsbD 31 then (if (htrOf a n).own && !turnsHtr a n v then emit .busError (wordHtr n v a) else wordHtr n v a)
    else if turnsHtr a n v then wordHtr n v a else codeHtr n v (wordHtr n v a) :=
  if_neg (ne_true_of_eq_false hb)

theorem cpuHtr_frame (n : Nat) (v : W32) (a : State) : HtrFrame n a (cpuHtr n v a) := by
  have hw : HtrFrame n a (wordHtr n v a) := .modHtr n _ a
  cases hb : (htrOf a n).rcBusy with
  | true => rw [cpuHtr_of_busy hb]; exact .refl n a
  | false =>
    rw [cpuHtr_of_idle hb]
    split
    · split
      · exact hw.trans (.emit n _ _)
      · exact hw
    · split
      · exact hw
      · exact hw.trans (codeHtr_frame n v _)

theorem loopOf_cpuHtr (k : Nat) : loopOf (cpuHtr n v a) k = loopOf a k := by
  cases hb : (htrOf a n).rcBusy with
  | true => rw [cpuHtr_of_busy hb]
  | false =>
    rw [cpuHtr_of_idle hb]
    split
    · split <;> rfl
    · split
      · rfl
      · exact loopOf_codeHtr k

/-- A word that takes the output for the processor, its range as it is: the code is taken. -/
theorem cpuHtr_of_taken (hb : (htrOf a n).rcBusy = false) (ht : turnsHtr a n v = false) (ho : v.getLsbD 31 = false) :
    htrOf (cpuHtr n v a) n = { htrOf a n with own := false, code := usedCode a n v } ∧ (cpuHtr n v a).out = a.out := by
  simp only [cpuHtr_of_idle hb, ht, ho, Bool.false_eq_true, if_false]
  refine ⟨?_, codeHtr_out⟩
  rw [htrOf_codeHtr, usedCode_wordHtr, htrOf_wordHtr_of_idle hb ht, ho]

/-- A word that leaves the output to its Jet, the range as it is: its code is refused. -/
theorem cpuHtr_of_left (hb : (htrOf a n).rcBusy = false) (ht : turnsHtr a n v = false) (ho : v.getLsbD 31 = true) :
    htrOf (cpuHtr n v a) n = { htrOf a n with own := true } ∧
    (cpuHtr n v a).out = a.out ++ (if (htrOf a n).own then [.busError] else []) := by
  have hw : htrOf (wordHtr n v a) n = { htrOf a n with own := true } := by rw [htrOf_wordHtr_of_idle hb ht, ho]
  simp only [cpuHtr_of_idle hb, ht, ho, if_true, Bool.not_false, Bool.and_true]
  split
  · exact ⟨hw, rfl⟩
  · exact ⟨hw, (List.append_nil _).symm⟩

/-- A word that turns the range: a range change begins, and no code is taken. -/
theorem cpuHtr_of_turned (hb : (htrOf a n).rcBusy = false) (ht : turnsHtr a n v = true) :
    htrOf (cpuHtr n v a) n =
      { htrOf a n with own := v.getLsbD 31, range := v.getLsbD 30, rcBusy := true, held := (htrOf a n).code } ∧
    (cpuHtr n v a).out = a.out := by
  have hr : (!(htrOf a n).range) = v.getLsbD 30 := (Bool.eq_not.mpr (turnsHtr_iff.mp ht).1).symm
  have hw : cpuHtr n v a = wordHtr n v a := by
    rw [cpuHtr_of_idle hb]
    simp [ht]
  rw [hw, htrOf_wordHtr]
  exact ⟨by simp [ht, hr], rfl⟩

end

/-! ### Port ladders -/

section
variable {n : Nat} {v : W32} {a : State}

/-- What a write may touch of a port ladder's device, and what it leaves of the other ladders. -/
def PortFrame (n : Nat) (a t : State) : Prop :=
  (∀ k, k ≠ n → portDacOf t k = portDacOf a k) ∧
  t = { a with dac := { a.dac with port := t.dac.port }, jets := { a.jets with loops := t.jets.loops }, out := t.out }

theorem PortFrame.trans {t u : State} (h : PortFrame n a t) (k : PortFrame n t u) : PortFrame n a u := by
  obtain ⟨h1, h2⟩ := h
  obtain ⟨k1, k2⟩ := k
  refine ⟨fun i hi => (k1 i hi).trans (h1 i hi), ?_⟩
  rw [h2] at k2
  exact k2

theorem PortFrame.emit (n : Nat) (o : Out) (a : State) : PortFrame n a (emit o a) := ⟨fun _ _ => rfl, rfl⟩

theorem PortFrame.modPortDac (n : Nat) (f : PortDac → PortDac) (a : State) : PortFrame n a (modPortDac n f a) :=
  ⟨fun k hk => by rw [portDacOf_modPortDac, if_neg hk], rfl⟩

theorem PortFrame.modLoop (n l : Nat) (f : Loop → Loop) (a : State) : PortFrame n a (modLoop l f a) := ⟨fun _ _ => rfl, rfl⟩

/-- The loop behind a port ladder. -/
def portLoop (p : Part) (n : Nat) : Nat := if n < 256 then eqLoop p n else valveLoop p (n - 256)

/-- The code in a word to a port ladder. -/
abbrev portCode (v : W32) : BitVec 14 := v.extractLsb' 0 14

/-- A write to a port ladder of the part, a valve's or an equaliser's outside Safe (R13). -/
theorem dacWriteNow_port {byJet : Bool} (hc : a.pwr.refclk = true)
    (hn : (n < a.part.ports ∧ a.sys.mode ≠ .safe) ∨ (256 ≤ n ∧ n < 256 + a.part.ports)) : dacWriteNow (.port n) byJet v a =
    if byJet then
      (if (portDacOf a n).own then lastWritten (.port n) v (modPortDac n (fun d => { d with code := portCode v }) a) else emit .busError a)
    else cpuPort n v a := by
  have hx : outExists a.part (.port n) = true := by simpa [outExists] using hn.imp_left And.left
  have hf : (decide (a.sys.mode = .safe) && decide (n < 256)) = false := by
    rcases hn with ⟨-, hm⟩ | ⟨hge, -⟩
    · simp [hm]
    · simp [hge]
  simp [dacWriteNow, hc, hx, hf]

/-- The code taken from its Jet, and LAST_CODE (R123). -/
theorem jetPort_spec (n : Nat) (v : W32) (a : State) :
    let t := lastWritten (.port n) v (modPortDac n (fun d => { d with code := portCode v }) a)
    PortFrame n a t ∧ portDacOf t n = { portDacOf a n with code := portCode v } ∧ t.out = a.out ∧
    ∀ k, loopOf t k = if k = portLoop a.part n then
      { loopOf a k with desc := { (loopOf a k).desc with lastCode := (portCode v).setWidth 16 } } else loopOf a k := by
  refine ⟨(PortFrame.modPortDac n _ a).trans (.modLoop n _ _ _), ?_, rfl, fun k => ?_⟩
  · exact (portDacOf_modPortDac a n n _).trans (if_pos rfl)
  · refine (loopOf_modLoop _ _ k _).trans ?_
    by_cases hk : k = portLoop a.part n
    · subst hk
      rfl
    · rw [if_neg hk]
      exact if_neg hk

/-- SAFE_CODE in the processor's word; an equaliser ladder has none. -/
def wordSafe (a : State) (n : Nat) (v : W32) : BitVec 14 := if n < 256 then (portDacOf a n).safeCode else v.extractLsb' 16 14

/-- The processor's word to a port ladder, its code aside. -/
def wordPort (n : Nat) (v : W32) (a : State) : State :=
  modPortDac n (fun d => { d with own := v.getLsbD 31, safeCode := wordSafe a n v }) a

theorem portDacOf_wordPort :
    portDacOf (wordPort n v a) n = { portDacOf a n with own := v.getLsbD 31, safeCode := wordSafe a n v } :=
  (portDacOf_modPortDac a n n _).trans (if_pos rfl)

theorem cpuPort_eq (n : Nat) (v : W32) (a : State) : cpuPort n v a =
    if v.getLsbD 31 then
      (if (portDacOf a n).own && decide (wordSafe a n v = (portDacOf a n).safeCode) then emit .busError (wordPort n v a)
       else wordPort n v a)
    else modPortDac n (fun d => { d with code := portCode v }) (wordPort n v a) := rfl

theorem cpuPort_frame (n : Nat) (v : W32) (a : State) : PortFrame n a (cpuPort n v a) := by
  have hw : PortFrame n a (wordPort n v a) := .modPortDac n _ a
  rw [cpuPort_eq]
  split
  · split
    · exact hw.trans (.emit n _ _)
    · exact hw
  · exact hw.trans (.modPortDac n _ _)

theorem loopOf_cpuPort (k : Nat) : loopOf (cpuPort n v a) k = loopOf a k := by
  rw [cpuPort_eq]
  split
  · split <;> rfl
  · rfl

/-- A word that takes the ladder for the processor. -/
theorem cpuPort_of_taken (ho : v.getLsbD 31 = false) :
    portDacOf (cpuPort n v a) n = { portDacOf a n with own := false, safeCode := wordSafe a n v, code := portCode v } ∧
    (cpuPort n v a).out = a.out := by
  have hp := @portDacOf_wordPort n v a
  rw [cpuPort_eq, if_neg (ne_true_of_eq_false ho), portDacOf_modPortDac, if_pos rfl, hp, ho]
  exact ⟨rfl, rfl⟩

/-- A word that leaves the ladder to its Jet: its code is refused, and taken is SAFE_CODE (log entry 111). -/
theorem cpuPort_of_left (ho : v.getLsbD 31 = true) :
    portDacOf (cpuPort n v a) n = { portDacOf a n with own := true, safeCode := wordSafe a n v } ∧
    (cpuPort n v a).out = a.out ++
      (if (portDacOf a n).own && decide (wordSafe a n v = (portDacOf a n).safeCode) then [.busError] else []) := by
  have hp := @portDacOf_wordPort n v a
  rw [ho] at hp
  rw [cpuPort_eq, if_pos ho]
  split
  · exact ⟨hp, rfl⟩
  · exact ⟨hp, (List.append_nil _).symm⟩

end

/-! ### Flip drivers -/

section
variable {c : Nat} {v : W32} {a : State}

/-- What a write may touch of a flip driver's device, and what it leaves of the other cells. -/
def FlipFrame (c : Nat) (a t : State) : Prop :=
  (∀ k, k ≠ c → flipOf t k = flipOf a k ∧ loopOf t k = loopOf a k ∧ (sget {} t.wear k : Wear) = sget {} a.wear k) ∧
  t = { a with dac := { a.dac with flip := t.dac.flip }, jets := { a.jets with loops := t.jets.loops }, wear := t.wear,
               fab := t.fab, out := t.out }

theorem FlipFrame.refl (c : Nat) (a : State) : FlipFrame c a a := ⟨fun _ _ => ⟨rfl, rfl, rfl⟩, rfl⟩

theorem FlipFrame.trans {t u : State} (h : FlipFrame c a t) (k : FlipFrame c t u) : FlipFrame c a u := by
  obtain ⟨h1, h2⟩ := h
  obtain ⟨k1, k2⟩ := k
  refine ⟨fun i hi => ?_, ?_⟩
  · obtain ⟨hf, hl, hw⟩ := h1 i hi
    obtain ⟨kf, kl, kw⟩ := k1 i hi
    exact ⟨kf.trans hf, kl.trans hl, kw.trans hw⟩
  · rw [h2] at k2
    exact k2

theorem FlipFrame.emit (c : Nat) (o : Out) (a : State) : FlipFrame c a (emit o a) := ⟨fun _ _ => ⟨rfl, rfl, rfl⟩, rfl⟩

theorem FlipFrame.modFlip (c : Nat) (f : Flip → Flip) (a : State) : FlipFrame c a (modFlip c f a) :=
  ⟨fun k hk => ⟨by rw [flipOf_modFlip, if_neg hk], rfl, rfl⟩, rfl⟩

/-- The level that a word gives a flip driver: that of an OPAQUE cell stands (R430). -/
def wordLevel (a : State) (c : Nat) (v : W32) : Bool := if frozenCell a c then (flipOf a c).level else v.getLsbD 8

/-- A level that its cell can take: that of an OPAQUE cell is the one it has. -/
def TakesLevel (a : State) (c : Nat) (b : Bool) : Prop := frozenCell a c = true → b = (flipOf a c).level

theorem takesLevel_wordLevel (a : State) (c : Nat) (v : W32) : TakesLevel a c (wordLevel a c v) := fun h => if_pos h

theorem frozenCell_iff (a : State) (c : Nat) : frozenCell a c = true ↔ condAt a.fab c = .opaqueCell := by simp [frozenCell]

theorem levelState_of_frozen {b : Bool} (h : frozenCell a c = true) : levelState c b a = a := if_pos h

/-- R330: a write that raises the level counts a flip. -/
def countFlip (c : Nat) (rises : Bool) (w : Sparse Wear) : Sparse Wear :=
  if rises then smod {} w c fun w => { w with addFlips := w.addFlips + 1 } else w

theorem sget_countFlip (c : Nat) (rises : Bool) (w : Sparse Wear) (k : Nat) : sget {} (countFlip c rises w) k =
    if k = c then { (sget {} w c : Wear) with addFlips := (sget {} w c : Wear).addFlips + (if rises then 1 else 0) } else sget {} w k := by
  unfold countFlip
  by_cases hk : k = c
  · subst hk
    cases rises
    · simp
    · simp [sget_smod]
  · cases rises
    · simp [hk]
    · simp [sget_smod, hk]

theorem levelState_of_free {b : Bool} (h : frozenCell a c = false) : levelState c b a = { modFlip c (fun f => { f with level := b }) a with
    wear := countFlip c (b && !(flipOf a c).level) a.wear
    fab := if condAt a.fab c = .good then { a.fab with cells := setBit a.fab.cells c b } else a.fab } := by
  have hx : condAt a.fab c ≠ .opaqueCell := fun hx => by simp [(frozenCell_iff a c).mpr hx] at h
  have hs : (if decide (condAt a.fab c = .stuckBar ∨ condAt a.fab c = .stuckCross) then a.fab
        else { a.fab with cells := setBit a.fab.cells c b }) =
      if condAt a.fab c = .good then { a.fab with cells := setBit a.fab.cells c b } else a.fab := by
    cases hc : condAt a.fab c <;> simp_all
  rw [← hs]
  exact if_neg (ne_true_of_eq_false h)

theorem levelState_frame (c : Nat) (b : Bool) (a : State) : FlipFrame c a (levelState c b a) := by
  cases hf : frozenCell a c with
  | true =>
    rw [levelState_of_frozen hf]
    exact .refl c a
  | false =>
    rw [levelState_of_free hf]
    refine ⟨fun k hk => ⟨?_, rfl, ?_⟩, rfl⟩
    · exact (flipOf_modFlip a c k _).trans (if_neg hk)
    · exact (sget_countFlip c _ a.wear k).trans (if_neg hk)

/-- R33, R330, R430: the level, the flip that it counts, and the state of a good cell. -/
theorem levelState_reads {b : Bool} (hb : TakesLevel a c b) :
    flipOf (levelState c b a) c = { flipOf a c with level := b } ∧ (levelState c b a).out = a.out ∧ (levelState c b a).jets = a.jets ∧
    (sget {} (levelState c b a).wear c : Wear) = { (sget {} a.wear c : Wear) with
      addFlips := (sget {} a.wear c : Wear).addFlips + (if b = true ∧ (flipOf a c).level = false then 1 else 0) } ∧
    (levelState c b a).fab = if condAt a.fab c = .good then { a.fab with cells := setBit a.fab.cells c b } else a.fab := by
  cases hf : frozenCell a c with
  | true =>
    have hg : condAt a.fab c ≠ .good := by simp [(frozenCell_iff a c).mp hf]
    rw [levelState_of_frozen hf, hb hf, if_neg hg, if_neg (by simp)]
    exact ⟨rfl, rfl, rfl, rfl, rfl⟩
  | false =>
    rw [levelState_of_free hf]
    refine ⟨?_, rfl, rfl, ?_, rfl⟩
    · exact (flipOf_modFlip a c c _).trans (if_pos rfl)
    · refine (sget_countFlip c _ a.wear c).trans ((if_pos rfl).trans ?_)
      simp

/-- A level's signs in the cell's loop (R95), where the level changes. -/
theorem loopOf_signFlip (c : Nat) (b : Bool) (a : State) : loopOf (signFlip c b a) c = if (flipOf a c).level = b then loopOf a c else
    { loopOf a c with desc := { (loopOf a c).desc with
      con := -(loopOf a c).desc.con, iAcc := -(loopOf a c).desc.iAcc, qAcc := -(loopOf a c).desc.qAcc, st := b } } := by
  unfold signFlip
  split
  case isTrue h => exact (if_pos h).symm
  case isFalse h =>
    rw [loopOf_modLoop, if_pos rfl]
    exact (if_neg h).symm

theorem signFlip_frame (c : Nat) (b : Bool) (a : State) : FlipFrame c a (signFlip c b a) := by
  unfold signFlip
  split
  · exact .refl c a
  · exact ⟨fun k hk => ⟨rfl, (loopOf_modLoop a c k _).trans (if_neg hk), rfl⟩, rfl⟩

theorem signFlip_same (h : (flipOf a c).level = b) : signFlip c b a = a := if_pos h

@[simp] theorem signFlip_dac (c : Nat) (b : Bool) (a : State) : (signFlip c b a).dac = a.dac := by unfold signFlip; split <;> rfl
@[simp] theorem signFlip_fab (c : Nat) (b : Bool) (a : State) : (signFlip c b a).fab = a.fab := by unfold signFlip; split <;> rfl
@[simp] theorem signFlip_wear (c : Nat) (b : Bool) (a : State) : (signFlip c b a).wear = a.wear := by unfold signFlip; split <;> rfl
@[simp] theorem signFlip_out (c : Nat) (b : Bool) (a : State) : (signFlip c b a).out = a.out := by unfold signFlip; split <;> rfl

/-- A write to a flip driver of the part, outside Safe (R13): the level that a Jet writes is the one that the cell can take. -/
theorem dacWriteNow_flip {byJet : Bool} (hr : a.pwr.refclk = true) (hm : a.sys.mode ≠ .safe) (hn : c < a.part.cells) :
    dacWriteNow (.flip c) byJet v a =
      if byJet then (if (flipOf a c).own then levelState c (wordLevel a c v) (signFlip c (wordLevel a c v) a) else emit .busError a)
      else cpuFlip c v a := by
  have hl : (if frozenCell a c then a else levelState c (v.getLsbD 8) (signFlip c (v.getLsbD 8) a)) =
      levelState c (wordLevel a c v) (signFlip c (wordLevel a c v) a) := by
    cases hf : frozenCell a c with
    | true =>
      have hw : wordLevel a c v = (flipOf a c).level := if_pos hf
      rw [signFlip_same hw.symm, levelState_of_frozen hf]
      rfl
    | false => rw [if_neg Bool.false_ne_true, wordLevel, if_neg (ne_true_of_eq_false hf)]
  rw [← hl]
  cases ho : (flipOf a c).own <;> simp [dacWriteNow, hr, outExists, hn, hm, ho]

/-- A level that its Jet writes. -/
theorem jetFlip_spec {b : Bool} (hb : TakesLevel a c b) : let t := levelState c b (signFlip c b a)
    FlipFrame c a t ∧ flipOf t c = { flipOf a c with level := b } ∧ t.out = a.out ∧ loopOf t c = loopOf (signFlip c b a) c ∧
    (sget {} t.wear c : Wear) = { (sget {} a.wear c : Wear) with
      addFlips := (sget {} a.wear c : Wear).addFlips + (if b = true ∧ (flipOf a c).level = false then 1 else 0) } ∧
    t.fab = if condAt a.fab c = .good then { a.fab with cells := setBit a.fab.cells c b } else a.fab := by
  have hd : flipOf (signFlip c b a) c = flipOf a c := by simp [flipOf]
  have hs : TakesLevel (signFlip c b a) c b := fun h => by
    rw [hd]
    exact hb (by simpa [frozenCell] using h)
  obtain ⟨hf, ho, hj, hw, hfab⟩ := levelState_reads hs
  simp only [hd, signFlip_out, signFlip_wear, signFlip_fab] at hf ho hw hfab
  exact ⟨(signFlip_frame c b a).trans (levelState_frame c b _), hf, ho, by simp only [loopOf, hj], hw, hfab⟩

/-- The processor's word to a flip driver that it takes, its level aside. -/
def wordFlip (c : Nat) (v : W32) (a : State) : State :=
  modFlip c (fun f => { f with own := false, preemph := v.extractLsb' 12 3, iset := v.extractLsb' 0 8 }) a

theorem flipOf_wordFlip : flipOf (wordFlip c v a) c =
    { flipOf a c with own := false, preemph := v.extractLsb' 12 3, iset := v.extractLsb' 0 8 } :=
  (flipOf_modFlip a c c _).trans (if_pos rfl)

theorem cpuFlip_of_taken (ho : v.getLsbD 31 = false) : cpuFlip c v a = levelState c (wordLevel a c v) (wordFlip c v a) := by
  refine (if_neg (ne_true_of_eq_false ho)).trans ?_
  cases hf : frozenCell a c with
  | true =>
    have hw : frozenCell (wordFlip c v a) c = true := hf
    exact (levelState_of_frozen hw).trans (levelState_of_frozen hw).symm
  | false =>
    rw [wordLevel, if_neg (ne_true_of_eq_false hf)]
    rfl

/-- A word that takes the driver for the processor. -/
theorem cpuFlip_taken_spec (ho : v.getLsbD 31 = false) : let t := cpuFlip c v a
    FlipFrame c a t ∧
    flipOf t c = { flipOf a c with
      own := false, level := wordLevel a c v, preemph := v.extractLsb' 12 3, iset := v.extractLsb' 0 8 } ∧
    t.out = a.out ∧ loopOf t c = loopOf a c ∧
    (sget {} t.wear c : Wear) = { (sget {} a.wear c : Wear) with
      addFlips := (sget {} a.wear c : Wear).addFlips + (if wordLevel a c v = true ∧ (flipOf a c).level = false then 1 else 0) } ∧
    t.fab = if condAt a.fab c = .good then { a.fab with cells := setBit a.fab.cells c (wordLevel a c v) } else a.fab := by
  have hs : TakesLevel (wordFlip c v a) c (wordLevel a c v) := fun h => by
    rw [flipOf_wordFlip]
    exact if_pos h
  obtain ⟨hf, ho', hj, hw, hfab⟩ := levelState_reads hs
  rw [flipOf_wordFlip] at hf hw
  rw [cpuFlip_of_taken ho]
  exact ⟨(FlipFrame.modFlip c _ a).trans (levelState_frame c _ _), hf, ho', by simp only [loopOf, hj]; rfl, hw, hfab⟩

/-- A word that leaves the driver to its Jet. -/
theorem cpuFlip_left_spec (ho : v.getLsbD 31 = true) : let t := cpuFlip c v a
    FlipFrame c a t ∧ flipOf t c = { flipOf a c with own := true } ∧ loopOf t c = loopOf a c ∧ t.fab = a.fab ∧ t.wear = a.wear ∧
    t.out = a.out ++ (if (flipOf a c).own then [.busError] else []) := by
  intro t
  have ht : t = if (flipOf a c).own then emit .busError a else modFlip c (fun f => { f with own := true }) a := if_pos ho
  cases hown : (flipOf a c).own with
  | true =>
    have hf : flipOf a c = { flipOf a c with own := true } := by rw [← hown]
    rw [ht, hown]
    exact ⟨.emit c _ a, hf, rfl, rfl, rfl, rfl⟩
  | false =>
    rw [ht, hown]
    exact ⟨.modFlip c _ a, (flipOf_modFlip a c c _).trans (if_pos rfl), rfl, rfl, rfl, (List.append_nil _).symm⟩

end

/-! ### Safe, OPAQUE cells and the end of a range change -/

section
variable {n : Nat} {byJet : Bool} {v : W32} {a : State}

/-- R13, R115: in Safe all but the valves stand. -/
theorem dacWriteNow_of_safe (hc : a.pwr.refclk = true) (hm : a.sys.mode = .safe) :
    (n < 256 → n < a.part.ports → dacWriteNow (.port n) byJet v a = a) ∧
    (n < 2 * a.part.cells → dacWriteNow (.htr n) byJet v a = a) ∧ (n < a.part.cells → dacWriteNow (.flip n) byJet v a = a) := by
  refine ⟨fun hlt hn => ?_, fun hn => ?_, fun hn => ?_⟩ <;> simp [dacWriteNow, outExists, *]

/-- R42: the heaters of an OPAQUE cell stand. -/
theorem dacWriteNow_of_frozen (hc : a.pwr.refclk = true) (hn : n < 2 * a.part.cells) (hf : frozenCell a (n / 2) = true) :
    dacWriteNow (.htr n) byJet v a = a := by
  simp [dacWriteNow, outExists, hc, hn, hf]

theorem rangeEnd_of_idle (hb : (htrOf a n).rcBusy = false) : rangeEnd n a = a := if_neg (ne_true_of_eq_false hb)

/-- R79, R295: RC_BUSY clears, and the RANGE_SET that waited is answered. -/
theorem rangeEnd_of_busy (hb : (htrOf a n).rcBusy = true) :
    let left := decide (n % 2 = 0) && (loopOf a (n / 2)).desc.htrB
    let b := modHtr n (fun h => { h with rcBusy := false, rcSlot := none, code := if left then 0 else h.code }) a
    rangeEnd n a = match (htrOf a n).rcSlot with
      | some k => finishSlot k 0 [] b
      | none => b :=
  if_pos hb

end

/-- Settles O28, by the kind of output, its state and its owner. -/
theorem ladderWritesComplete : Obligations.LadderWritesComplete := by
  intro dt n byJet v s a put ha hc
  have hx : ∀ (o : DacOut) (t : State), dacWriteNow o byJet v a = t → exec (.dacWrite dt o byJet v) s = .next (after a t) :=
    fun o t h => (live_next ha).trans (by rw [h])
  have hend : ∀ t, rangeEnd n a = t → exec (.rangeChangeEnd dt n) s = .next (after a t) := fun t h => (live_next ha).trans (by rw [h])
  refine ⟨fun hm => ?safe, fun hn hf => hx _ _ (dacWriteNow_of_frozen hc hn hf), fun hm hn hf => ?heater, fun hn => ?port,
    fun hm hn => ?flip, ?range⟩
  case safe =>
    obtain ⟨hp, hh, hfl⟩ := dacWriteNow_of_safe (n := n) (byJet := byJet) (v := v) hc hm
    exact ⟨fun hlt hn => hx _ _ (hp hlt hn), fun hn => hx _ _ (hh hn), fun hn => hx _ _ (hfl hn)⟩
  case heater =>
    intro h turns used code
    have hw := dacWriteNow_htr (v := v) (byJet := byJet) hc hm hn hf
    cases byJet with
    | true =>
      obtain hb | hb := Bool.eq_false_or_eq_true h.rcBusy
      · refine ⟨_, hx _ _ (hw.trans (if_pos hb)), fun _ _ => rfl, rfl, fun k => ?_, fun _ => ⟨rfl, rfl⟩, fun hi => ?_,
          nofun, nofun⟩
        · exact (if_neg fun ⟨_, _, hi, _⟩ => ne_true_of_eq_false hi hb).symm
        · exact absurd hb (ne_true_of_eq_false hi)
      · have hi := hw.trans (if_neg (ne_true_of_eq_false hb))
        obtain ho | ho := Bool.eq_false_or_eq_true h.own
        · obtain ⟨⟨hk, ht⟩, hh, hout, hl⟩ := jetHtr_spec n v a
          refine ⟨_, hx _ _ (hi.trans (if_pos ho)), hk, ht, fun k => ?_, fun hy => ?_,
            fun _ _ => ⟨fun _ => ⟨hh, hout⟩, fun hno => ?_⟩, nofun, nofun⟩
          · exact (hl k).trans (if_congr (by simp only [used, hb, ho, and_true]) rfl rfl)
          · exact absurd hy (ne_true_of_eq_false hb)
          · exact absurd ho (ne_true_of_eq_false hno)
        · refine ⟨_, hx _ _ (hi.trans (if_neg (ne_true_of_eq_false ho))), fun _ _ => rfl, rfl, fun k => ?_, fun hy => ?_,
            fun _ _ => ⟨fun hown => ?_, fun _ => ⟨rfl, rfl⟩⟩, nofun, nofun⟩
          · exact (if_neg fun ⟨_, _, _, hown⟩ => ne_true_of_eq_false ho hown).symm
          · exact absurd hy (ne_true_of_eq_false hb)
          · exact absurd hown (ne_true_of_eq_false ho)
    | false =>
      obtain ⟨hk, ht⟩ := cpuHtr_frame n v a
      refine ⟨cpuHtr n v a, hx _ _ hw, hk, ht, fun k => (loopOf_cpuHtr k).trans (ite_self _).symm, fun hb => ?_, nofun,
        fun hb _ hs => ?_, fun hb _ hturn => cpuHtr_of_turned hb (turnsHtr_iff.mpr hturn)⟩
      · rw [cpuHtr_of_busy hb]
        exact ⟨rfl, rfl⟩
      · have hs' : turnsHtr a n v = false := Bool.eq_false_iff.mpr fun hturn => hs (turnsHtr_iff.mp hturn)
        exact ⟨cpuHtr_of_taken hb hs', cpuHtr_of_left hb hs'⟩
  case port =>
    intro d safe l
    have hw := dacWriteNow_port (v := v) (byJet := byJet) hc hn
    cases byJet with
    | true =>
      obtain ho | ho := Bool.eq_false_or_eq_true d.own
      · obtain ⟨⟨hk, ht⟩, hp, hout, hl⟩ := jetPort_spec n v a
        refine ⟨_, hx _ _ (hw.trans (if_pos ho)), hk, ht, fun k => ?_, fun _ _ => ⟨hp, hout⟩, fun _ hno => ?_, nofun, nofun⟩
        · exact (hl k).trans (if_congr (and_iff_left ho).symm rfl rfl)
        · exact absurd ho (ne_true_of_eq_false hno)
      · refine ⟨_, hx _ _ (hw.trans (if_neg (ne_true_of_eq_false ho))), fun _ _ => rfl, rfl, fun k => ?_, fun _ hown => ?_,
          fun _ _ => ⟨rfl, rfl⟩, nofun, nofun⟩
        · exact (if_neg fun ⟨_, hown⟩ => ne_true_of_eq_false ho hown).symm
        · exact absurd hown (ne_true_of_eq_false ho)
    | false =>
      obtain ⟨hk, ht⟩ := cpuPort_frame n v a
      exact ⟨cpuPort n v a, hx _ _ hw, hk, ht, fun k => (loopOf_cpuPort k).trans (ite_self _).symm, nofun, nofun,
        fun _ ho => cpuPort_of_taken ho, fun _ ho => cpuPort_of_left ho⟩
  case flip =>
    intro f level
    have hw := dacWriteNow_flip (v := v) (byJet := byJet) hc hm hn
    cases byJet with
    | true =>
      obtain ho | ho := Bool.eq_false_or_eq_true f.own
      · obtain ⟨⟨hk, ht⟩, hf, hout, hl, hwear, hfab⟩ := jetFlip_spec (takesLevel_wordLevel a n v)
        refine ⟨_, hx _ _ (hw.trans (if_pos ho)), ht, hk, fun _ => ⟨hout, fun _ => ⟨hf, ?_⟩, nofun, hwear, hfab⟩,
          fun _ hno => ?_, nofun⟩
        · exact hl.trans (loopOf_signFlip n _ a)
        · exact absurd ho (ne_true_of_eq_false hno)
      · refine ⟨_, hx _ _ (hw.trans (if_neg (ne_true_of_eq_false ho))), rfl, fun _ _ => ⟨rfl, rfl, rfl⟩, fun hown => ?_,
          fun _ _ => rfl, nofun⟩
        exact absurd hown (ne_true_of_eq_false ho)
    | false =>
      obtain ho | ho := Bool.eq_false_or_eq_true (v.getLsbD 31)
      · obtain ⟨⟨hk, ht⟩, hf, hl, hfab, hwear, hout⟩ := cpuFlip_left_spec (c := n) (a := a) ho
        refine ⟨_, hx _ _ hw, ht, hk, fun hno => ?_, nofun, fun _ _ => ⟨hf, hl, hfab, hwear, hout⟩⟩
        exact absurd ho (ne_true_of_eq_false hno)
      · obtain ⟨⟨hk, ht⟩, hf, hout, hl, hwear, hfab⟩ := cpuFlip_taken_spec (c := n) (a := a) ho
        refine ⟨_, hx _ _ hw, ht, hk, fun _ => ⟨hout, nofun, fun _ => ⟨hl, hf⟩, hwear, hfab⟩, nofun, fun _ hown => ?_⟩
        exact absurd hown (ne_true_of_eq_false ho)
  case range =>
    refine ⟨fun hb hk => hend _ ?_, fun k hb hk => hend _ ?_, fun hb => hend _ (rangeEnd_of_idle hb)⟩
    · rw [rangeEnd_of_busy hb, hk]
    · rw [rangeEnd_of_busy hb, hk]

end Sys2Proof.Machine
end

section
/-! SUPPORT. What the route engine's report says of the change (R46, R48, R50). -/

namespace Sys2Proof.Machine

/-- R48: a route is found by phase 1, 2 or 3. -/
theorem phases_phase {r : RouteIn} {x : Nat × Draft} (h : phases r = some x) : x.1 = 1 ∨ x.1 = 2 ∨ x.1 = 3 := by
  unfold phases at h
  cases h1 : phase1 r with
  | some a =>
    simp only [h1] at h
    cases h
    exact .inl rfl
  | none =>
    cases h2 : phase2From r (enclosing r) with
    | some a =>
      simp only [h1, h2] at h
      cases h
      exact .inr (.inl rfl)
    | none =>
      cases h3 : phase3 r with
      | some a =>
        simp only [h1, h2, h3] at h
        cases h
        exact .inr (.inr rfl)
      | none => simp [h1, h2, h3] at h

/-- A request that is not rejected is answered with the route of the phase that first found one, and its report. -/
theorem routeEngine_of_accepted {rank : Nat} {r free : RouteIn} (h : Disturb.rejected (routeEngine rank r free).1 = false) :
    ∃ x, phases r.strict = some x ∧ routeEngine rank r free = (reportOf r.strict x.1 x.2.val, x.2.val) := by
  have hreject : ∀ {code : Nat} {b : W32}, 2 ≤ code → Disturb.rejected (rejectOf code b) ≠ false := fun hc => by
    simp [Disturb.rejected, rejectOf, hc]
  cases hx : crossDomain r.dom r.after with
  | true => exact absurd (routeEngine_of_crossDomain hx ▸ h) (hreject (by decide))
  | false =>
    cases hd : duplicate r.after with
    | true => exact absurd (routeEngine_of_duplicate hx hd ▸ h) (hreject (by decide))
    | false =>
      unfold routeEngine at h ⊢
      simp only [hx, hd, Bool.false_eq_true, if_false] at h ⊢
      cases hp : phases r.strict with
      | some x => exact ⟨x, rfl, rfl⟩
      | none =>
        simp only [hp] at h
        refine absurd h (hreject ?_)
        split <;> decide

/-- R46 and R50: OUTCOME tells whether an unchanged connection has moved. -/
theorem reportOf_outcome (r : RouteIn) (phase : Nat) (v : CellMap) :
    (reportOf r phase v).outcome = if movedConns r v = [] then 0 else 1 := by
  simp [reportOf, List.isEmpty_iff]

/-- Settles O19. -/
theorem engineReport : Obligations.EngineReport := by
  intro rank r free x h
  obtain ⟨y, hy, hx⟩ := routeEngine_of_accepted h
  obtain ⟨hreport, hcells⟩ : x.1 = reportOf r.strict y.1 y.2.val ∧ x.2 = y.2.val := Prod.ext_iff.mp hx
  rw [hreport, hcells, reportOf_outcome]
  refine ⟨rfl, rfl, ?zero, ?bound, rfl, phases_phase hy⟩
  case zero => simp
  case bound => split <;> simp

end Sys2Proof.Machine
end

section
/-! SUPPORT. The fabric's wiring and its paths (R30 to R33): the wiring between two stages is a permutation of the lines, and a path goes
back the way it came. -/

namespace Sys2Proof.Machine

/-! ### Rotating the low bits of a line number -/

section
variable {k n : Nat}

/-- The low bits of a line number rotated right by one place. -/
theorem rotR_low_lt (k x : Nat) : x % 2 ^ (k + 1) / 2 + x % 2 * 2 ^ k < 2 ^ (k + 1) := by
  have hq : x % 2 ^ (k + 1) / 2 < 2 ^ k := Nat.div_lt_of_lt_mul (pow_succ' 2 k ▸ Nat.mod_lt x (by positivity))
  have hbit : x % 2 * 2 ^ k ≤ 1 * 2 ^ k := Nat.mul_le_mul_right _ (by omega)
  have hp : 2 ^ (k + 1) = 2 ^ k + 2 ^ k := by rw [pow_succ, Nat.mul_two]
  omega

/-- The low bits of a line number rotated left by one place: the lower of them doubled, and the highest behind them. -/
theorem rotL_low (k x : Nat) : x % 2 ^ (k + 1) * 2 % 2 ^ (k + 1) = x % 2 ^ (k + 1) % 2 ^ k * 2 := by
  rw [pow_succ, Nat.mul_mod_mul_right]

theorem rotL_high_lt (k x : Nat) : x % 2 ^ (k + 1) / 2 ^ k < 2 :=
  Nat.div_lt_of_lt_mul (pow_succ 2 k ▸ Nat.mod_lt x (by positivity))

theorem rotL_low_lt (k x : Nat) : x % 2 ^ (k + 1) * 2 % 2 ^ (k + 1) + x % 2 ^ (k + 1) / 2 ^ k < 2 ^ (k + 1) := by
  have hq := rotL_high_lt k x
  have hr : x % 2 ^ (k + 1) % 2 ^ k < 2 ^ k := Nat.mod_lt _ (by positivity)
  rw [rotL_low, pow_succ] at *
  omega

/-- A number with its low `w` bits replaced stays below a bound that is a multiple of 2^w. -/
theorem block_lt {w x r : Nat} (hw : w ≤ n) (hx : x < 2 ^ n) (hr : r < 2 ^ w) : x / 2 ^ w * 2 ^ w + r < 2 ^ n := by
  have hn : 2 ^ n = 2 ^ w * 2 ^ (n - w) := by rw [← pow_add, Nat.add_sub_cancel' hw]
  have hq : x / 2 ^ w < 2 ^ (n - w) := Nat.div_lt_of_lt_mul (hn ▸ hx)
  calc x / 2 ^ w * 2 ^ w + r < (x / 2 ^ w + 1) * 2 ^ w := by rw [Nat.add_one_mul]; omega
    _ ≤ 2 ^ (n - w) * 2 ^ w := Nat.mul_le_mul_right _ hq
    _ = 2 ^ n := by rw [hn, Nat.mul_comm]

/-- A number with its low `w` bits replaced, taken apart again. -/
theorem block_div_mod {w q r : Nat} (hr : r < 2 ^ w) : (q * 2 ^ w + r) / 2 ^ w = q ∧ (q * 2 ^ w + r) % 2 ^ w = r :=
  (Nat.div_mod_unique (by positivity)).mpr ⟨by ring, hr⟩

theorem rotR_lt {x : Nat} (hk : k < n) (hx : x < 2 ^ n) : rotR (k + 1) x < 2 ^ n := block_lt hk hx (rotR_low_lt k x)

theorem rotL_lt {x : Nat} (hk : k < n) (hx : x < 2 ^ n) : rotL (k + 1) x < 2 ^ n := block_lt hk hx (rotL_low_lt k x)

theorem rotL_rotR (k x : Nat) : rotL (k + 1) (rotR (k + 1) x) = x := by
  obtain ⟨hq, hr⟩ := block_div_mod (q := x / 2 ^ (k + 1)) (rotR_low_lt k x)
  have ht : x % 2 ^ (k + 1) / 2 < 2 ^ k := Nat.div_lt_of_lt_mul (pow_succ' 2 k ▸ Nat.mod_lt x (by positivity))
  obtain ⟨hhigh, hlow⟩ := (Nat.div_mod_unique (by positivity)).mpr
    ⟨show x % 2 ^ (k + 1) / 2 + 2 ^ k * (x % 2) = x % 2 ^ (k + 1) / 2 + x % 2 * 2 ^ k by ring, ht⟩
  have hbit : x % 2 = x % 2 ^ (k + 1) % 2 := (Nat.mod_mod_of_dvd x (Dvd.intro_left _ (pow_succ 2 k).symm)).symm
  calc rotL (k + 1) (rotR (k + 1) x)
      = x / 2 ^ (k + 1) * 2 ^ (k + 1) + (x % 2 ^ (k + 1) / 2 * 2 + x % 2) := by
        simp only [rotL, rotL_low, Nat.add_sub_cancel]
        simp only [rotR, Nat.add_sub_cancel, hq, hr, hhigh, hlow]
    _ = x / 2 ^ (k + 1) * 2 ^ (k + 1) + x % 2 ^ (k + 1) := by rw [hbit, Nat.div_add_mod']
    _ = x := Nat.div_add_mod' ..

theorem rotR_rotL (k x : Nat) : rotR (k + 1) (rotL (k + 1) x) = x := by
  obtain ⟨hq, hr⟩ := block_div_mod (q := x / 2 ^ (k + 1)) (rotL_low_lt k x)
  have hhigh := rotL_high_lt k x
  rw [rotL_low] at hq hr
  have hbit : (x / 2 ^ (k + 1) * 2 ^ (k + 1) + (x % 2 ^ (k + 1) % 2 ^ k * 2 + x % 2 ^ (k + 1) / 2 ^ k)) % 2 = x % 2 ^ (k + 1) / 2 ^ k := by
    have heven : x / 2 ^ (k + 1) * 2 ^ (k + 1) = x / 2 ^ (k + 1) * 2 ^ k * 2 := by rw [Nat.mul_assoc, ← pow_succ]
    rw [heven, ← Nat.add_assoc, ← Nat.add_mul, Nat.mul_add_mod_self_right, Nat.mod_eq_of_lt hhigh]
  calc rotR (k + 1) (rotL (k + 1) x)
      = x / 2 ^ (k + 1) * 2 ^ (k + 1) + (x % 2 ^ (k + 1) % 2 ^ k + x % 2 ^ (k + 1) / 2 ^ k * 2 ^ k) := by
        simp only [rotL, rotL_low, Nat.add_sub_cancel]
        simp only [rotR, Nat.add_sub_cancel, hq, hr, hbit]
        omega
    _ = x / 2 ^ (k + 1) * 2 ^ (k + 1) + x % 2 ^ (k + 1) := by rw [Nat.mod_add_div']
    _ = x := Nat.div_add_mod' ..

end

/-! ### One stage and its wiring -/

section
variable {p : Part} {s x : Nat}

theorem ports_eq (p : Part) : p.ports = 2 ^ p.m := by cases p <;> rfl

theorem m_pos (p : Part) : 1 < p.m := by cases p <;> decide

theorem ports_even (p : Part) : p.ports % 2 = 0 := by cases p <;> rfl

/-- The next line, round the end, and the one before. -/
theorem succ_pred_mod {n : Nat} (hx : x < n) : ((x + n - 1) % n + 1) % n = x := by
  rw [Nat.mod_add_mod, Nat.sub_add_cancel (by omega), Nat.add_mod_right, Nat.mod_eq_of_lt hx]

theorem pred_succ_mod {n : Nat} (hx : x < n) : ((x + 1) % n + n - 1) % n = x := by
  rw [Nat.add_sub_assoc (by omega), Nat.mod_add_mod, Nat.add_assoc, Nat.add_sub_cancel' (by omega), Nat.add_mod_right, Nat.mod_eq_of_lt hx]

/-- The four kinds of wiring (R31, R32), each with `unwire` its way back: behind the first stages a rotation to the right, behind the next
ones to the left, and before and behind the relief stage a shift by one line. -/
theorem wire_cases (p : Part) (s : Nat) :
    (∃ k, k < p.m ∧ wire p s = rotR (k + 1) ∧ unwire p s = rotL (k + 1)) ∨
    (∃ k, k < p.m ∧ wire p s = rotL (k + 1) ∧ unwire p s = rotR (k + 1)) ∨
    (wire p s = (fun x => (x + p.ports - 1) % p.ports) ∧ unwire p s = fun x => (x + 1) % p.ports) ∨
    (wire p s = (fun x => (x + 1) % p.ports) ∧ unwire p s = fun x => (x + p.ports - 1) % p.ports) := by
  have hm := m_pos p
  by_cases h1 : s + 1 < p.m
  · refine .inl ⟨p.m - s - 1, by omega, ?_⟩
    rw [Nat.sub_add_cancel (by omega)]
    constructor <;> funext x <;> simp only [wire, unwire, h1, if_true]
  · by_cases h2 : s + 2 < 2 * p.m
    · refine .inr (.inl ⟨s + 2 - p.m, by omega, ?_⟩)
      rw [show s + 2 - p.m + 1 = s + 3 - p.m by omega]
      constructor <;> funext x <;> simp only [wire, unwire, h1, h2, if_true, if_false]
    · by_cases h3 : s + 2 = 2 * p.m
      · refine .inr (.inr (.inl ?_))
        constructor <;> funext x <;> simp only [wire, unwire, h1, h2, if_pos h3, if_false]
      · refine .inr (.inr (.inr ?_))
        constructor <;> funext x <;> simp only [wire, unwire, h1, h2, h3, if_false]

/-- R31, R32: the wiring is a permutation of the lines, and `unwire` its inverse. -/
theorem wire_perm (hx : x < p.ports) :
    wire p s x < p.ports ∧ unwire p s x < p.ports ∧ unwire p s (wire p s x) = x ∧ wire p s (unwire p s x) = x := by
  have hp : 0 < p.ports := by omega
  have hx' : x < 2 ^ p.m := ports_eq p ▸ hx
  obtain ⟨k, hk, hw, hu⟩ | ⟨k, hk, hw, hu⟩ | ⟨hw, hu⟩ | ⟨hw, hu⟩ := wire_cases p s <;> rw [hw, hu]
  · rw [ports_eq]
    exact ⟨rotR_lt hk hx', rotL_lt hk hx', rotL_rotR k x, rotR_rotL k x⟩
  · rw [ports_eq]
    exact ⟨rotL_lt hk hx', rotR_lt hk hx', rotR_rotL k x, rotL_rotR k x⟩
  · exact ⟨Nat.mod_lt _ hp, Nat.mod_lt _ hp, succ_pred_mod hx, pred_succ_mod hx⟩
  · exact ⟨Nat.mod_lt _ hp, Nat.mod_lt _ hp, pred_succ_mod hx, succ_pred_mod hx⟩

/-- R33: a cell joins its own two lines. -/
theorem through_half (p : Part) (v : CellMap) (s x : Nat) : through p v s x / 2 = x / 2 := by
  unfold through
  split
  · split <;> omega
  · rfl

theorem through_lt {v : CellMap} (hx : x < p.ports) : through p v s x < p.ports := by
  have he := ports_even p
  have hh := through_half p v s x
  omega

/-- R33: light that goes back through a cell leaves on the line that it came from. -/
theorem through_through (p : Part) (v : CellMap) (s x : Nat) : through p v s (through p v s x) = x := by
  have hc : cellAt p s (through p v s x) = cellAt p s x := by simp only [cellAt, through_half]
  by_cases hv : v.getLsbD (cellAt p s x) = true
  · have hy : through p v s x = if x % 2 = 0 then x + 1 else x - 1 := if_pos hv
    rw [through, if_pos (hc ▸ hv), hy]
    split <;> split <;> omega
  · have hy : through p v s x = x := if_neg hv
    rw [hy, hy]

end

/-! ### Whole paths -/

section
variable {p : Part} {v : CellMap}

/-- The end of a path with one more stage to go is that of the path from the next stage. -/
theorem linesFrom_succ_end (p : Part) (v : CellMap) (k s x d : Nat) :
    (linesFrom p v (k + 1) s x).getLastD d = (linesFrom p v k (s + 1) (wire p s (through p v s x))).getLastD d := by
  cases k <;> rfl

theorem linesFrom_end_lt {k s x d : Nat} (hs : s + k ≤ p.stages) (hx : x < p.ports) : (linesFrom p v k s x).getLastD d < p.ports := by
  induction k generalizing s x with
  | zero => exact hx
  | succ k ih =>
    rw [linesFrom_succ_end]
    exact ih (by omega) (wire_perm (through_lt hx)).1

/-- Going back from the end of a path comes to where the path began. -/
theorem backFrom_linesFrom {k s x d : Nat} (hs : s + k ≤ p.stages) (hx : x < p.ports) :
    backFrom p v (s + k) ((linesFrom p v k s x).getLastD d) = backFrom p v s x := by
  induction k generalizing s x with
  | zero => rfl
  | succ k ih =>
    obtain ⟨hlt, -, hback, -⟩ := wire_perm (s := s) (through_lt (v := v) (s := s) hx)
    calc backFrom p v (s + (k + 1)) ((linesFrom p v (k + 1) s x).getLastD d)
        = backFrom p v (s + 1 + k) ((linesFrom p v k (s + 1) (wire p s (through p v s x))).getLastD d) := by
          rw [linesFrom_succ_end, Nat.add_right_comm, Nat.add_assoc]
      _ = backFrom p v (s + 1) (wire p s (through p v s x)) := ih (by omega) hlt
      _ = backFrom p v s x := by rw [backFrom, hback, through_through]

theorem backFrom_lt {s x : Nat} (hs : s ≤ p.stages) (hx : x < p.ports) : backFrom p v s x < p.ports := by
  induction s generalizing x with
  | zero => exact hx
  | succ s ih => exact ih (by omega) (through_lt (wire_perm hx).2.1)

/-- The path from where going back ends passes the line on which going back began. -/
theorem linesFrom_backFrom {k s x d : Nat} (hs : s + k ≤ p.stages) (hx : x < p.ports) :
    (linesFrom p v (s + k) 0 (backFrom p v s x)).getLastD d = (linesFrom p v k s x).getLastD d := by
  induction s generalizing k x with
  | zero => rw [Nat.zero_add]; rfl
  | succ s ih =>
    obtain ⟨-, hlt, -, hforth⟩ := wire_perm (s := s) hx
    calc (linesFrom p v (s + 1 + k) 0 (backFrom p v (s + 1) x)).getLastD d
        = (linesFrom p v (s + (k + 1)) 0 (backFrom p v s (through p v s (unwire p s x)))).getLastD d := by
          rw [backFrom, Nat.add_right_comm, Nat.add_assoc]
      _ = (linesFrom p v (k + 1) s (through p v s (unwire p s x))).getLastD d := ih (by omega) (through_lt hlt)
      _ = (linesFrom p v k (s + 1) x).getLastD d := by rw [linesFrom_succ_end, through_through, hforth]

theorem pathEnd_lt {n : Nat} (hn : n < p.ports) : pathEnd p v n < p.ports := linesFrom_end_lt (by simp) hn

theorem pathStart_lt {n : Nat} (hn : n < p.ports) : pathStart p v n < p.ports := backFrom_lt le_rfl hn

theorem pathStart_pathEnd {n : Nat} (hn : n < p.ports) : pathStart p v (pathEnd p v n) = n := by
  have h := backFrom_linesFrom (v := v) (k := p.stages) (s := 0) (d := n) (by simp) hn
  rwa [Nat.zero_add] at h

theorem pathEnd_pathStart {n : Nat} (hn : n < p.ports) : pathEnd p v (pathStart p v n) = n :=
  linesFrom_backFrom (k := 0) le_rfl hn

end

/-- Settles O20. -/
theorem fabricIsAPermutation : Obligations.FabricIsAPermutation :=
  ⟨fun _ _ _ _ => wire_perm, fun _ _ _ hn => ⟨pathEnd_lt hn, pathStart_pathEnd hn, pathStart_lt hn, pathEnd_pathStart hn⟩⟩

end Sys2Proof.Machine
end

section
/-! SUPPORT. The routing commands, which wait for the engine (R45, R291 to R293). -/

namespace Sys2Proof.Machine

section
variable {dt slot : Nat} {c : SlotCmd} {p : List Byte} {s : State}

/-- R291: a map of the domains in SCOPE, all of them static. -/
theorem connect_next (hd : due (begun dt s) slot 0x0202 c p = true) (hm : inSvc (begun dt s).sys.mode = true)
    (hr : roleLit (begun dt s).sys.role = true) (hp : p.length = 516) (hf : fld p 2 1 ≤ 1) (hz : fld p 3 1 = 0)
    (hform : mapForm (begun dt s) (BitVec.ofNat 16 (fld p 0 2)) (sub p 4 512) = true)
    (hrange : mapRange (begun dt s) (sub p 4 512) = true) (hs : notStatic (begun dt s) (BitVec.ofNat 16 (fld p 0 2)) = false) :
    exec (.connect dt slot) s = .next (after (begun dt s) (enqueueRoute
      { origin := .connect slot 0 (bit (fld p 2 1) 0), want := mapConns (sub p 4 512), scope := BitVec.ofNat 16 (fld p 0 2) }
      (hold c (begun dt s)))) := by
  obtain ⟨rfl, -, -⟩ := due_slot hd
  exact hostCmd_next hd hm rfl hr (by simp [hp, hf, rsvd, hz, hform, hrange, hs])

/-- R292, R183: a valid record is replaced only where the command says so, and one that entries name keeps to their domain. -/
theorem configDefine_next (hd : due (begun dt s) slot 0x0203 c p = true) (hm : inSvc (begun dt s).sys.mode = true)
    (hr : roleLit (begun dt s).sys.role = true) (hp : p.length = 520) (hf : fld p 4 1 ≤ 1) (hz : fld p 5 3 = 0)
    (hform : mapForm (begun dt s) (BitVec.ofNat 16 (fld p 2 2)) (sub p 8 512) = true)
    (hrange : mapRange (begun dt s) (sub p 8 512) = true)
    (hv : (cfgOf (begun dt s).fab (fld p 0 2)).valid = true → bit (fld p 4 1) 0 = true)
    (hn : ∀ d ∈ namers (begun dt s) (fld p 0 2), BitVec.ofNat 16 (fld p 2 2) = bitAt 16 d) :
    exec (.configDefine dt slot) s = .next (after (begun dt s) (enqueueRoute
      { origin := .define slot (fld p 0 2) (BitVec.ofNat 16 (fld p 2 2)), want := mapConns (sub p 8 512),
        scope := BitVec.ofNat 16 (fld p 2 2), forEntry := !(namers (begun dt s) (fld p 0 2)).isEmpty }
      (hold c (begun dt s)))) := by
  obtain ⟨rfl, -, -⟩ := due_slot hd
  refine hostCmd_next hd hm rfl hr ?_
  simp only [List.forall_mem_cons, List.any_eq_false, decide_eq_true_eq, not_not]
  exact ⟨by simp [hp], by simp [hf], by simp [rsvd, hz], by simp [hform], by simp [hrange], by simpa using hv, hn, by simp⟩

/-- R293: a cell of the part, and a condition other than GOOD. -/
theorem cellMark_next (hd : due (begun dt s) slot 0x0207 c p = true) (hm : inSvc (begun dt s).sys.mode = true) (hp : p.length = 4)
    (hz : fld p 3 1 = 0) (hc : fld p 0 2 < (begun dt s).part.cells) (hlo : 1 ≤ fld p 2 1) (hhi : fld p 2 1 ≤ 3) :
    exec (.cellMark dt slot) s =
      .next (after (begun dt s) (markCell (fld p 0 2) (condOf (fld p 2 1)) (some slot) (hold c (begun dt s)))) := by
  obtain ⟨rfl, -, -⟩ := due_slot hd
  exact hostCmd_next hd hm rfl rfl (by simp [hp, rsvd, hz, hc, hhi, Nat.one_le_iff_ne_zero.mp hlo])

end

/-- Settles O15, command by command. -/
theorem routingCommandsComplete : Obligations.RoutingCommandsComplete := fun _ _ _ _ _ =>
  ⟨connect_next, configDefine_next, cellMark_next⟩

end Sys2Proof.Machine
end

section
/-! SUPPORT. The route engine at work (R45 to R53, R126, R432): what each happening of the engine does to a state. -/

namespace Sys2Proof.Machine

section
variable {a : State} {q : RouteReq} {rest : List RouteReq} {r : Routed} {k tries : Nat} {check : Bool}

/-- R52: a free engine begins the first request that waits. -/
theorem beginRoute_of_free (hc : slcClock a = true) (ha : a.fab.active = none) (hq : a.fab.queue = q :: rest) :
    let x := routeEngine a.fab.routes (requestOf a q) (requestOf (unprotected a) q)
    beginRoute a = { a with fab := { a.fab with
      queue := rest, routes := a.fab.routes + 1,
      active := some { req := q, report := x.1, cells := x.2, conns := (requestOf a q).after, armSeq := a.fab.seq } } } := by
  intro x
  unfold beginRoute
  simp only [ha, hq, hc, if_true]
  rfl

/-- A CONNECT's route begins again where another reconfiguration was armed while it was computed. -/
theorem completeRoute_of_outdated (hc : slcClock a = true) (ha : a.fab.active = some r) (ho : r.req.origin = .connect k tries check)
    (hs : r.armSeq ≠ a.fab.seq) :
    completeRoute a = { a with fab := { a.fab with active := none, queue := r.req :: a.fab.queue } } := by
  unfold completeRoute
  simp only [ha, hc, Option.filter_some, if_true]
  rw [if_pos (by simp [Routed.outdated, ho, withFab, hs.symm])]
  rfl

/-- R291: a CONNECT's route that is rejected, or only asked after, ends the command with its report; any other is ready to be armed. -/
theorem completeRoute_of_connect (hc : slcClock a = true) (ha : a.fab.active = some r) (ho : r.req.origin = .connect k tries check)
    (hs : r.armSeq = a.fab.seq) :
    let b := { a with fab := { a.fab with active := none } }
    completeRoute a = if Disturb.rejected r.report then tagDrop (tagOfSlot k) (finishSlot k 0x0220 (disturbBytes r.report) b)
      else if check then tagDrop (tagOfSlot k) (finishSlot k 0 (disturbBytes r.report) b)
      else tagStage (tagOfSlot k) 1 { b with fab := { b.fab with ready := b.fab.ready ++ [r] } } := by
  intro b
  have hready : makeReady r b = { b with fab := { b.fab with ready := b.fab.ready ++ [r] } } := by
    simp only [makeReady, ho, Origin.isReroute]
    rfl
  unfold completeRoute
  simp only [ha, hc, Option.filter_some, if_true]
  rw [if_neg (by simp [Routed.outdated, withFab, hs]), ← hready, ho]
  rfl

/-- R126: a CONNECT's route is armed where no reroute goes before it and nothing was armed since the engine began it. -/
theorem armReady_of_connect {ready : List Routed} (hc : slcClock a = true) (ha : a.fab.ready = r :: ready)
    (ho : r.req.origin = .connect k tries check) (hn : ∀ x ∈ ready, x.req.origin.isReroute = false) (hs : r.armSeq = a.fab.seq) :
    let b := { a with fab := { a.fab with ready := ready } }
    armReady a = tagArm (tagOfSlot k) b.fab.seq
      (arm (b.tb.now + armLead) (r.target b (b.tb.now + armLead) 0xFFFFFFFF) b) := by
  intro b
  have hfirst : (a.fab.ready.find? fun x => x.req.origin.isReroute).or a.fab.ready.head? = some r := by
    have hnone : (a.fab.ready.find? fun x => x.req.origin.isReroute) = none := by
      rw [ha, List.find?_eq_none]
      simp only [List.forall_mem_cons, ho, Origin.isReroute, Bool.not_eq_true, true_and]
      exact hn
    rw [hnone, ha]
    rfl
  have hb : withFab (fun f => { f with ready := f.ready.erase r }) a = b := by
    simp only [withFab, ha, List.erase_cons_head, b]
  unfold armReady
  simp only [hfirst, hc, Option.filter_some, if_true, hb]
  unfold armRouted
  simp only [ho, show (b.fab.seq ≠ r.armSeq) = False by simp [b, hs], decide_false, Bool.false_eq_true, if_false]

/-- R432: a background re-route that is not rejected replaces the record. -/
theorem backgroundDone_of_routed {n : Nat} (hf : fwLive a = true) (hm : a.sys.mode ≠ .safe) (ha : a.fab.active = none)
    (hq : (a.fab.queue.any fun x => x.origin.isReroute) = false) (hn : bgNext a = some n) :
    let x := rerouteRecord a n ((cfgOf a.fab n).entryRouted || (namedConfigs a).contains n)
    Disturb.rejected x.1 = false →
    backgroundDone a = notify 0xE (le 2 n ++ le 1 0 ++ zeros 1 ++ le 4 (sget 0 a.fab.fired n))
      (putRecord n x.2 { a with fab := { a.fab with routes := a.fab.routes + 1 } }) := by
  intro x hr
  unfold backgroundDone
  rw [if_neg (by simp [hf, hm, ha, hq])]
  simp only [hn]
  rw [if_neg (ne_true_of_eq_false hr)]
  rfl

end

/-- Settles O17, happening by happening. -/
theorem routeEngineCompletes : Obligations.RouteEngineCompletes := by
  intro dt cell k tries cond check q rest r ready s a ha hc
  have hlive (f : State → State) {b : State} (h : f a = b) : live dt s f = .next (after a b) := h ▸ live_next ha
  refine ⟨fun hact hq => hlive _ (beginRoute_of_free hc hact hq), fun hact ho hs => hlive _ (completeRoute_of_outdated hc hact ho hs),
    fun hact ho hs => ?complete, fun hready ho hn hs => hlive _ (armReady_of_connect hc hready ho hn hs), fun hf hm => ?failure,
    fun n hf hm hact hq hn hr => hlive _ (backgroundDone_of_routed hf hm hact hq hn hr)⟩
  case complete =>
    have h := completeRoute_of_connect hc hact ho hs
    exact ⟨fun hrej => hlive _ (by rw [h, if_pos hrej]),
      fun hrej hch => hlive _ (by rw [h, if_neg (by simp [hrej]), if_pos hch]),
      fun hrej hch => hlive _ (by rw [h, if_neg (by simp [hrej]), if_neg (by simp [hch])])⟩
  case failure =>
    -- The effect is written out where the command is defined.
    unfold exec execCellFailureReroute
    exact hlive _ (if_pos (by rw [hf, hm]; rfl))

end Sys2Proof.Machine
end

section
/-! SUPPORT. The loop commands (R42, R79, R92, R106 to R108, R110, R111, R114, R123, R294, R295). -/

namespace Sys2Proof.Machine

section
variable {dt slot : Nat} {c : SlotCmd} {p : List Byte} {s : State}

theorem loopRead_next (hd : due (begun dt s) slot 0x0300 c p = true) (hm : inRun (begun dt s).sys.mode = true) (hp : p.length = 4)
    (hz : fld p 2 2 = 0) (hl : fld p 0 2 < (begun dt s).part.loops) :
    exec (.loopRead dt slot) s = .next (after (begun dt s)
      (modLoop (fld p 0 2) (fun v => { v with hops := 0, skips := 0, clamps := 0 })
        (finish c 0 (loopBytes (begun dt s) (fld p 0 2)) (begun dt s)))) :=
  hostCmd_next hd hm rfl rfl (by simp [hp, rsvd, hz, hl])

/-- R108, R123, R294: the marked parameters are taken, and a bank with them where one is given that keeps to the slot budget. -/
theorem loopSet_next (hd : due (begun dt s) slot 0x0301 c p = true) (hm : inRun (begun dt s).sys.mode = true) (hp : p.length = 48)
    (hz : fld p 3 1 = 0) (hw : fld p 2 1 < 32) (hb : paramsBad (begun dt s) p = false) (hl : fld p 0 2 < (begun dt s).part.loops)
    (hj : bit (fld p 2 1) 0 = true → jetCycles (begun dt s) (fld p 0 2) (bankOf (sub p 4 32)) ≤ jetRoom (begun dt s)) :
    exec (.loopSet dt slot) s = .next (after (begun dt s)
      (if bit (fld p 2 1) 0 then setBank (fld p 0 2) (bankOf (sub p 4 32)) (setParams (fld p 0 2) p (hold c (begun dt s)))
        else finish c 0 [] (setParams (fld p 0 2) p (begun dt s)))) := by
  refine (hostCmd_next hd hm rfl rfl (by simp [hp, rsvd, hz, hw, hb, hl])).trans ?_
  cases hbit : bit (fld p 2 1) 0 with
  | false => rfl
  | true => simp only [if_true, if_neg (Nat.not_lt.mpr (hj hbit))]

theorem loopEnable_on_next (hd : due (begun dt s) slot 0x0302 c p = true) (hm : inRun (begun dt s).sys.mode = true) (hp : p.length = 4)
    (hz : fld p 3 1 = 0) (hl : fld p 0 2 < (begun dt s).part.loops) (hon : fld p 2 1 = 1)
    (hf : forerunnerOn (begun dt s) (fld p 0 2) = false) (he : (loopOf (begun dt s) (fld p 0 2)).enabled = false) :
    exec (.loopEnable dt slot) s = .next (after (begun dt s) (finish c 0 [] (startLoop (fld p 0 2) (begun dt s)))) := by
  refine (hostCmd_next hd hm rfl rfl (by simp [hp, rsvd, hz, hl, hon, hf])).trans ?_
  simp only [hon, he, Bool.false_eq_true, if_false, Nat.one_ne_zero]

/-- R111, R295: only a cell's loop is disabled, and only off every path. -/
theorem loopEnable_off_next (hd : due (begun dt s) slot 0x0302 c p = true) (hm : inRun (begun dt s).sys.mode = true) (hp : p.length = 4)
    (hz : fld p 3 1 = 0) (hl : fld p 0 2 < (begun dt s).part.cells) (hoff : fld p 2 1 = 0)
    (hpath : onPath (begun dt s) (fld p 0 2) = false) :
    exec (.loopEnable dt slot) s = .next (after (begun dt s) (finish c 0 [] (stopLoop (fld p 0 2) (begun dt s)))) := by
  have hloops : fld p 0 2 < (begun dt s).part.loops := Nat.lt_add_right _ hl
  refine (hostCmd_next hd hm rfl rfl (by simp [hp, rsvd, hz, hl, hloops, hoff, hpath])).trans ?_
  simp only [hoff, if_true]

theorem recentre_next (hd : due (begun dt s) slot 0x0303 c p = true) (hm : inSvc (begun dt s).sys.mode = true) (hp : p.length = 4)
    (hz : fld p 2 2 = 0) (hl : fld p 0 2 < (begun dt s).part.cells) (hb : recentreBad (begun dt s) (fld p 0 2) = false) :
    exec (.recentre dt slot) s = .next (after (begun dt s) (hold c (begun dt s))) :=
  hostCmd_next hd hm rfl rfl (by simp [hp, rsvd, hz, hl, hb])

/-- R79, R42: the change is answered at the end of its interval, or of the one that runs; without one the command is answered at once. -/
theorem rangeSet_next (hd : due (begun dt s) slot 0x0304 c p = true) (hm : inRun (begun dt s).sys.mode = true) (hp : p.length = 4)
    (hz : fld p 3 1 = 0) (hl : fld p 0 2 < (begun dt s).part.cells) (hr : fld p 2 1 ≤ 1) :
    let n := htrIdx (fld p 0 2) (loopOf (begun dt s) (fld p 0 2)).desc.htrB
    exec (.rangeSet dt slot) s = .next (after (begun dt s)
      (if (htrOf (begun dt s) n).rcBusy then modHtr n (fun h => { h with rcSlot := some slot }) (hold c (begun dt s))
        else if decide (fld p 2 1 = 1) = (htrOf (begun dt s) n).range || frozenCell (begun dt s) (fld p 0 2) then
          finish c 0 [] (begun dt s)
        else modHtr n (fun h => { h with rcSlot := some slot }) (turnRange n (decide (fld p 2 1 = 1)) (hold c (begun dt s))))) :=
  hostCmd_next hd hm rfl rfl (by simp [hp, rsvd, hz, hl, hr])

theorem setRate_next (hd : due (begun dt s) slot 0x0305 c p = true)
    (hm : (begun dt s).sys.mode = .calibrate ∨ (begun dt s).sys.mode = .dark) (hp : p.length = 4) (hz : fld p 1 3 = 0)
    (hr : fld p 0 1 ≤ 2) :
    let b := hold c (begun dt s)
    exec (.setRate dt slot) s =
      .next (after (begun dt s) { b with jets := { b.jets with newRate := some (BitVec.ofNat 2 (fld p 0 1)) } }) :=
  hostCmd_next hd (by simpa using hm) rfl rfl (by simp [hp, rsvd, hz, hr])

theorem loopCfg_next (hd : due (begun dt s) slot 0x0306 c p = true) (hm : inRun (begun dt s).sys.mode = true) (hp : p.length = 8)
    (hz : fld p 5 1 = 0) (hlo : 1 ≤ fld p 0 4) (hhi : fld p 0 4 ≤ 604800) (hlim : fld p 4 1 ≠ 0) (hwin : fld p 6 2 ≠ 0) :
    exec (.loopCfg dt slot) s = .next (after (begun dt s) (finish c 0 [] { begun dt s with jets := { (begun dt s).jets with
      horizon := BitVec.ofNat 32 (fld p 0 4)
      regs := smap {} ((begun dt s).part.jets + (begun dt s).part.spares) (begun dt s).jets.regs fun _ x =>
        { x with limit := BitVec.ofNat 8 (fld p 4 1), win := BitVec.ofNat 16 (fld p 6 2) } } })) :=
  hostCmd_next hd hm rfl rfl (by simp [hp, rsvd, hz, hhi, hlim, hwin, Nat.one_le_iff_ne_zero.mp hlo])

end

/-! ### The RECENTRE that waits for the round start (R107) -/

section
variable {u : State} {c : SlotCmd}

/-- The one command that waits is made. -/
theorem recentreAll_of_one (hc : u.mbx.cmds = [c]) (hs : c.started = true) (hd : c.deferred = false) (ho : c.opcode = 0x0303) :
    recentreAll u = recentreNow c u := by
  simp [recentreAll, hc, hs, hd, ho, forEach]

/-- A Recentre that leaves phi where it is. -/
theorem recentreNow_of_still (hx : (recentreOf u (fld (slotPayload u c.slot) 0 2)).1 = 0) :
    let k := fld (slotPayload u c.slot) 0 2
    recentreNow c u = finish c 0 (le 1 0 ++ zeros 3) (modLoop k (fun v =>
      { v with desc := { v.desc with base := (recentreOf u k).2.1, integ := (recentreOf u k).2.2 } }) u) := by
  intro k
  have hb : recentreBad u k = false := by simp [recentreBad, k, hx]
  unfold recentreNow
  rw [if_neg (by simpa using hb)]
  simp only [hx, if_true, k]

/-- A Recentre that moves phi, with no light through the cell, is a hop. -/
theorem recentreNow_of_moved (hx : (recentreOf u (fld (slotPayload u c.slot) 0 2)).1 ≠ 0)
    (hl : litThrough u (fld (slotPayload u c.slot) 0 2) = false) :
    let k := fld (slotPayload u c.slot) 0 2
    let x := recentreOf u k
    let b := modLoop k (fun v => { v with desc := { v.desc with base := x.2.1, integ := x.2.2 } }) u
    recentreNow c u = finish c 0 (le 1 x.1 ++ zeros 3)
      (notifyHop k (decide (x.1 = 2)) (some { opcode := c.opcode, seq := c.seq.toNat, status := 0, slot := c.slot })
        (ev (runnerOf b k) (modLoop k (fun v => { v with hops := satInc v.hops }) b))) := by
  intro k x b
  have hb : recentreBad u k = false := by simp [recentreBad, k, hl]
  unfold recentreNow
  rw [if_neg (by simpa using hb)]
  simp only [hx, if_false]
  rfl

end

/-- R42: an OPAQUE cell's loop is not enabled. -/
theorem startLoop_of_frozen {l : Nat} {a : State} (hl : l < a.part.cells) (hf : frozenCell a l = true) : startLoop l a = a :=
  if_pos (by simp [hl, hf])

/-- Settles O25, command by command. -/
theorem loopCommandsComplete : Obligations.LoopCommandsComplete := by
  intro dt slot c p s a l
  refine ⟨loopRead_next, fun hd hm hp hz hw hb hl hbit hj => ?bank, fun hd hm hp hz hw hb hl hbit => ?params, loopEnable_on_next,
    loopEnable_off_next, recentre_next, fun u hc hs hd ho => ?round, fun hd hm hp hz hl hr => ?range,
    startLoop_of_frozen, setRate_next, loopCfg_next⟩
  case bank =>
    rw [loopSet_next hd hm hp hz hw hb hl fun _ => hj, if_pos hbit]
  case params =>
    rw [loopSet_next hd hm hp hz hw hb hl fun h => absurd h (by simp [hbit]), if_neg (by simp [hbit])]
  case round =>
    rw [recentreAll_of_one hc hs hd ho]
    exact ⟨fun hx => recentreNow_of_still hx, fun hx hl => ho ▸ recentreNow_of_moved hx hl⟩
  case range =>
    have hnext {b : State} := (rangeSet_next hd hm hp hz hl hr).trans ∘ congrArg (fun b => Host.Outcome.next (after a b)) (a₂ := b)
    refine ⟨fun hb => hnext (if_pos hb), fun hb hsame => hnext ?_, fun hb hne hf => hnext ?_⟩
    · exact (if_neg (ne_true_of_eq_false hb)).trans
        (if_pos (Bool.or_eq_true_iff.mpr (hsame.imp (fun h => decide_eq_true h.symm) id)))
    · exact (if_neg (ne_true_of_eq_false hb)).trans
        (if_neg (ne_true_of_eq_false (Bool.or_eq_false_iff.mpr ⟨decide_eq_false hne.symm, hf⟩)))

end Sys2Proof.Machine
end

section
/-! SUPPORT. The wells and the takeovers (R55 to R57, R59, R61, R70, R71, R74, R81, R121, R340, R362): what each happening does to a
state. -/

namespace Sys2Proof.Machine

/-- Outside Reset a happening leaves what follows from its effect. -/
theorem live_next_of_effect {dt : Nat} {s b : State} {f : State → State} (ha : awake (begun dt s) = true) (h : f (begun dt s) = b) :
    live dt s f = .next (after (begun dt s) b) := h ▸ live_next ha

/-! ### Wells -/

section
variable {w : Nat} {a : State}

/-- R57: a schedule write that is accepted waits for a frame start. -/
theorem wellSchedWrite_of_accepted {e : Nat} {v : W32} {late : Bool} (hw : w < a.part.jets + a.part.spares)
    (hc : a.pwr.refclk = true) (hv : schedOk (wellOf a w) e (schedFrom v) = true) :
    wellSchedWrite w e v late a = modWell w (fun x => { x with pend := x.pend ++ [.sched (flag late) e (schedFrom v)] }) a := by
  unfold wellSchedWrite
  rw [if_neg (by simp [hc]), if_pos (by simp [hw, hv])]

/-- R57, R69: a channel write that leaves forerunner mode off is accepted whether or not the channel's loop is enabled. -/
theorem wellChanWrite_of_native {ch : Nat} {v : W32} {late : Bool} (hw : w < a.part.jets + a.part.spares) (hc : a.pwr.refclk = true)
    (hch : ch < 72) (hv : chanOk (chanFrom v) = true) (hk : (chanFrom v).filtK = 0) :
    wellChanWrite w ch v late a = modWell w (fun x => { x with pend := x.pend ++ [.chan (flag late) ch (chanFrom v)] }) a := by
  unfold wellChanWrite
  rw [if_neg (by simp [hc]), if_pos (by simp [hw, hch, hv]), if_neg (by simp [hk])]

/-- R55, R326, R362: a frame converts its entries, records its clipped results and is checked. -/
theorem wellFrame_of_clocked {raw : List Nat} (hw : w < a.part.jets + a.part.spares) (hc : a.pwr.refclk = true)
    (ha : awake a = true) :
    wellFrame w raw a = checkNow (88 + w) (forEach (frameClips a.tb.now raw (wellOf a w))
      (modWell w (fun _ => frameOf a.tb.now raw (wellOf a w)) a) fun s t => evAt t (136 + w) s) := by
  have hm : a.sys.mode ≠ .reset := by simpa using ha
  exact if_pos (by simp [hw, hc, hm])

/-- R71: the delay ends 1.2 us after the wake. -/
theorem wellWakeEnd_of_due {t : Time} (hk : (wellOf a w).wakeAt = some t) (ht : t + ns 1200 ≤ a.tb.now) :
    wellWakeEnd w a = modWell w (fun x => { x with wakeAt := none }) a := by
  unfold wellWakeEnd
  rw [hk]
  exact if_pos ht

theorem rangeStepDown_of_clipped {ch : Nat} (hch : ch < 72) (hn : 4 ≤ (sget {} (wellOf a w).win ch : Window).clips)
    (hg : (chanOf (wellOf a w) ch).gain ≠ 0) :
    rangeStepDown w ch a = modWell w (stepGain a.tb.now ch ((chanOf (wellOf a w) ch).gain - 1)) a := if_pos ⟨hch, hn, hg⟩

theorem rangeStepUp_of_low {ch : Nat} (hch : ch < 72) (hn : 1024 ≤ (sget {} (wellOf a w).win ch : Window).lows)
    (hg : (chanOf (wellOf a w) ch).gain ≠ 3) :
    rangeStepUp w ch a = modWell w (stepGain a.tb.now ch ((chanOf (wellOf a w) ch).gain + 1)) a := if_pos ⟨hch, hn, hg⟩

theorem wellSliceFail_of_present (hw : w < a.part.jets + a.part.spares) : wellSliceFail w a = raise (88 + w) a := if_pos hw

end

/-- Settles O26, happening by happening. -/
theorem wellsComplete : Obligations.WellsComplete := by
  intro dt w e ch v late raw t s a x ha hw
  exact ⟨fun hc hv => live_next_of_effect ha (wellSchedWrite_of_accepted hw hc hv),
    fun hc hch hv hk => live_next_of_effect ha (wellChanWrite_of_native hw hc hch hv hk),
    fun hc => live_next_of_effect ha (wellFrame_of_clocked hw hc ha),
    fun hk ht => live_next_of_effect ha (wellWakeEnd_of_due hk ht),
    fun hch hn hg => live_next_of_effect ha (rangeStepDown_of_clipped hch hn hg),
    fun hch hn hg => live_next_of_effect ha (rangeStepUp_of_low hch hn hg),
    live_next_of_effect ha (wellSliceFail_of_present hw)⟩

/-! ### Takeovers -/

section
variable {a : State}

/-- The well that a Jet reads is no part of its own takeover. -/
theorem takenBy_selectWell (j w : Nat) (a : State) :
    (jetOf (modJet j (fun x => { x with wellSel := some w }) a) j).takenBy = (jetOf a j).takenBy := by
  rw [jetOf_modJet, if_pos rfl]

/-- R74: the spare of its group takes the taps of a failed well, and the well's Jet, itself in service, reads them there. -/
theorem wellTakeover_of_spare {w : Nat} (hf : fwLive a = true) (hm : a.sys.mode ≠ .safe) (hw : w < a.part.jets)
    (hv : (wellOf a w).failed = true) (haway : (wellOf a w).away = false)
    (hidle : a.dike.wellSpare.contains (spareGroup a.part w) = false) (hsound : (wellOf a (spareWell a.part w)).failed = false)
    (hj : (jetOf a w).takenBy = none) :
    let sp := spareWell a.part w
    let b := modJet w (fun j => { j with wellSel := some sp })
      (modWell w (fun x => { x with away := true }) (modWell sp (takeTaps (w % 16) (wellOf a w)) a))
    wellTakeover w a = ev 293 (notify 0xF (wearBody 6 0 w sp)
      { b with dike := { b.dike with wellSpare := spareGroup a.part w :: b.dike.wellSpare } }) := by
  intro sp b
  have hb : (jetOf b w).takenBy = none := (takenBy_selectWell w sp _).trans hj
  unfold wellTakeover
  rw [if_pos (by simpa [hw, hv, haway, hsound, hf, hm] using hidle)]
  dsimp only
  rw [hb]
  rfl

/-- R81, R121: the spare of its group takes the loops of a failed Jet, with no reconfiguration and no insertion of the Jet under way. -/
theorem takeJet_of_spare {j : Nat} (fresh : Bool) (hf : fwLive a = true) (hm : a.sys.mode ≠ .safe) (hj : j < a.part.jets)
    (hx : (jetOf a j).failed = true) (ht : (jetOf a j).takenBy = none)
    (hidle : a.dike.jetSpare.contains (spareGroup a.part j) = false)
    (hsound : (jetOf a (a.part.jets + spareGroup a.part j)).failed = false) (hseq : seqBusy a.fab = false)
    (hins : insertingIn a j = false) :
    let sp := a.part.jets + spareGroup a.part j
    let b := modJet sp (fun y => { y with takeIdx := BitVec.ofNat 4 (j % 16), takeEn := true,
                                          wellSel := some ((jetOf a j).wellSel.getD j), run := true, cap := (jetOf a j).cap })
      (modJet j (fun x => { x with takenBy := some sp, remap := true }) a)
    let d := forEach (loopsOfJet a.part j) b fun s l =>
      safeFromDesc l (modLoop l (fun v => takenLoop (valveInteg s l) (spareCopy s fresh sp l v) v) (lockEvent l s))
    takeJet j fresh a = ev 293 (notify 0xF (wearBody 5 0 j sp)
      { d with dike := { d.dike with jetSpare := spareGroup a.part j :: d.dike.jetSpare } }) :=
  if_pos (by simpa [hj, hx, ht, hsound, hseq, hins, hf, hm] using hidle)

end

/-- Settles O27: the well's takeover, and the Jet's with slots that firmware writes. -/
theorem takeoversComplete : Obligations.TakeoversComplete := by
  intro dt w j s a sp q ha hf hm
  exact ⟨fun hw hv haway hidle hsound hj => live_next_of_effect ha (wellTakeover_of_spare hf hm hw hv haway hidle hsound hj),
    fun hj hx ht hidle hsound hseq hins => live_next_of_effect ha (takeJet_of_spare true hf hm hj hx ht hidle hsound hseq hins)⟩

end Sys2Proof.Machine
end

section
/-! SUPPORT. A flip level written by a sequence, and what it does to its cell's loop (R95, R132, R330, R430). -/

namespace Sys2Proof.Machine

section
variable {c : Nat} {level : Bool} {a : State}

/-- R82, R95, R330: the loop's signs, the level, and the flip that it counts. -/
theorem writeLevel_eq (c : Nat) (level : Bool) (a : State) : writeLevel c level a =
    { modFlip c (fun f => { f with level := level }) (signFlip c level a) with
      wear := countFlip c (level && !(flipOf a c).level) a.wear } := by
  rw [← signFlip_wear c level a]
  cases hr : level && !(flipOf a c).level with
  | true => exact if_pos hr
  | false => exact if_neg (ne_true_of_eq_false hr)

theorem flipOf_writeLevel (k : Nat) :
    flipOf (writeLevel c level a) k = if k = c then { flipOf a c with level := level } else flipOf a k := by
  rw [writeLevel_eq]
  refine (flipOf_modFlip _ c k _).trans ?_
  simp only [flipOf, signFlip_dac]

theorem loopOf_writeLevel (k : Nat) : loopOf (writeLevel c level a) k = loopOf (signFlip c level a) k := by
  rw [writeLevel_eq]
  rfl

theorem wear_writeLevel : (writeLevel c level a).wear = countFlip c (level && !(flipOf a c).level) a.wear := by
  rw [writeLevel_eq]

theorem writeLevel_frame (c : Nat) (level : Bool) (a : State) : FlipFrame c a (writeLevel c level a) := by
  have hs := signFlip_frame c level a
  have hf := hs.trans (.modFlip c (fun f => { f with level := level }) _)
  rw [writeLevel_eq]
  refine ⟨fun k hk => ?_, ?_⟩
  · obtain ⟨hflip, hloop, -⟩ := hf.1 k hk
    exact ⟨hflip, hloop, (sget_countFlip c _ a.wear k).trans (if_neg hk)⟩
  · exact congrArg (fun u : State => { u with wear := countFlip c (level && !(flipOf a c).level) a.wear }) hf.2

/-- A cell's applied state is another matter than its level: a level write leaves it. -/
theorem writeLevel_fab (c : Nat) (level : Bool) (a : State) : (writeLevel c level a).fab = a.fab := by
  rw [writeLevel_eq]
  exact signFlip_fab c level a

end

/-- Settles O23: the signs from `loopOf_signFlip`, the rest from the level's own rules. -/
theorem levelWrite : Obligations.LevelWrite := by
  intro c level s t
  obtain ⟨hother, ht⟩ := writeLevel_frame c level s
  have hloop : loopOf t c = _ := (loopOf_writeLevel c).trans (loopOf_signFlip c level s)
  refine ⟨?level, fun hne => ?changed, fun he => hloop.trans (if_pos he), ?count,
    fun k hk => ⟨(hother k hk).1, (hother k hk).2.1⟩, (congrArg (·.dac.port) ht :), (congrArg (·.dac.htr) ht :),
    writeLevel_fab c level s, (congrArg State.mbx ht :), (congrArg State.sys ht :)⟩
  case level => exact congrArg Flip.level ((flipOf_writeLevel c).trans (if_pos rfl))
  case changed =>
    rw [hloop.trans (if_neg hne)]
    exact ⟨rfl, rfl, rfl, rfl⟩
  case count =>
    rw [wear_writeLevel, sget_countFlip, if_pos rfl]
    simp [flipOf]

end Sys2Proof.Machine
end

section
/-! SUPPORT. The Jets: what each of their happenings does to a state (R91, R93, R106 to R108, R114, R115, R117, R121), and a round start to
one loop's parameters (R108, R123). -/

namespace Sys2Proof.Machine

/-! ### The happenings of a Jet -/

section
variable {j : Nat} {a : State}

/-- The state as a round begins: the round is counted, and its start stands. -/
def roundBegun (a : State) : State := { a with jets := { a.jets with round := a.jets.round + 1, roundAt := a.tb.now } }

/-- R91, R107: a round begins with the Recentres that wait, and ends with the report of the pair's changes (R433). -/
theorem startRound_of_clocked {late : List Nat} (ha : awake a = true) (hc : a.pwr.refclk = true) (hm : a.sys.mode ≠ .safe) :
    startRound late a = pairReport (roundReplies (injectedRound (captureRound (jetsRound late (recentreAll (roundBegun a)))))) := by
  have hr : a.sys.mode ≠ .reset := by simpa using ha
  unfold startRound
  rw [if_neg (by simp [hr, hc])]
  exact if_neg hm

/-- R115: in Safe a round leaves the Jets alone. -/
theorem startRound_of_safe {late : List Nat} (hc : a.pwr.refclk = true) (hm : a.sys.mode = .safe) :
    startRound late a = pairReport (roundBegun a) := by
  unfold startRound
  rw [if_neg (by simp [hm, hc])]
  exact if_pos hm

/-- R108: the slots that a word to JET_SWAP_LO or JET_SWAP_HI names. -/
def swapAsked (hi : Bool) (v : W32) : List Nat := (ones (if hi then 8 else 32) v).map ((if hi then 32 else 0) + ·)

/-- R93: the cycles of a Jet whose asked slots take their shadow banks. -/
def swapCycles (a : State) (j : Nat) (asked : List Nat) : Nat :=
  slotCycles a j fun k x => (x.desc.kind, if asked.contains k then x.shadow else x.coming)

/-- R93, R108: a swap is asked for where the Jet's slots then fit the round. -/
theorem swapWrite_of_present {hi : Bool} {v : W32} (hj : j < a.part.jets + a.part.spares) (hc : a.pwr.refclk = true) :
    swapWrite j hi v a = if jetRoom a < swapCycles a j (swapAsked hi v) then a
      else forEach (swapAsked hi v) a fun s k => modSlot j k (fun x => { x with swap := true }) s := by
  unfold swapWrite
  rw [if_neg (by simp [hc]), if_neg (Nat.not_le.mpr hj)]
  rfl

/-- R114: more skips than the limit raise the group's source and are counted anew. -/
theorem skipLimit_of_exceeded (hj : j < a.part.jets + a.part.spares) (hn : (jetOf a j).limit.toNat < (jetOf a j).skipped) :
    skipLimit j a = raise (156 + spareGroup a.part j) (modJet j (fun x => { x with skipped := 0 }) a) := if_pos ⟨hj, hn⟩

/-- R114: a window's end clears the count of skips. -/
theorem skipEnd_of_present (hj : j < a.part.jets + a.part.spares) :
    skipEnd j a = modJet j (fun x => { x with skipped := 0 }) a := if_pos hj

/-- R117: a cell on a path without its lock raises the source of its Jet's group. -/
theorem lockLost_of_lit {cell : Nat} (hn : cell < a.part.cells) (hl : (loopOf a cell).lock = false) (hp : onPath a cell = true) :
    lockLost cell a = raise (160 + spareGroup a.part (jetOfLoop a.part cell)) a := if_pos (by simp [hn, hl, hp])

/-- R121: the copy takes the loops of the Jets that have not failed, and keeps what it holds of the others. -/
theorem refreshSram_of_live (hf : fwLive a = true) :
    refreshSram a = { a with jets := { a.jets with sram := a.jets.loops.filterMap fun e =>
      if (jetOf a (runnerOf a e.1)).failed then (a.jets.sram.find? fun x => x.1 == e.1) else some e } } :=
  if_neg (by simp [hf])

end

/-! ### A loop's parameters at a round start (R108, R123) -/

section
variable (x : Loop)

theorem paramStart_eq : paramStart x = { x with
    swap := false, setLight := none, setSetpt := none, setRamp := none, setLock := none
    desc := { x.desc with
      abank := x.desc.abank ^^ x.swap, lightMin := x.setLight.getD x.desc.lightMin, setpt := x.setSetpt.getD x.desc.setpt
      rampStep := x.setRamp.getD x.desc.rampStep, lockBand := x.setLock.getD x.desc.lockBand } } := by
  cases hs : x.swap <;> simp [paramStart, hs]

/-- R108: a requested swap turns ABANK over and is done; both banks stay as written. -/
theorem paramStart_banks : (paramStart x).desc.abank = (x.desc.abank ^^ x.swap) ∧ (paramStart x).bank0 = x.bank0 ∧
    (paramStart x).bank1 = x.bank1 ∧ (paramStart x).swap = false := by
  rw [paramStart_eq]
  exact ⟨rfl, rfl, rfl, rfl⟩

/-- R108: the bank that a swap makes active is the shadow bank. -/
theorem paramStart_active : (paramStart x).active = if x.swap then x.shadow else x.active := by
  obtain ⟨habank, hbank0, hbank1, -⟩ := paramStart_banks x
  unfold Loop.active Loop.shadow
  rw [habank, hbank0, hbank1]
  cases x.swap <;> cases x.desc.abank <;> rfl

/-- R123: the parameters that wait take effect. -/
theorem paramStart_params : (paramStart x).desc.lightMin = x.setLight.getD x.desc.lightMin ∧
    (paramStart x).desc.setpt = x.setSetpt.getD x.desc.setpt ∧ (paramStart x).desc.rampStep = x.setRamp.getD x.desc.rampStep ∧
    (paramStart x).desc.lockBand = x.setLock.getD x.desc.lockBand := by
  rw [paramStart_eq]
  exact ⟨rfl, rfl, rfl, rfl⟩

/-- What the loop has come to, no round start changes. -/
theorem paramStart_state : (paramStart x).desc.integ = x.desc.integ ∧ (paramStart x).desc.base = x.desc.base ∧
    (paramStart x).desc.con = x.desc.con ∧ (paramStart x).desc.st = x.desc.st := by
  rw [paramStart_eq]
  exact ⟨rfl, rfl, rfl, rfl⟩

variable {x}

/-- A loop that nothing was asked of stays as it was. -/
theorem paramStart_of_unasked (hs : x.swap = false) (hl : x.setLight = none) (hp : x.setSetpt = none) (hr : x.setRamp = none)
    (hb : x.setLock = none) : paramStart x = x := by
  obtain ⟨⟩ := x
  subst hs hl hp hr hb
  rfl

end

/-- Settles O29, happening by happening. -/
theorem jetsComplete : Obligations.JetsComplete := by
  intro dt j cell hi v late s a ha
  refine ⟨fun hc => ⟨fun hm => ?round, fun hm => ?safe⟩, fun hj hc => ⟨fun hfit => ?fit, fun hover => ?unfit⟩,
    fun hj hn => live_next_of_effect ha (skipLimit_of_exceeded hj hn), fun hj => live_next_of_effect ha (skipEnd_of_present hj),
    fun hn hl hp => live_next_of_effect ha (lockLost_of_lit hn hl hp), live_next ha,
    fun hf => live_next_of_effect ha (refreshSram_of_live hf), fun x => ?param⟩
  case round => exact live_next_of_effect ha (startRound_of_clocked ha hc hm)
  case safe => exact live_next_of_effect ha (startRound_of_safe hc hm)
  case fit => exact live_next_of_effect ha ((swapWrite_of_present hj hc).trans (if_neg (Nat.not_lt.mpr hfit)))
  case unfit => exact live_next_of_effect ha ((swapWrite_of_present hj hc).trans (if_pos hover))
  case param =>
    obtain ⟨habank, hbank0, hbank1, hswap⟩ := paramStart_banks x
    obtain ⟨hlight, hset, hramp, hlock⟩ := paramStart_params x
    exact ⟨habank, hbank0, hbank1, hswap, paramStart_active x, hlight, hset, hramp, hlock, paramStart_of_unasked,
      paramStart_state x⟩

end Sys2Proof.Machine
end

section
/-! SUPPORT. The reconfiguration sequence (R129 to R132, R135, R143, R148, R149, R197): the valves that a sequence writes, and what each of
its instants does to a state. -/

namespace Sys2Proof.Machine

/-! ### Valves (R37, R81, R123, R130, R148) -/

section
variable {n : Nat} {op : Bool} {a : State}

/-- The code that a valve takes: OPEN_CODE or BLOCK_CODE. -/
def valveCode (a : State) (n : Nat) (op : Bool) : BitVec 14 := if op then openCode a n else blockCode a n

theorem writeValve_eq (n : Nat) (op : Bool) (a : State) : writeValve n op a =
    modLoop (valveLoop a.part n) (fun l => { l with desc := { l.desc with st := op, lastCode := (valveCode a n op).setWidth 16 } })
      (withFab (fun f => { f with openPorts := setBit f.openPorts n op })
        (modPortDac (256 + n) (fun d => { d with code := valveCode a n op }) a)) := rfl

theorem portDacOf_writeValve (k : Nat) : portDacOf (writeValve n op a) (256 + k) =
    if k = n then { portDacOf a (256 + k) with code := valveCode a k op } else portDacOf a (256 + k) := by
  refine (portDacOf_modPortDac a (256 + n) (256 + k) _).trans ?_
  by_cases hk : k = n
  · subst hk
    rw [if_pos rfl, if_pos rfl]
    rfl
  · rw [if_neg hk, if_neg (by omega)]

/-- R123: a valve's own codes stand in its descriptor's SETPT, which no write to a valve changes. -/
theorem setpt_writeValve (l : Nat) : (loopOf (writeValve n op a) l).desc.setpt = (loopOf a l).desc.setpt := by
  rw [writeValve_eq, loopOf_modLoop]
  split
  case isTrue h => rw [h]; rfl
  case isFalse => rfl

theorem valveCode_writeValve (k : Nat) (b : Bool) : valveCode (writeValve n op a) k b = valveCode a k b := by
  have hs : (loopOf (writeValve n op a) (valveLoop a.part k)).desc.setpt = (loopOf a (valveLoop a.part k)).desc.setpt :=
    setpt_writeValve _
  unfold valveCode
  cases b
  · exact congrArg (BitVec.extractLsb' 16 14) hs
  · exact congrArg (BitVec.extractLsb' 0 14) hs

/-- R77, R148: a write to a valve changes neither its owner nor the state of its Jet. -/
theorem valveRefused_writeValve (k : Nat) : valveRefused (writeValve n op a) k = valveRefused a k := by
  have ho : (portDacOf (writeValve n op a) (256 + k)).own = (portDacOf a (256 + k)).own := by
    rw [portDacOf_writeValve]
    split <;> rfl
  exact congrArg (refusedAt a (valveLoop a.part k)) ho

end

/-! ### The valve writes of a sequence -/

/-- Valves written one after the other. -/
def writeValves (l : List Nat) (op : Nat → Bool) (a : State) : State := forEach l a fun s n => writeValve n (op n) s

section
variable {l : List Nat} {op : Nat → Bool} {a : State}

theorem writeValves_cons (k : Nat) (l : List Nat) (op : Nat → Bool) (a : State) :
    writeValves (k :: l) op a = writeValves l op (writeValve k (op k) a) := rfl

theorem openPorts_writeValves (hl : ∀ k ∈ l, k < 256) (n : Nat) : (writeValves l op a).fab.openPorts.getLsbD n =
    if n ∈ l then op n else a.fab.openPorts.getLsbD n := by
  induction l generalizing a with
  | nil => rfl
  | cons k l ih =>
    have hk : (writeValve k (op k) a).fab.openPorts.getLsbD n = if n = k then op k else a.fab.openPorts.getLsbD n :=
      getLsbD_setBit _ _ _ _ (hl k List.mem_cons_self)
    rw [writeValves_cons, ih fun m hm => hl m (List.mem_cons_of_mem _ hm), hk]
    by_cases hnl : n ∈ l <;> by_cases hnk : n = k <;> simp [hnl, hnk]

theorem portDacOf_writeValves (n : Nat) : portDacOf (writeValves l op a) (256 + n) =
    if n ∈ l then { portDacOf a (256 + n) with code := valveCode a n (op n) } else portDacOf a (256 + n) := by
  induction l generalizing a with
  | nil => rfl
  | cons k l ih =>
    rw [writeValves_cons, ih, portDacOf_writeValve, valveCode_writeValve]
    by_cases hnl : n ∈ l <;> by_cases hnk : n = k <;> simp [hnl, hnk]

/-- Of the fabric the writes touch the map of open valves alone. -/
theorem writeValves_fab (l : List Nat) (op : Nat → Bool) (a : State) :
    (writeValves l op a).fab = { a.fab with openPorts := (writeValves l op a).fab.openPorts } := by
  have h : { (writeValves l op a).fab with openPorts := 0 } = { a.fab with openPorts := 0 } :=
    foldl_keeps (fun s : State => { s.fab with openPorts := 0 }) (fun s n => writeValve n (op n) s) (fun _ _ => rfl) l a
  exact congrArg (fun f : Fab => { f with openPorts := (writeValves l op a).fab.openPorts }) h

/-- R148: a sequence whose valves no Jet's failure and no owner refuses writes each of them. -/
theorem seqValves_of_unrefused (r : Reconf) (ports : PortMap) (op : Nat → Bool)
    (h : ∀ n < a.part.ports, valveRefused a n = false) : seqValves r ports op a = writeValves (ones a.part.ports ports) op a := by
  have hl : ∀ n ∈ ones a.part.ports ports, valveRefused a n = false := fun n hn => h n ((mem_ones _ _ _).mp hn).1
  unfold seqValves
  generalize ones a.part.ports ports = l at hl
  clear h
  induction l generalizing a with
  | nil => rfl
  | cons k l ih =>
    rw [writeValves_cons, ← ih fun n hn => (valveRefused_writeValve n).trans (hl n (List.mem_cons_of_mem _ hn)), forEach,
      List.foldl_cons, if_neg (ne_true_of_eq_false (hl k List.mem_cons_self))]

end

/-! ### T_open (R130, R148) -/

section
variable {r : Reconf} {a : State}

/-- R130, R338: a valve of the opening set opens where mode and role let light out and no insertion holds it. -/
def opensAt (a : State) (n : Nat) : Bool := valvesLive a.sys && !(insertBlocked a).getLsbD n

/-- The valve writes at T_open. -/
def openingWrites (r : Reconf) (a : State) : State :=
  writeValves (ones a.part.ports r.opening) (opensAt a) (reach (tOpenOf r.tClose r.gap) a)

/-- R130: beside the valve writes T_open moves the reconfiguration on to its judgement. -/
theorem doOpen_of_dark (h : firstIn .dark a.fab = some r) :
    let v := seqValves r r.opening (opensAt a) (reach (tOpenOf r.tClose r.gap) a)
    let t := doOpen a
    t.dac = v.dac ∧ t.fab.openPorts = v.fab.openPorts ∧
    t.fab.recon = (v.fab.recon.map fun x => if x.seq = r.seq then { x with phase := .opened } else x) ∧
    t.fab.lastClose = some r.tClose ∧ t.fab.cells = v.fab.cells ∧ t.fab.conns = v.fab.conns := by
  unfold doOpen
  simp only [h]
  exact ⟨rfl, rfl, rfl, rfl, rfl, rfl⟩

theorem seqValves_opening (r : Reconf) (hv : ∀ n < a.part.ports, valveRefused a n = false) :
    seqValves r r.opening (opensAt a) (reach (tOpenOf r.tClose r.gap) a) = openingWrites r a := seqValves_of_unrefused r r.opening _ hv

theorem openingWrites_fab (r : Reconf) (a : State) :
    (openingWrites r a).fab = { a.fab with openPorts := (openingWrites r a).fab.openPorts } := writeValves_fab _ _ _

theorem openPorts_openingWrites {n : Nat} (hn : n < a.part.ports) : (openingWrites r a).fab.openPorts.getLsbD n =
    if r.opening.getLsbD n then opensAt a n else a.fab.openPorts.getLsbD n := by
  have hp : a.part.ports ≤ 256 := by cases a.part <;> decide
  refine (openPorts_writeValves (fun k hk => ((mem_ones _ _ _).mp hk).1.trans_le hp) n).trans ?_
  simp [mem_ones, hn]

theorem portDacOf_openingWrites {n : Nat} (hn : n < a.part.ports) : portDacOf (openingWrites r a) (256 + n) =
    if r.opening.getLsbD n then { portDacOf a (256 + n) with code := valveCode a n (opensAt a n) } else portDacOf a (256 + n) := by
  refine (portDacOf_writeValves n).trans ?_
  simp only [mem_ones, hn, true_and]
  rfl

end

/-- Settles O22: the valves one by one, then what T_open makes of the list of reconfigurations. -/
theorem openingWritesTheValves : Obligations.OpeningWritesTheValves := by
  intro r s hr hv t
  obtain ⟨hdac, hopen, hrecon, hclose, hcells, hconns⟩ := doOpen_of_dark hr
  rw [seqValves_opening r hv] at hdac hopen hrecon hcells hconns
  have hfab := openingWrites_fab r s
  have hport (n : Nat) : sget {} t.dac.port (256 + n) = portDacOf (openingWrites r s) (256 + n) :=
    congrArg (fun d : Dac => sget {} d.port (256 + n)) hdac
  refine ⟨fun n hn ho => ?opening, fun n hn ho => ?other, ⟨{ r with phase := .opened }, ?moved, rfl, rfl⟩, fun x hx hq => ?phase,
    hclose, hcells.trans (congrArg Fab.cells hfab :), hconns.trans (congrArg Fab.conns hfab :)⟩
  case opening =>
    rw [hopen, openPorts_openingWrites hn, hport, portDacOf_openingWrites hn, if_pos ho, if_pos ho]
    exact ⟨rfl, rfl⟩
  case other =>
    have ho' : ¬r.opening.getLsbD n = true := ne_true_of_eq_false ho
    rw [hopen, openPorts_openingWrites hn, hport, portDacOf_openingWrites hn, if_neg ho', if_neg ho']
    exact ⟨rfl, rfl⟩
  case moved =>
    rw [hrecon, hfab]
    exact List.mem_map.mpr ⟨r, List.mem_of_find?_eq_some hr, if_pos rfl⟩
  case phase =>
    rw [hrecon] at hx
    obtain ⟨y, -, rfl⟩ := List.mem_map.mp hx
    split at hq
    case isTrue hy => rw [if_pos hy]
    case isFalse hy => exact absurd hq hy

/-! ### The instants of the sequence -/

section
variable {r : Reconf} {a : State}

/-- R371: an instant of the sequence is a stage of the request that is tagged. -/
theorem taggedIn_of_first {ph : Phase} {k : Nat} {f : State → State} (h : firstIn ph a.fab = some r) :
    taggedIn ph k f a = tagStage (tagOfSeq r.seq) k (f a) := by
  unfold taggedIn
  simp only [h]

/-- R129, R197, R251: the closing set is blocked, the tracked entries have fired, and a follow takes note. -/
theorem closeNow_of_armed (h : firstIn .armed a.fab = some r) :
    closeNow a = followClosed r (forEach (r.entries.filter (·.tracked))
      (ev 273 (setReconf r.seq (fun x => { x with phase := .closed }) (seqValves r r.closure (fun _ => false) (reach r.tClose a))))
      fun s e => fireEntry e.entry s) := by
  unfold closeNow doClose
  simp only [h]

/-- R131, R132, R135. -/
theorem darkNow_of_closed (h : firstIn .closed a.fab = some r) :
    darkNow a = reheat r.flips (darkWrites r (reach (tDarkOf r.tClose) a)) := by
  unfold darkNow doDark
  simp only [h]

/-- R149: a mismatch counts at a cell that was written. -/
theorem doReadback_of_dark {mismatch : List Nat} (h : firstIn .dark a.fab = some r) :
    let bad := mismatch.eraseDups.filter fun c => r.flips.getLsbD c && !flipRefused a c
    let b := setReconf r.seq (fun x => { x with unmade := x.unmade + bad.length }) (reach (tDarkOf r.tClose + ns 30) a)
    doReadback mismatch a = if r.flips = 0 then b else if inverted b 164 || bad.isEmpty then checkNow 164 b else raise 164 b := by
  unfold doReadback
  simp only [h]

/-- R143: the loops that have not settled are late. -/
theorem doDeadline_of_opened (h : firstIn .opened a.fab = some r) :
    doDeadline a = setReconf r.seq (fun x => { x with phase := .judged, late := x.todo })
      (reach (tOpenOf r.tClose r.gap + settleTime a.jets.rate) a) := by
  unfold doDeadline
  simp only [h]

end

/-- Settles O21, instant by instant. -/
theorem sequenceCompletes : Obligations.SequenceCompletes := by
  intro r mismatch s a ha
  refine ⟨fun h => ?close, fun h => live_next_of_effect ha (darkNow_of_closed h),
    fun h => live_next_of_effect ha (doReadback_of_dark h), fun h => live_next_of_effect ha (taggedIn_of_first h), fun h => ?settle⟩
  case close => exact live_next_of_effect ha ((taggedIn_of_first h).trans (by rw [closeNow_of_armed h]))
  case settle => exact live_next_of_effect ha ((taggedIn_of_first h).trans (by rw [doDeadline_of_opened h]))

end Sys2Proof.Machine
end

section
/-! SUPPORT. The report of a reconfiguration (R149, R150, R432). -/

namespace Sys2Proof.Machine

/-- R149, R150, R432: the report of a host command's reconfiguration whose loops have all settled is notified with its event and that of a
power mismatch, and the connections that now hold are mirrored and answered. -/
theorem reportReconf_of_settled {r : Reconf} {a : State} (hf : fwLive a = true)
    (hr : a.fab.recon.find? (fun r => decide (r.phase = .judged ∨ r.phase = .abandoned)) = some r) (hp : r.phase = .judged)
    (hl : r.late = []) (he : r.entries = []) (ht : r.todo = []) (hs : r.source = 0) :
    let u := { a with fab := { a.fab with recon := a.fab.recon.filter fun x => x.seq ≠ r.seq } }
    let bad := if r.noWrites then 0 else (powerFails a r).length
    let b := ev 275 (notifyAt u.tb.now 2 (aboutSlot u (originSlot r.origin) 0) false (reconfBytes a.part r bad false) u)
    let d := if bad = 0 then b else ev 277 b
    reportReconf r.seq a = tagStage (tagOfSeq r.seq) 6
      (answerOrigin r (reconfBytes a.part r bad false) (recheckConfigs (mirror (.applied d.fab.conns r.seq) d))) := by
  intro u bad b d
  have hdue : (if fwLive a then (a.fab.recon.find? fun r => decide (r.phase = .judged ∨ r.phase = .abandoned)).filter (·.seq == r.seq)
      else none) = some r := by rw [if_pos hf, hr, Option.filter_some, if_pos (beq_self_eq_true _)]
  unfold reportReconf
  rw [hdue]
  simp [withFab, hp, hl, he, ht, hs, u, bad, b, d]

/-- Settles O24: the report comes to a reconfiguration that is judged, with no loop late and no entry behind it. -/
theorem reconfReportCompletes : Obligations.ReconfReportCompletes := fun _ _ _ ha hf hr hp hl he ht hs =>
  live_next_of_effect ha (reportReconf_of_settled hf hr hp hl he ht hs)

end Sys2Proof.Machine
end

section
/-! SUPPORT. Instants (R151 to R154): their signed difference as the hardware forms it, and the range in which it is the true one. -/

namespace Sys2Proof.Machine

/-- A signed field of 64 bits reads as the word of its bits does. -/
theorem sgn_unsgn (z : Int) : sgn 64 (unsgn 64 z) = (BitVec.ofInt 64 z).toInt := by
  have hv : unsgn 64 z = (BitVec.ofInt 64 z).toNat := by simp [unsgn, BitVec.toNat_ofInt]
  have hm : (BitVec.ofInt 64 z).toNat % 2 ^ 64 = (BitVec.ofInt 64 z).toNat := Nat.mod_eq_of_lt (BitVec.isLt _)
  rw [hv, sgn, hm, BitVec.toInt_eq_msb_cond, BitVec.msb_eq_getLsbD_last]
  simp [BitVec.getLsbD]

/-- R153: the difference of two instants is that of their 64-bit counts. -/
theorem tdiff_eq_toInt (a b : Time) : tdiff a b = (BitVec.ofNat 64 a - BitVec.ofNat 64 b).toInt := by
  rw [tdiff, sgn_unsgn, BitVec.toInt_ofInt, BitVec.toInt_sub, BitVec.toInt_ofNat', BitVec.toInt_ofNat', ← Int.sub_bmod]

theorem later_iff (a b : Time) : later a b = true ↔ 0 < tdiff a b := decide_eq_true_iff

/-- R153: within ±2^63 units the difference is the true one. -/
theorem tdiff_eq_sub {a b : Time} (hlo : -(2 ^ 63 : Int) ≤ (a : Int) - b) (hhi : (a : Int) - b < 2 ^ 63) : tdiff a b = (a : Int) - b := by
  rw [tdiff, sgn_unsgn, BitVec.toInt_ofInt, Int.bmod_eq_of_le] <;> omega

/-- Counts modulo 2^64 are all that the word of a count holds. -/
theorem ofNat_count (a : Nat) : BitVec.ofNat 64 (a % 2 ^ 64) = BitVec.ofNat 64 a := BitVec.eq_of_toNat_eq (by simp)

/-- Settles O36: instants in their format, then counts, then counts within ±2^63 units. -/
theorem instantsCompare : Obligations.InstantsCompare := by
  refine ⟨fun p q i j => ?fields, fun a b => ⟨?_, later_iff a b⟩, fun a b hlo hhi => ⟨tdiff_eq_sub hlo hhi, ?true⟩⟩
  case fields =>
    simp only [ofNat_count, later_iff]
    have h := tdiff_eq_toInt (timeOf p i) (timeOf q j)
    exact ⟨h, by rw [h]; rfl⟩
  · rw [ofNat_count, ofNat_count, tdiff_eq_toInt]
  case true =>
    rw [later_iff, tdiff_eq_sub hlo hhi, sub_pos, Nat.cast_lt]

end Sys2Proof.Machine
end

section
/-! SUPPORT. Reading back what was written: fields of little-endian bytes, an instant (R151, R152), the payloads and messages of the
Cladal link (R239, R240, R245) and the scrambler (R209). -/

namespace Sys2Proof.Machine

/-! ### Fields of bytes that were written one after another -/

section
variable {off n k v : Nat} {p : List Byte}

theorem fld_head {a : List Byte} (h : a.length = n) : fld (a ++ p) 0 n = leNat a := congrArg leNat (sub_head h)

theorem fld_skip {a : List Byte} (h : a.length ≤ off) : fld (a ++ p) off n = fld p (off - a.length) n :=
  congrArg leNat (sub_skip (by omega))

@[simp] theorem fld_le_append : fld (le n v ++ p) 0 n = v % 256 ^ n := (fld_head (length_le n v)).trans (leNat_le n v)

@[simp] theorem fld_le : fld (le n v) 0 n = v % 256 ^ n := by simpa using fld_le_append (p := [])

@[simp] theorem fld_le_append_skip (h : k ≤ off) : fld (le k v ++ p) off n = fld p (off - k) n := by
  simpa [length_le] using fld_skip (p := p) (n := n) ((length_le k v).le.trans h)

/-- Zero bytes are a number's. -/
theorem zeros_eq_le (n : Nat) : zeros n = le n 0 := by
  induction n with
  | zero => rfl
  | succ n ih => rw [le, ← ih]; rfl

/-- The bytes of a word hold all of it. -/
@[simp] theorem ofNat_word_field (v : W32) : BitVec.ofNat 32 (v.toNat % 4294967296) = v := BitVec.eq_of_toNat_eq (by simp [v.isLt])

@[simp] theorem ofNat_half_field (v : BitVec 16) : BitVec.ofNat 16 (v.toNat % 65536) = v := BitVec.eq_of_toNat_eq (by simp [v.isLt])

end

/-! ### Instants (R151, R152) -/

@[simp] theorem length_timeBytes (t : Time) : (timeBytes t).length = 12 := by simp [timeBytes, length_le]

/-- FRAC, NS and SEC of an instant in the format's range make up the instant again. -/
theorem time_fields {t : Nat} (h : t < 2 ^ 48 * (1000000000 * 65536)) :
    (t / sec % 256 ^ 6 * 1000000000 + t / 65536 % 1000000000 % 256 ^ 4) * 65536 + t % 65536 % 256 ^ 2 = t := by
  unfold sec
  omega

section
variable {t : Time} {p : List Byte} {off n k v : Nat}

theorem timeOf_timeBytes_append (h : timeWf t = true) : timeOf (timeBytes t ++ p) 0 = t := by
  refine Eq.trans ?_ (time_fields (of_decide_eq_true h))
  simp [timeOf, timeBytes]

theorem timeOf_timeBytes (h : timeWf t = true) : timeOf (timeBytes t) 0 = t := by
  simpa using timeOf_timeBytes_append (p := []) h

/-- R152: NS stays below 10^9. -/
theorem timeOk_timeBytes (t : Time) : timeOk (timeBytes t) 0 = true := by
  simp [timeOk, timeBytes]
  omega

theorem timeOf_skip {a : List Byte} (h : a.length ≤ off) : timeOf (a ++ p) off = timeOf p (off - a.length) := by
  rw [timeOf, timeOf, fld_skip (by omega), fld_skip (by omega), fld_skip h, Nat.sub_add_comm h, Nat.sub_add_comm h]

@[simp] theorem timeOf_le_append_skip (h : k ≤ off) : timeOf (le k v ++ p) off = timeOf p (off - k) := by
  simpa [length_le] using timeOf_skip (p := p) ((length_le k v).le.trans h)

@[simp] theorem fld_timeBytes_append_skip (h : 12 ≤ off) : fld (timeBytes t ++ p) off n = fld p (off - 12) n := by
  simpa using fld_skip (a := timeBytes t) (p := p) (n := n) (by simpa using h)

end

/-! ### The scrambler (R209) -/

/-- Both shift the same bits in, those that go over the line. -/
theorem descramble_scramble (b : List Bool) (h : BitVec 58) : descramble (scramble b h) h = b := by
  induction b generalizing h with
  | nil => rfl
  | cons x t ih => simp [scramble, descramble, ih]

/-! ### The heartbeat (R240) -/

theorem modeCode_lt (m : Mode) : modeCode m < 8 := by cases m <;> decide
theorem roleCode_lt (r : Role) : roleCode r < 4 := by cases r <;> decide
theorem partCode_lt (p : Part) : partCode p < 4 := by cases p <;> decide
theorem flag_lt (b : Bool) : flag b < 2 := by cases b <;> decide
theorem decide_flag (b : Bool) : decide (flag b = 1) = b := by cases b <;> rfl

theorem nth_modeCode (m : Mode) :
    nth .reset [.reset, .boot, .calibrate, .dark, .operate, .degraded, .maintenance, .safe] (modeCode m) = m := by cases m <;> rfl

theorem nth_roleCode (r : Role) : nth .solo [.solo, .active, .standby, .resync] (roleCode r) = r := by cases r <;> rfl

theorem nth_partCode (p : Part) : nth none [some .kx064, some .kx128, some .kx256] (partCode p) = some p := by cases p <;> rfl

/-- The first byte of a heartbeat. -/
def stateByte (h : Heartbeat) : Nat :=
  modeCode h.mode + roleCode h.role * 8 + flag h.eligible * 32 + flag h.stale * 64 + flag h.sideB * 128

theorem stateByte_fields (h : Heartbeat) :
    stateByte h < 256 ∧ stateByte h % 8 = modeCode h.mode ∧ stateByte h / 8 % 4 = roleCode h.role ∧
    stateByte h / 32 % 2 = flag h.eligible ∧ stateByte h / 64 % 2 = flag h.stale ∧ stateByte h / 128 % 2 = flag h.sideB := by
  have hm := modeCode_lt h.mode
  have hr := roleCode_lt h.role
  have he := flag_lt h.eligible
  have hs := flag_lt h.stale
  have hb := flag_lt h.sideB
  unfold stateByte
  omega

/-- The second byte of a heartbeat. -/
def healthByte (h : Heartbeat) : Nat := flag h.timeOk + flag h.follow * 2 + flag h.split * 4 + partCode h.part * 8

theorem healthByte_fields (h : Heartbeat) :
    healthByte h < 32 ∧ healthByte h % 2 = flag h.timeOk ∧ healthByte h / 2 % 2 = flag h.follow ∧
    healthByte h / 4 % 2 = flag h.split ∧ healthByte h / 8 % 4 = partCode h.part := by
  have ht := flag_lt h.timeOk
  have hf := flag_lt h.follow
  have hs := flag_lt h.split
  have hp := partCode_lt h.part
  unfold healthByte
  omega

theorem heartbeatBytes_eq (h : Heartbeat) : heartbeatBytes h = le 1 (stateByte h) ++ (le 1 (healthByte h) ++ (le 2 h.gap ++ (le 1 h.rate ++
    (le 3 0 ++ (le 4 h.seqTx.toNat ++ le 4 h.seqAck.toNat))))) := by
  simp [heartbeatBytes, stateByte, healthByte, zeros_eq_le]

theorem length_heartbeatBytes (h : Heartbeat) : (heartbeatBytes h).length = 16 := by simp [heartbeatBytes_eq, length_le]

theorem heartbeatIn_heartbeatBytes {h : Heartbeat} (hg : h.gap < 65536) (hr : h.rate < 4) : heartbeatIn (heartbeatBytes h) = some h := by
  obtain ⟨hs, hmode, hrole, helig, hstale, hside⟩ := stateByte_fields h
  obtain ⟨hh, htime, hfollow, hsplit, hpart⟩ := healthByte_fields h
  have hst : fld (heartbeatBytes h) 0 1 = stateByte h := by simp [heartbeatBytes_eq]; omega
  have hhe : fld (heartbeatBytes h) 1 1 = healthByte h := by simp [heartbeatBytes_eq]; omega
  have hga : fld (heartbeatBytes h) 2 2 = h.gap := by simp [heartbeatBytes_eq]; omega
  have hra : fld (heartbeatBytes h) 4 1 = h.rate := by simp [heartbeatBytes_eq]; omega
  have hz : fld (heartbeatBytes h) 5 3 = 0 := by simp [heartbeatBytes_eq]
  have htx : BitVec.ofNat 32 (fld (heartbeatBytes h) 8 4) = h.seqTx := by simp [heartbeatBytes_eq]
  have hack : BitVec.ofNat 32 (fld (heartbeatBytes h) 12 4) = h.seqAck := by simp [heartbeatBytes_eq]
  unfold heartbeatIn
  simp only [length_heartbeatBytes, hst, hhe, hga, hra, hz, htx, hack, hmode, hrole, helig, hstale, hside, htime, hfollow, hsplit, hpart,
    decide_flag, nth_modeCode, nth_roleCode, nth_partCode]
  rw [if_neg (by omega)]
  rfl

/-! ### Connection maps (R182) -/

/-- Entries of two bytes each. -/
def entryList (f : Nat → Nat) (l : List Nat) : List Byte := l.flatMap fun k => le 2 (f k)

theorem length_entryList (f : Nat → Nat) (l : List Nat) : (entryList f l).length = 2 * l.length := by
  simp [entryList, List.length_flatMap, length_le, Nat.mul_comm]

/-- They read back one by one. -/
theorem fld_entryList (f : Nat → Nat) (l : List Nat) (n : Nat) (h : n < l.length) : fld (entryList f l) (2 * n) 2 = f l[n] % 65536 := by
  induction l generalizing n with
  | nil => simp at h
  | cons x t ih =>
    rw [entryList, List.flatMap_cons]
    cases n with
    | zero => exact fld_le_append
    | succ n => exact (fld_le_append_skip (by omega)).trans (ih n (by simpa using h))

/-- What stands in a map for ingress port n. -/
def connEntry (inside : Nat → Bool) (m : ConnMap) (n : Nat) : Nat := if inside n then (egOf m n).getD 0xFFFF else 0xFFFE

theorem connBytes_eq (inside : Nat → Bool) (m : ConnMap) : connBytes inside m = entryList (connEntry inside m) (List.range 256) :=
  List.flatMap_congr fun n _ => (apply_ite (le 2) (inside n = true) _ _).symm

theorem length_connBytes (inside : Nat → Bool) (m : ConnMap) : (connBytes inside m).length = 512 := by
  rw [connBytes_eq, length_entryList, List.length_range]

theorem mapEntry_connBytes (inside : Nat → Bool) (m : ConnMap) {n : Nat} (h : n < 256) :
    mapEntry (connBytes inside m) n = connEntry inside m n % 65536 := by
  rw [mapEntry, connBytes_eq, fld_entryList _ _ n (by simpa using h), List.getElem_range]

/-- In a map in order of ingress ports each of them has one egress port. -/
theorem egOf_eq_some_iff {m : ConnMap} (hm : m.Pairwise fun a b => a.1 < b.1) (n v : Nat) : egOf m n = some v ↔ (n, v) ∈ m := by
  induction m with
  | nil => simp [egOf]
  | cons e t ih =>
    obtain ⟨he, ht⟩ := List.pairwise_cons.mp hm
    by_cases h : e.1 = n
    · have hn : (n, v) ∉ t := fun hv => absurd (he _ hv) (by simp [h])
      simp [egOf, h, hn, Prod.ext_iff, eq_comm]
    · have hs : egOf (e :: t) n = egOf t n := by simp [egOf, h]
      have hne : (n, v) ≠ e := fun hx => h (hx ▸ rfl)
      rw [hs, ih ht, List.mem_cons, or_iff_right hne]

section
variable {ports : Nat} {m : ConnMap}

theorem mapEntry_connBytes_lt_iff (hp : ports ≤ 256) (hm : m.Pairwise fun a b => a.1 < b.1)
    (hin : ∀ e ∈ m, e.1 < ports ∧ e.2 < ports)
    {n v : Nat} (hn : n < 256) : let x := mapEntry (connBytes (fun n => decide (n < ports)) m) n
    (x < 0x100 ∧ x = v) ↔ (n, v) ∈ m := by
  intro x
  have hx : x = connEntry (fun n => decide (n < ports)) m n % 65536 := mapEntry_connBytes _ m hn
  rw [hx, connEntry, ← egOf_eq_some_iff hm]
  cases h : egOf m n with
  | none => by_cases hi : n < ports <;> simp [hi]
  | some w =>
    obtain ⟨hi, hw⟩ := hin _ ((egOf_eq_some_iff hm n w).mp h)
    have hlt : w < 256 := hw.trans_le hp
    have hmod : w % 65536 = w := Nat.mod_eq_of_lt (by omega)
    simp [hi, hmod, hlt]

theorem mem_mapConns (b : List Byte) (n v : Nat) : (n, v) ∈ mapConns b ↔ n < 256 ∧ mapEntry b n < 0x100 ∧ mapEntry b n = v := by
  simp only [mapConns, List.mem_filterMap, List.mem_range]
  constructor
  · rintro ⟨k, hk, h⟩
    obtain ⟨hlt, he⟩ := Option.ite_none_right_eq_some.mp h
    obtain ⟨rfl, hv⟩ := Prod.mk.inj (Option.some.inj he)
    exact ⟨hk, hlt, hv⟩
  · rintro ⟨hn, hlt, rfl⟩
    exact ⟨n, hn, if_pos hlt⟩

theorem pairwise_mapConns (b : List Byte) : (mapConns b).Pairwise fun a b => a.1 < b.1 := by
  refine List.pairwise_filterMap.mpr (List.pairwise_lt_range.imp fun {k j} hkj x hx y hy => ?_)
  obtain ⟨-, rfl⟩ := Option.ite_none_right_eq_some.mp hx |>.imp id Option.some.inj
  obtain ⟨-, rfl⟩ := Option.ite_none_right_eq_some.mp hy |>.imp id Option.some.inj
  exact hkj

/-- A map of connections in the CONN_MAP coding reads back. -/
theorem mapConns_connBytes (hp : ports ≤ 256) (hm : m.Pairwise fun a b => a.1 < b.1) (hin : ∀ e ∈ m, e.1 < ports ∧ e.2 < ports) :
    mapConns (connBytes (fun n => decide (n < ports)) m) = m := by
  have : Std.Irrefl fun a b : Nat × Nat => a.1 < b.1 := ⟨fun a => Nat.lt_irrefl a.1⟩
  have : Std.Antisymm fun a b : Nat × Nat => a.1 < b.1 := ⟨fun a b h g => absurd (Nat.lt_trans h g) (Nat.lt_irrefl a.1)⟩
  refine (pairwise_mapConns _).eq_of_mem_iff hm fun ⟨n, v⟩ => (mem_mapConns _ n v).trans ?_
  constructor
  · rintro ⟨hn, h⟩
    exact (mapEntry_connBytes_lt_iff hp hm hin hn).mp h
  · intro h
    have hn : n < 256 := (hin _ h).1.trans_le hp
    exact ⟨hn, (mapEntry_connBytes_lt_iff hp hm hin hn).mpr h⟩

end

/-! ### The follow (R245) -/

/-- The two slots of a follow that every one has. -/
def followHead (f : Follow) (p : List Byte) : List Byte :=
  le 4 f.reconf.toNat ++ (le 1 f.source ++ (le 1 0 ++ (le 2 f.domains.toNat ++ (le 4 f.config.toNat ++ (timeBytes f.tClose ++
    (le 8 0 ++ p))))))

theorem followBytes_eq (p : Part) (f : Follow) : followBytes p f =
    followHead f (if f.config = 0xFFFFFFFF then connBytes (fun n => decide (n < p.ports)) f.map else []) := by
  simp only [followBytes, followHead, zeros_eq_le, List.append_assoc]

theorem length_followHead (f : Follow) (p : List Byte) : (followHead f p).length = 32 + p.length := by
  simp only [followHead, List.length_append, length_le, length_timeBytes]
  omega

theorem drop_followHead (f : Follow) (p : List Byte) : (followHead f p).drop 32 = p := by
  have h : followHead f p = followHead f [] ++ p := by simp [followHead]
  exact h ▸ List.drop_left' (length_followHead f [])

theorem length_followBytes (p : Part) (f : Follow) : (followBytes p f).length = if f.config = 0xFFFFFFFF then 544 else 32 := by
  rw [followBytes_eq, length_followHead, apply_ite List.length, length_connBytes]
  split <;> rfl

theorem ports_le (p : Part) : p.ports ≤ 256 := by cases p <;> decide

theorem followIn_followBytes {p : Part} {f : Follow} (hs : f.source < 256) (ht : timeWf f.tClose = true)
    (hc : f.config ≠ 0xFFFFFFFF → f.map = []) (hm : f.map.Pairwise fun a b => a.1 < b.1)
    (hin : ∀ e ∈ f.map, e.1 < p.ports ∧ e.2 < p.ports) : followIn (followBytes p f) = some f := by
  have hl := length_followBytes p f
  rw [followBytes_eq] at hl ⊢
  generalize hq : (if f.config = 0xFFFFFFFF then connBytes (fun n => decide (n < p.ports)) f.map else []) = q at hl ⊢
  have hreconf : BitVec.ofNat 32 (fld (followHead f q) 0 4) = f.reconf := by simp [followHead]
  have hsource : fld (followHead f q) 4 1 = f.source := by simp [followHead]; omega
  have hz : fld (followHead f q) 5 1 = 0 := by simp [followHead]
  have hdom : BitVec.ofNat 16 (fld (followHead f q) 6 2) = f.domains := by simp [followHead]
  have hconf : BitVec.ofNat 32 (fld (followHead f q) 8 4) = f.config := by simp [followHead]
  have hz2 : fld (followHead f q) 24 8 = 0 := by simp [followHead]
  have htime : timeOf (followHead f q) 12 = f.tClose := by
    rw [followHead]
    simp [timeOf_timeBytes_append ht]
  have hmap : (if f.config = 0xFFFFFFFF then mapConns q else []) = f.map := by
    subst hq
    split
    · exact mapConns_connBytes (ports_le p) hm hin
    · exact (hc ‹_›).symm
  unfold followIn
  simp only [hl, hreconf, hsource, hz, hdom, hconf, hz2, htime, drop_followHead, hmap]
  simp

/-! ### Messages (R239) -/

/-- PCRC of a message (*Table — Cladal message header*). -/
def payloadCrc (p : List Byte) : Nat := if p.isEmpty then 0 else (crc32c p).toNat

/-- A header before its own CRC. -/
def cldHead (type item seq : Nat) (p : List Byte) : List Byte :=
  le 1 type ++ (le 1 (p.length / 16) ++ (le 2 item ++ (le 4 seq ++ le 4 (payloadCrc p))))

section
variable {t i q : Nat} {p : List Byte}

theorem cldSlots_eq : cldSlots t i q p = cldHead t i q p ++ (le 4 (crc32c (cldHead t i q p)).toNat ++ p) := by
  simp only [cldSlots, cldHead, payloadCrc, List.append_assoc]

theorem length_cldHead : (cldHead t i q p).length = 12 := by simp only [cldHead, List.length_append, length_le]

theorem length_cldSlots : (cldSlots t i q p).length = 16 + p.length := by
  simp only [cldSlots_eq, List.length_append, length_cldHead, length_le]
  omega

theorem take_cldSlots : (cldSlots t i q p).take 12 = cldHead t i q p := cldSlots_eq ▸ List.take_left' length_cldHead

theorem drop_cldSlots : (cldSlots t i q p).drop 16 = p := by
  rw [cldSlots_eq, ← List.append_assoc]
  exact List.drop_left' (by simp [length_cldHead, length_le])

/-- A field of the header before its CRC. -/
theorem fld_cldSlots {off n : Nat} (h : off + n ≤ 12) : fld (cldSlots t i q p) off n = fld (cldHead t i q p) off n := by
  have hl := length_cldHead (t := t) (i := i) (q := q) (p := p)
  rw [cldSlots_eq, fld, fld, List.drop_append_of_le_length (by omega),
    List.take_append_of_le_length (by rw [List.length_drop]; omega)]

theorem crc_cldSlots : fld (cldSlots t i q p) 12 4 = (crc32c (cldHead t i q p)).toNat := by
  rw [cldSlots_eq, fld_skip length_cldHead.le, length_cldHead, fld_le_append]
  exact Nat.mod_eq_of_lt (BitVec.isLt _)

theorem payloadCrc_lt (p : List Byte) : payloadCrc p < 2 ^ 32 := by
  unfold payloadCrc
  split
  · decide
  · exact BitVec.isLt _

/-- R239: a message of a defined type and item with whole payload slots, up to 255 of them, passes the receiver's checks. -/
theorem cldBad_cldSlots (ht : t ≠ 0 ∧ t ≤ 5) (hi : if t = 2 ∨ t = 5 then i ≠ 0 ∧ i ≤ 7 else i = 0) (hp : p.length % 16 = 0)
    (hn : p.length ≤ 4080) : cldBad (cldSlots t i q p) = false := by
  have hi7 : i ≤ 7 := by split at hi <;> omega
  have htype : fld (cldSlots t i q p) 0 1 = t := by
    rw [fld_cldSlots (by decide), cldHead, fld_le_append]
    omega
  have hcount : fld (cldSlots t i q p) 1 1 = p.length / 16 := by
    rw [fld_cldSlots (by decide), cldHead, fld_le_append_skip (by decide), fld_le_append]
    omega
  have hitem : fld (cldSlots t i q p) 2 2 = i := by
    simp [fld_cldSlots, cldHead]
    omega
  have hcrc : fld (cldSlots t i q p) 8 4 = payloadCrc p := by
    simp [fld_cldSlots, cldHead]
    exact payloadCrc_lt p
  unfold cldBad
  simp only [htype, hcount, hitem, hcrc, crc_cldSlots, take_cldSlots, drop_cldSlots, length_cldSlots, Bool.or_eq_false_iff,
    decide_eq_false_iff_not, not_not]
  refine ⟨⟨⟨⟨by omega, trivial⟩, rfl⟩, by omega⟩, ?_⟩
  split
  case isTrue h =>
    rw [if_pos h] at hi
    exact decide_eq_false (by omega)
  case isFalse h =>
    rw [if_neg h] at hi
    exact decide_eq_false (not_not.mpr hi)

end

theorem itemCode_range (i : Item) : itemCode i ≠ 0 ∧ itemCode i ≤ 7 := by cases i <;> simp [itemCode]

theorem itemLen_slots (i : Item) : itemLen i % 16 = 0 := by
  cases i <;> simp [itemLen]

theorem length_itemBytes (i : Item) (j : Nat) : (itemBytes i j).length = min 4080 (itemLen i - 4080 * j) := by simp [itemBytes]

/-- An item's message has whole slots, up to 255 of them. -/
theorem itemBytes_slots (i : Item) (j : Nat) : (itemBytes i j).length % 16 = 0 ∧ (itemBytes i j).length ≤ 4080 := by
  have h := itemLen_slots i
  rw [length_itemBytes]
  omega

theorem followBytes_slots (p : Part) (f : Follow) : (followBytes p f).length % 16 = 0 ∧ (followBytes p f).length ≤ 4080 := by
  rw [length_followBytes]
  split <;> decide

/-- What a unit sends is a message of a defined type and item with whole payload slots. -/
theorem cldBytes_form (p : Part) (m : CldMsg) : ∃ t i q b, cldBytes p m = cldSlots t i q b ∧ (t ≠ 0 ∧ t ≤ 5) ∧
    (if t = 2 ∨ t = 5 then i ≠ 0 ∧ i ≤ 7 else i = 0) ∧ b.length % 16 = 0 ∧ b.length ≤ 4080 := by
  cases m with
  | heartbeat n h => exact ⟨1, 0, _, _, rfl, by decide, by decide, by simp [length_heartbeatBytes]⟩
  | mirror q j i => exact ⟨2, _, _, _, rfl, by decide, itemCode_range i, itemBytes_slots i j⟩
  | follow q f => exact ⟨3, 0, _, _, rfl, by decide, by decide, followBytes_slots p f⟩
  | retransmit q => exact ⟨4, 0, _, [], rfl, by decide, by decide, by decide⟩
  | resync q j i => exact ⟨5, _, _, _, rfl, by decide, itemCode_range i, itemBytes_slots i j⟩

theorem cldBytes_sound (p : Part) (m : CldMsg) : cldBad (cldBytes p m) = false ∧ (cldBytes p m).length % 16 = 0 := by
  obtain ⟨t, i, q, b, hm, ht, hi, hb, hn⟩ := cldBytes_form p m
  rw [hm, length_cldSlots]
  exact ⟨cldBad_cldSlots ht hi hb hn, by omega⟩

/-- Settles O46, format by format. -/
theorem linkReadsBack : Obligations.LinkReadsBack :=
  ⟨cldBytes_sound, fun _ => heartbeatIn_heartbeatBytes, fun _ _ => followIn_followBytes,
    fun t ht => ⟨timeOf_timeBytes ht, timeOk_timeBytes t, length_timeBytes t⟩, descramble_scramble⟩

end Sys2Proof.Machine
end

section
/-! SUPPORT. The position tracker (R168 to R175, R196, R197, R298): what a telegram does to the trains and the counts, and the tracking
commands. -/

namespace Sys2Proof.Machine

/-! ### The checks of a telegram, in their order (R169) -/

section
variable {s : State} {stamp : Time} {p : List Byte} {k : Nat}

/-- The form that check 1 of R169 asks for. -/
def TelegramForm (p : List Byte) : Prop :=
  p.length = 64 ∧ fld p 0 2 = 0x5054 ∧ fld p 2 1 = 1 ∧ fld p 3 1 < 4 ∧ fld p 52 8 = 0 ∧ timeOk p 16 = true

/-- R169: the sequence numbers that a telegram is ahead of the train's record. -/
def seqAhead (p : List Byte) (t : Train) : Nat := (BitVec.ofNat 32 (fld p 12 4) - t.seq).toNat

theorem telegramForm_iff : TelegramForm p ↔
    ¬(p.length ≠ 64 ∨ fld p 0 2 ≠ 0x5054 ∨ fld p 2 1 ≠ 1 ∨ 4 ≤ fld p 3 1 ∨ fld p 52 8 ≠ 0 ∨ !timeOk p 16) := by
  simp [TelegramForm]

theorem telegramCheck_of_malformed (h : ¬TelegramForm p) : telegramCheck s stamp p = (1, none) :=
  if_pos (not_not.mp (mt telegramForm_iff.mpr h))

theorem telegramCheck_of_corrupt (hf : TelegramForm p) (h : fld p 60 4 ≠ (crc32c (p.take 60)).toNat) :
    telegramCheck s stamp p = (2, none) := by
  rw [telegramCheck, if_neg (telegramForm_iff.mp hf), if_pos h]

theorem telegramCheck_of_elsewhere (hf : TelegramForm p) (hc : fld p 60 4 = (crc32c (p.take 60)).toNat)
    (h : fld p 4 2 ≠ s.trk.corridor.toNat) : telegramCheck s stamp p = (3, none) := by
  rw [telegramCheck, if_neg (telegramForm_iff.mp hf), if_neg (not_not.mpr hc), if_pos h]

theorem telegramCheck_of_unbound (hf : TelegramForm p) (hc : fld p 60 4 = (crc32c (p.take 60)).toNat)
    (hx : fld p 4 2 = s.trk.corridor.toNat) (h : slotOfTrain s (BitVec.ofNat 32 (fld p 8 4)) = none) :
    telegramCheck s stamp p = (4, none) := by
  rw [telegramCheck, if_neg (telegramForm_iff.mp hf), if_neg (not_not.mpr hc), if_neg (not_not.mpr hx), h]

/-- R169: checks 5 to 10, which compare a telegram with the time state, the instant of its arrival and its train's record. -/
def trainCheck (s : State) (stamp : Time) (p : List Byte) (k : Nat) : Nat :=
  if s.tb.ts = .free ∨ s.tb.ts = .acquiring then 5
  else if (ns 1000000 : Int) < tdiff (timeOf p 16) stamp then 6
  else if ((ns 1000000 * s.trk.ageMax.toNat : Nat) : Int) < tdiff stamp (timeOf p 16) then 7
  else if (trainOf s k).valid ∧ (seqAhead p (trainOf s k) = 0 ∨ 2 ^ 31 ≤ seqAhead p (trainOf s k)) then 8
  else if (trainOf s k).valid ∧ !later (timeOf p 16) (trainOf s k).fix then 9
  else if !roleLit s.sys.role then 10 else 0

theorem telegramCheck_of_bound (hf : TelegramForm p) (hc : fld p 60 4 = (crc32c (p.take 60)).toNat)
    (hx : fld p 4 2 = s.trk.corridor.toNat) (h : slotOfTrain s (BitVec.ofNat 32 (fld p 8 4)) = some k) :
    telegramCheck s stamp p = (trainCheck s stamp p k, some k) := by
  rw [telegramCheck, if_neg (telegramForm_iff.mp hf), if_neg (not_not.mpr hc), if_neg (not_not.mpr hx), h]
  rfl

/-- R169: of two sequence numbers the later is at most 2^31 - 1 ahead. -/
theorem newer_iff {v : Bool} {n : Nat} : (v = true → 1 ≤ n ∧ n < 2 ^ 31) ↔ ¬(v = true ∧ (n = 0 ∨ 2 ^ 31 ≤ n)) := by
  rw [not_and]
  exact imp_congr_right fun _ => by omega

theorem trainCheck_of_unlocked (h : ¬(s.tb.ts ≠ .free ∧ s.tb.ts ≠ .acquiring)) : trainCheck s stamp p k = 5 :=
  if_pos (by tauto)

section
variable (ht : s.tb.ts ≠ .free ∧ s.tb.ts ≠ .acquiring)
include ht

theorem trainCheck_of_ahead (h : ¬tdiff (timeOf p 16) stamp ≤ (ns 1000000 : Nat)) : trainCheck s stamp p k = 6 := by
  rw [trainCheck, if_neg (by tauto), if_pos (not_le.mp h)]

variable (hp : tdiff (timeOf p 16) stamp ≤ (ns 1000000 : Nat))
include hp

theorem trainCheck_of_old (h : ¬tdiff stamp (timeOf p 16) ≤ (ns 1000000 * s.trk.ageMax.toNat : Nat)) : trainCheck s stamp p k = 7 := by
  rw [trainCheck, if_neg (by tauto), if_neg (not_lt.mpr hp), if_pos (not_le.mp h)]

variable (ha : tdiff stamp (timeOf p 16) ≤ (ns 1000000 * s.trk.ageMax.toNat : Nat))
include ha

theorem trainCheck_of_repeated
    (h : ¬((trainOf s k).valid = true → 1 ≤ seqAhead p (trainOf s k) ∧ seqAhead p (trainOf s k) < 2 ^ 31)) :
    trainCheck s stamp p k = 8 := by
  rw [trainCheck, if_neg (by tauto), if_neg (not_lt.mpr hp), if_neg (not_lt.mpr ha), if_pos (not_not.mp (mt newer_iff.mpr h))]

variable (hq : (trainOf s k).valid = true → 1 ≤ seqAhead p (trainOf s k) ∧ seqAhead p (trainOf s k) < 2 ^ 31)
include hq

theorem trainCheck_of_earlier (h : ¬((trainOf s k).valid = true → later (timeOf p 16) (trainOf s k).fix = true)) :
    trainCheck s stamp p k = 9 := by
  rw [trainCheck, if_neg (by tauto), if_neg (not_lt.mpr hp), if_neg (not_lt.mpr ha), if_neg (newer_iff.mp hq), if_pos (by simpa using h)]

/-- Of the checks only that on the unit's role is left. -/
theorem trainCheck_of_later (hl : (trainOf s k).valid = true → later (timeOf p 16) (trainOf s k).fix = true) :
    trainCheck s stamp p k = if roleLit s.sys.role then 0 else 10 := by
  rw [trainCheck, if_neg (by tauto), if_neg (not_lt.mpr hp), if_neg (not_lt.mpr ha), if_neg (newer_iff.mp hq), if_neg (by simpa using hl)]
  cases roleLit s.sys.role <;> rfl

end
end

/-! ### What a telegram changes (R171 to R175) -/

theorem trainOf_congr {s t : State} (h : t.trk = s.trk) (k : Nat) : trainOf t k = trainOf s k := by rw [trainOf, trainOf, h]

theorem mirror_trk (i : Item) (s : State) : (mirror i s).trk = s.trk := by unfold mirror; split <;> rfl

theorem putEntry_trk (n : Nat) (e e' : TEntry) (s : State) : (if e'.state = e.state then modEntry n (fun _ => e') s
    else mirror (.entry n (some e')) (modEntry n (fun _ => e') s)).trk = s.trk := by
  split
  · rfl
  · exact mirror_trk _ _

/-- Firing instants are no part of the tracker's state. -/
theorem schedule_trk (n : Nat) (s : State) : (schedule n s).trk = s.trk := by
  unfold schedule
  dsimp only
  split
  · exact putEntry_trk n _ _ s
  · rfl

theorem recompute_trk (k : Nat) (s : State) : (recompute k s).trk = s.trk :=
  foldl_keeps State.trk (fun s (e : Nat × TEntry) => schedule e.1 s) (fun s e => schedule_trk e.1 s) _ s

section
variable (via : Nat) (stamp : Time) (p : List Byte)

/-- An accepted telegram for a train: its record, its entries' firing instants and GONE. -/
def acceptTelegram (k : Nat) (s : State) : State :=
  let a := ev 281 (modTrain k (trainFrom via stamp p) s)
  let b := recompute k (mirror (.train k (trainOf a k)) a)
  if (trainOf b k).gone && !(trainOf s k).gone then notifyTrain k 1 b else b

/-- A telegram dropped for a reason: the reason is counted, and the drops of its train where it names one. -/
def dropTelegram (x : Nat × Option Nat) (s : State) : State :=
  let a := ev 282 { s with trk := { s.trk with drops := smod 0 s.trk.drops x.1 satInc } }
  match x.2 with
  | some k => modTrain k (fun t => { t with dropped := satInc t.dropped }) a
  | none => a

/-- What becomes of a telegram, from its checks' result. -/
def telegramEffect (x : Nat × Option Nat) (s : State) : Nat × State :=
  if x.1 = 0 then
    match x.2 with
    | some k => (0, acceptTelegram via stamp p k s)
    | none => (0, s)
  else (x.1, dropTelegram x s)

/-- No check reads what the tracker remembers of the telegram before. -/
theorem takeTelegram_eq (s : State) : takeTelegram via stamp p s =
    telegramEffect via stamp p (telegramCheck s stamp p) { s with trk := { s.trk with last := some (stamp, via) } } := rfl

variable {via stamp p} {s : State}

theorem telegramEffect_fst (x : Nat × Option Nat) : (telegramEffect via stamp p x s).1 = x.1 := by
  obtain ⟨code, slot⟩ := x
  by_cases h : code = 0
  · subst h
    cases slot <;> rfl
  · exact congrArg Prod.fst (if_neg h)

theorem takeTelegram_fst : (takeTelegram via stamp p s).1 = (telegramCheck s stamp p).1 := telegramEffect_fst _

theorem takeTelegram_of_dropped (h : (telegramCheck s stamp p).1 ≠ 0) : (takeTelegram via stamp p s).2 =
    dropTelegram (telegramCheck s stamp p) { s with trk := { s.trk with last := some (stamp, via) } } :=
  congrArg Prod.snd (if_neg h)

theorem trainOf_acceptTelegram (k : Nat) : trainOf (acceptTelegram via stamp p k s) k = trainFrom via stamp p (trainOf s k) := by
  have hb : ∀ a : State, (recompute k (mirror (.train k (trainOf a k)) a)).trk = a.trk := fun a =>
    (recompute_trk k _).trans (mirror_trk _ a)
  have hn : (acceptTelegram via stamp p k s).trk = (modTrain k (trainFrom via stamp p) s).trk := by
    unfold acceptTelegram
    dsimp only
    split
    · exact (notify_trk _ _ _).trans (hb _)
    · exact hb _
  rw [trainOf_congr hn, trainOf_modTrain, if_pos rfl]

/-- R171: the fields of an accepted telegram stand in its train's record. -/
theorem trainOf_takeTelegram {k : Nat} (h : telegramCheck s stamp p = (0, some k)) :
    trainOf (takeTelegram via stamp p s).2 k = trainFrom via stamp p (trainOf s k) := by
  rw [takeTelegram_eq, h]
  exact trainOf_acceptTelegram k

/-- R169: a drop changes nothing of a train but its count. -/
theorem trainOf_dropTelegram (x : Nat × Option Nat) (k : Nat) :
    ∃ n, trainOf (dropTelegram x s) k = { trainOf s k with dropped := n } := by
  obtain ⟨code, slot⟩ := x
  cases slot with
  | none => exact ⟨_, rfl⟩
  | some j =>
    by_cases h : k = j
    · subst h
      exact ⟨_, (trainOf_modTrain _ k k _).trans (if_pos rfl)⟩
    · exact ⟨_, (trainOf_modTrain _ j k _).trans (if_neg h)⟩

theorem dropTelegram_slc (x : Nat × Option Nat) : (dropTelegram x s).slc = s.slc := by unfold dropTelegram; split <;> rfl

theorem dropTelegram_drops (x : Nat × Option Nat) : sget 0 (dropTelegram x s).trk.drops x.1 = satInc (sget 0 s.trk.drops x.1) := by
  have h : (dropTelegram x s).trk.drops = smod 0 s.trk.drops x.1 satInc := by unfold dropTelegram; split <;> rfl
  rw [h, sget_smod, if_pos rfl]

end

/-- Settles O35: the checks one after another, then what an accepted telegram and a dropped one leave. -/
theorem telegramChecks : Obligations.TelegramChecks := by
  intro via stamp p s code t fix slot format crc corridor
  refine ⟨fun hf => congrArg Prod.fst (telegramCheck_of_malformed hf), fun hf hc => congrArg Prod.fst (telegramCheck_of_corrupt hf hc),
    fun hf hc hx => congrArg Prod.fst (telegramCheck_of_elsewhere hf hc hx),
    fun hf hc hx hn => congrArg Prod.fst (telegramCheck_of_unbound hf hc hx hn), fun k hf hc hx hk => ?bound, takeTelegram_fst,
    fun k h => ?dropped, fun h => ?counted⟩
  case bound =>
    have h := telegramCheck_of_bound (stamp := stamp) hf hc hx hk
    have hcode : code = trainCheck s stamp p k := congrArg Prod.fst h
    intro n clock past fresh newer later_
    rw [hcode]
    refine ⟨trainCheck_of_unlocked, fun ht => trainCheck_of_ahead ht, fun ht hp => trainCheck_of_old ht hp,
      fun ht hp ha => trainCheck_of_repeated ht hp ha, fun ht hp ha hq => trainCheck_of_earlier ht hp ha hq,
      fun ht hp ha hq hl hr => ?_, fun ht hp ha hq hl hr => ?_, fun h0 => ?_⟩
    · rw [trainCheck_of_later ht hp ha hq hl, hr]; rfl
    · rw [trainCheck_of_later ht hp ha hq hl, hr]; rfl
    · rw [h0] at h
      exact trainOf_takeTelegram h
  case dropped =>
    have ht : t = _ := takeTelegram_of_dropped h
    obtain ⟨n, hk⟩ := trainOf_dropTelegram (s := { s with trk := { s.trk with last := some (stamp, via) } }) (telegramCheck s stamp p) k
    rw [ht, hk]
    exact ⟨rfl, rfl, rfl, rfl, dropTelegram_slc _⟩
  case counted =>
    have ht : t = _ := takeTelegram_of_dropped h
    rw [ht]
    exact dropTelegram_drops _

/-! ### The tracking commands -/

/-- A command that is due and passes every check leaves what follows from its effect. -/
theorem hostCmd_next_of_effect {q : Req} {dt slot : Nat} {c : SlotCmd} {p : List Byte} {eff : SlotCmd → List Byte → State → State}
    {s b : State} (hd : due (begun dt s) slot q.opcode c p = true) (hm : q.modes (begun dt s).sys.mode = true)
    (hl : q.lcBad (begun dt s) p = false) (hr : q.roles (begun dt s).sys.role = true)
    (hc : ∀ x ∈ q.checks (begun dt s) p, x.1 = false) (he : eff c p (begun dt s) = b) :
    hostCmd q dt slot eff s = .next (after (begun dt s) b) := he ▸ hostCmd_next hd hm hl hr hc

section
variable {dt slot : Nat} {c : SlotCmd} {p : List Byte} {s : State}

/-- R171, R197: an identifier is bound where no other slot has it, and all the slot's entries but the armed return to PENDING. -/
theorem trainBind_bind_next (hd : due (begun dt s) slot 0x0500 c p = true) (hm : inSvc (begun dt s).sys.mode = true)
    (hr : roleLit (begun dt s).sys.role = true) (hp : p.length = 8) (hz : fld p 2 2 = 0) (hk : fld p 0 1 ≤ 63) (ho : fld p 1 1 = 0)
    (hu : ∀ t ∈ (begun dt s).trk.trains, t.2.bound = true → t.2.id = BitVec.ofNat 32 (fld p 4 4) → t.1 = fld p 0 1) :
    exec (.trainBind dt slot) s = .next (after (begun dt s) (finish c 0 [] (pendEntries (fld p 0 1) [.scheduled, .fired, .skipped, .refused]
      (putTrain (fld p 0 1) { id := BitVec.ofNat 32 (fld p 4 4), bound := true } (begun dt s))))) :=
  hostCmd_next_of_effect hd hm rfl hr (by simpa [hp, rsvd, hz, ho, Nat.not_lt.mpr hk] using hu)
    (congrArg (finish c 0 []) (if_pos ho))

/-- R171: the slot's record is cleared. -/
theorem trainBind_unbind_next (hd : due (begun dt s) slot 0x0500 c p = true) (hm : inSvc (begun dt s).sys.mode = true)
    (hr : roleLit (begun dt s).sys.role = true) (hp : p.length = 8) (hz : fld p 2 2 = 0) (hk : fld p 0 1 ≤ 63) (ho : fld p 1 1 = 1)
    (hi : BitVec.ofNat 32 (fld p 4 4) = (0 : W32)) :
    exec (.trainBind dt slot) s =
      .next (after (begun dt s) (finish c 0 [] (pendEntries (fld p 0 1) [.scheduled] (putTrain (fld p 0 1) {} (begun dt s))))) :=
  hostCmd_next_of_effect hd hm rfl hr (by simp [hp, rsvd, hz, ho, hi, Nat.not_lt.mpr hk])
    (congrArg (finish c 0 []) (if_neg (by omega)))

theorem trainRead_next (hd : due (begun dt s) slot 0x0501 c p = true) (hm : inRun (begun dt s).sys.mode = true) (hp : p.length = 4)
    (hz : fld p 1 3 = 0) (hk : fld p 0 1 ≤ 63) :
    exec (.trainRead dt slot) s =
      .next (after (begun dt s) (finish c 0 (trainBytes (trainOf (begun dt s) (fld p 0 1))) (begun dt s))) :=
  hostCmd_next hd hm rfl rfl (by simp [hp, rsvd, hz, Nat.not_lt.mpr hk])

/-- R299: a telegram by the mailbox is checked as of now, and answered with its result. -/
theorem telegram_next (hd : due (begun dt s) slot 0x0506 c p = true) (hm : inRun (begun dt s).sys.mode = true) (hp : p.length = 64) :
    exec (.telegram dt slot) s = .next (after (begun dt s) (finish c 0
      (le 1 (takeTelegram 2 (begun dt s).tb.now p (begun dt s)).1 ++ zeros 3) (takeTelegram 2 (begun dt s).tb.now p (begun dt s)).2)) :=
  hostCmd_next hd hm rfl rfl (by simp [hp])

/-- R172: with another STALE time the trains that it does not make STALE are so no longer. -/
theorem trackCfg_next (hd : due (begun dt s) slot 0x0507 c p = true) (hm : inRun (begun dt s).sys.mode = true) (hp : p.length = 12)
    (hz : fld p 10 2 = 0) (ha : fld p 2 2 ≠ 0) (hu : fld p 6 2 ≤ 511) (hs : fld p 8 2 ≠ 0) :
    exec (.trackCfg dt slot) s = .next (after (begun dt s) (finish c 0 [] (freshen { begun dt s with trk := { (begun dt s).trk with
      udpPort := BitVec.ofNat 16 (fld p 0 2), ageMax := BitVec.ofNat 16 (fld p 2 2), corridor := BitVec.ofNat 16 (fld p 4 2),
      unit := BitVec.ofNat 9 (fld p 6 2), staleMs := BitVec.ofNat 16 (fld p 8 2) } }))) :=
  hostCmd_next hd hm rfl rfl (by simp [hp, rsvd, hz, ha, hs, Nat.not_lt.mpr hu])

end

/-- Settles O32, command by command. -/
theorem trackingCommandsComplete : Obligations.TrackingCommandsComplete := fun _ _ _ _ _ =>
  ⟨trainBind_bind_next, trainBind_unbind_next, trainRead_next, telegram_next, trackCfg_next⟩

end Sys2Proof.Machine
end

section
/-! SUPPORT. The time commands (R154, R157, R158, R163, R301). -/

namespace Sys2Proof.Machine

/-- R154: the horizon, as sums of instants. -/
theorem inHorizon_iff (now t : Time) : inHorizon now t = true ↔ t ≤ now + 36 * 3600 * sec ∧ now ≤ t + 36 * 3600 * sec := by
  have h : ∀ x y : Nat, (x : Int) - y ≤ horizon ↔ x ≤ y + 36 * 3600 * sec := fun x y => by
    unfold horizon
    omega
  rw [inHorizon, decide_eq_true_iff, h, h]

/-- The command due in a slot is what a notification of that slot names (R276). -/
theorem aboutSlot_of_due {a b : State} {slot op : Nat} {c : SlotCmd} {p : List Byte} (hd : due a slot op c p = true) (hb : b.mbx = a.mbx)
    (st : Nat) : aboutSlot b (some slot) st = { opcode := op, seq := c.seq.toNat, status := st, slot := slot } := by
  obtain ⟨rfl, rfl, -⟩ := due_slot hd
  simp only [due, Bool.and_eq_true, decide_eq_true_eq] at hd
  obtain ⟨⟨⟨-, hk⟩, -⟩, -⟩ := hd
  have hc : cmdAt b c.slot = some c := by
    rw [cmdAt, hb]
    exact (Option.filter_eq_some_iff.mp hk).1
  simp [aboutSlot, hc]

/-! ### TIME_SET -/

/-- The registers but TB_CTRL that TIME_SET marks, written in turn. -/
def timeSetRegs (p : List Byte) (a : State) : State :=
  let m := fld p 0 1
  let b1 := if bit m 1 then withTb (fun b => { b with thr := BitVec.ofNat 30 (fld p 8 4) }) a else a
  let b2 := if bit m 2 then withTb (fun b =>
    { b with slewPpm := BitVec.ofNat 6 (bits (fld p 12 4) 31 26), holdLimit := BitVec.ofNat 17 (fld p 12 4) }) b1 else b1
  let b3 := if bit m 3 then withTb (fun b => { b with ppsDelay := BitVec.ofNat 16 (fld p 16 4) }) b2 else b2
  let b4 := if bit m 4 then writePortCal 0 p 20 b3 else b3
  if bit m 5 then writePortCal 1 p 28 b4 else b4

theorem timeSetRegs_mbx (p : List Byte) (a : State) : (timeSetRegs p a).mbx = a.mbx := by
  unfold timeSetRegs
  simp only [apply_ite State.mbx, withTb_mbx, writePortCal, modMgmt_mbx, ite_self]

section
variable {dt slot : Nat} {c : SlotCmd} {p : List Byte} {s : State}

/-- R301: the marked registers are written, each within its table, and TB_CTRL last. -/
theorem timeSet_next (hd : due (begun dt s) slot 0x0700 c p = true) (hm : inRun (begun dt s).sys.mode = true) (hp : p.length = 36)
    (hk : fld p 0 1 ≤ 63) (hz : fld p 1 3 = 0) (hu : timeUnmarked p = false)
    (h0 : bit (fld p 0 1) 0 = true → fld p 4 4 &&& 0x07000F1E = 0) (h1 : bit (fld p 0 1) 1 = true → fld p 8 4 &&& 0xC0000000 = 0)
    (h2 : bit (fld p 0 1) 2 = true → fld p 12 4 &&& 0x03FE0000 = 0) (h3 : bit (fld p 0 1) 3 = true → fld p 16 4 &&& 0xFFFF0000 = 0)
    (hv : timeRefused p = false) : let b := timeSetRegs p (begun dt s)
    exec (.timeSet dt slot) s = .next (after (begun dt s) (finish c 0 [] (if bit (fld p 0 1) 0 then
      writeTbCtrl { opcode := 0x0700, seq := c.seq.toNat, status := 0, slot := slot } (fld p 4 4) b else b))) := by
  intro b
  have hr : ∀ {i off mask}, (bit (fld p 0 1) i = true → fld p off 4 &&& mask = 0) → imageRsvd p i off mask = false := fun h => by
    simpa [imageRsvd] using h
  rw [← aboutSlot_of_due hd (timeSetRegs_mbx p _) 0]
  exact hostCmd_next hd hm rfl rfl (by simp [hp, rsvd, hz, hu, hv, hr h0, hr h1, hr h2, hr h3, Nat.not_lt.mpr hk])

/-- The read clears the count of outliers and two flags; without a parent the parent's fields are 0 (*Table — TIME_READ response*). -/
theorem timeRead_next (hd : due (begun dt s) slot 0x0701 c [] = true) (hm : inRun (begun dt s).sys.mode = true)
    (hn : (begun dt s).servo.master = none) : let a := begun dt s
    let b := finish c 0 (le 4 (tbStatusWord a.tb).toNat ++ le 4 a.tb.offset.toNat ++ timeBytes a.tb.now ++ zeros 18 ++
      le 2 a.servo.utc.toNat ++ zeros 8) a
    exec (.timeRead dt slot) s =
      .next (after a { b with tb := { b.tb with outliers := 0, jumpRefused := false, ppsDisagree := false } }) := by
  intro a b
  refine hostCmd_next_of_effect hd hm rfl rfl (by simp) ?_
  dsimp only
  rw [hn]
  rfl

/-- R301: whole seconds, while the source is PPS_IN with the host's time of day and time is not locked. -/
theorem setTod_next (hd : due (begun dt s) slot 0x0702 c p = true) (hm : inRun (begun dt s).sys.mode = true) (hp : p.length = 8)
    (hz : fld p 6 2 = 0) (ht : (begun dt s).tb.ts = .free ∨ (begun dt s).tb.ts = .acquiring) (hs : (begun dt s).tb.src = 2) :
    let a := begun dt s
    let b := setClock (fld p 0 6 * sec + a.tb.now % sec) a
    exec (.setTod dt slot) s = .next (after a (finish c 0 [] { b with servo := { b.servo with todSet := true } })) := by
  refine hostCmd_next hd hm rfl rfl ?_
  simp only [List.forall_mem_cons, decide_eq_false_iff_not]
  refine ⟨by simp [hp], by simp [rsvd, hz], ?_, by simp [hs], by simp⟩
  tauto

/-- R157, R301: a forced step waits for a round boundary, and its command with it. -/
theorem timeStep_next (hd : due (begun dt s) slot 0x0703 c p = true) (hm : (begun dt s).sys.mode = .dark) (hp : p.length = 8)
    (hh : (sgn 64 (fld p 0 8)).natAbs ≤ horizon) (hn : (begun dt s).servo.step = none) : let b := hold c (begun dt s)
    exec (.timeStep dt slot) s =
      .next (after (begun dt s) { b with servo := { b.servo with step := some (sgn 64 (fld p 0 8), some slot) } }) := by
  refine hostCmd_next_of_effect hd (by simp [hm]) rfl rfl (by simp [hp, Nat.not_lt.mpr hh]) ?_
  simp [orderStep, withServo, hn]

/-- R301: a port's addresses, VLAN and groups. -/
theorem netSet_next (hd : due (begun dt s) slot 0x0704 c p = true) (hm : inRun (begun dt s).sys.mode = true) (hp : p.length = 48)
    (hz : fld p 9 1 = 0) (hb : bit (fld p 2 2) 15 = false) (hport : fld p 0 1 ≤ 1) (hg : fld p 1 1 ≤ 8) (hv : fld p 2 2 % 4096 ≠ 4095)
    (hlo : 1 ≤ fld p 8 1) (hhi : fld p 8 1 ≤ 32) (hu : bit (fld p 10 1) 0 = false) :
    exec (.netSet dt slot) s = .next (after (begun dt s) (finish c 0 [] (modMgmt (fld p 0 1) (fun g =>
      { g with addr := BitVec.ofNat 32 (fld p 4 4), prefixLen := BitVec.ofNat 8 (fld p 8 1), vlan := BitVec.ofNat 16 (fld p 2 2),
               mac := macField p 10,
               groups := (List.range (fld p 1 1)).map fun i => BitVec.ofNat 32 (fld p (16 + 4 * i) 4) }) (begun dt s)))) := by
  refine hostCmd_next hd hm rfl rfl ?_
  have hr : ¬(1 < fld p 0 1 ∨ 8 < fld p 1 1 ∨ fld p 2 2 % 4096 = 4095 ∨ fld p 8 1 < 1 ∨ 32 < fld p 8 1) := by omega
  simp only [List.forall_mem_cons, hr, hb, hu, decide_false, Bool.or_self]
  exact ⟨by simp [hp], by simp [rsvd, hz], trivial, trivial, by simp⟩

end

/-! ### TIME_STEP_APPLY -/

/-- The command behind a step, where there is one, is answered with the new device time, and SLEW clears (R158). -/
def answerStep : Option Nat → State → State
  | some k, b => finishSlot k 0 (timeBytes b.tb.now) { b with tb := { b.tb with slew := false } }
  | none, b => b

/-- R157: at the round boundary the step takes effect. -/
theorem applyStep_of_ordered {a : State} {d : Int} {slot : Option Nat} (hs : a.servo.step = some (d, slot)) (hc : a.pwr.refclk = true) :
    applyStep a = notifyTimeOf (aboutSlot a slot 0) 3
      (answerStep slot (setClock (((a.tb.now : Int) + d).toNat) { a with servo := { a.servo with step := none } })) := by
  unfold applyStep
  rw [hs]
  dsimp only
  rw [if_pos hc]
  cases slot <;> rfl

/-- Settles O40, command by command. -/
theorem timeCommandsComplete : Obligations.TimeCommandsComplete :=
  ⟨inHorizon_iff, fun _ _ _ _ _ => ⟨timeSet_next, timeRead_next, setTod_next, timeStep_next,
    fun _ ha hs hc => live_next_of_effect ha (applyStep_of_ordered hs hc),
    fun _ ha hs hc => live_next_of_effect ha (applyStep_of_ordered hs hc), netSet_next⟩⟩

end Sys2Proof.Machine
end

section
/-! SUPPORT. The timebase's sources (R156, R161, R162, R164, R165): what each of their happenings does to a state. -/

namespace Sys2Proof.Machine

section
variable {port : Nat} {stamp : Time} {a : State}

/-! ### PTP -/

/-- R161: a one-step Sync of the parent, stamped at the line. -/
theorem ptpArrives_of_sync {env : Envelope} {m : PtpMsg} {origin : Time} {corr : Int} (hr : receives a port env = true)
    (hp : ptpPort a port = true) (ht : ptpTo a port m = true) (hb : m.body = .sync false origin corr) (hk : ptpTaken a m = true)
    (hs : a.tb.src ≠ 2) (hf : fromParent a port m = true) :
    ptpArrives port stamp env m a = ptpSync port (lineStamp (mgmtOf a port) stamp) m false origin corr a := by
  simp only [ptpArrives, hr, hp, ht, hb, hk, hf, Bool.not_true, Bool.or_self, Bool.false_eq_true, if_false, if_true]
  exact if_neg hs

/-- R161, R163: a Delay_Req leaves the port that receives from the parent, and its stamp at the line is kept. -/
theorem sendDelayReq_of_parent (hp : a.servo.hasParent = true) (hc : a.pwr.refclk = true) : let port := flag a.tb.parent
    sendDelayReq stamp a = { a with
      out := a.out ++ [.delayReq port (tagOfPort a port) (macOf a port) (clockId a) (port + 1) a.servo.delaySeq]
      servo := { a.servo with
        delayT3 := some (a.servo.delaySeq, stamp - (mgmtOf a port).egrLat.toNat * 4096)
        delaySeq := (a.servo.delaySeq + 1) % 65536 } } := if_pos (by rw [hp, hc]; rfl)

theorem announceLost_of_master {f : Foreign} (h : a.servo.master = some f) : announceLost a =
    chooseParent (modMgmt (flag a.tb.parent) (fun g => { g with foreign := g.foreign.filter fun x => !sameMaster x f }) a) := by
  unfold announceLost
  rw [h]

theorem syncLost_of_parent (h : a.servo.hasParent = true) :
    syncLost a = loseSource { a with servo := { a.servo with hasParent := false, lastSync := none, ptpOff := none } } := if_pos h

/-! ### 1PPS -/

/-- R165: where PTP alone is the source, an edge only shows that PPS_IN is there. -/
theorem ppsEdge_of_unused (hs : a.tb.src = 0) (hc : a.pwr.refclk = true) : ppsEdge stamp a =
    { a with tb := { a.tb with ppsSeen := true }, servo := { a.servo with ppsLost := false } } := by
  simp [ppsEdge, hc, hs, withTb, withServo]

theorem ppsGone_of_unused (hs : a.tb.src = 0) : ppsGone a =
    { a with tb := { a.tb with ppsSeen := false }, servo := { a.servo with ppsLost := true, disagree := 0 } } := by
  simp [ppsGone, hs, withTb, withServo]

/-- The comparison with PTP makes no measurement the first one after a selection, or no longer the first. -/
theorem comparePps_first (t : Time) (off : Int) (s : State) : (comparePps t off s).servo.first = s.servo.first := by
  have hn : ∀ u : State, (notifyTime 2 u).servo.first = u.servo.first := fun u =>
    congrArg Servo.first (notifyAt_only _ _ _ _ _ u).servo
  unfold comparePps
  dsimp only
  split
  · split
    · refine (apply_ite (fun u : State => u.servo.first) _ _ _).trans ?_
      rw [hn]
      exact ite_self _
    · rfl
  · rfl

/-- R165: with PTP for the second and PPS_IN for the phase, an edge is compared with PTP and its phase is an offset measurement. -/
theorem ppsEdge_of_phase (hs : a.tb.src = 1) (hc : a.pwr.refclk = true) (hl : a.servo.ppsLost = false) (hf : a.servo.first = false) :
    let t := ((stamp : Int) - (a.tb.ppsDelay.toNat * 4096 : Nat)).toNat
    let b := { a with tb := { a.tb with ppsSeen := true }, servo := { a.servo with ppsLost := false } }
    ppsEdge stamp a = measureOffset (fromSecond t) (comparePps t (fromSecond t) b) := by
  intro t b
  have h : (comparePps t (fromSecond t) b).servo.first = false := (comparePps_first _ _ b).trans hf
  unfold ppsEdge
  rw [if_neg (by simp [hc])]
  dsimp only
  refine (if_pos hs).trans ?_
  rw [hl, Bool.false_and, if_neg Bool.false_ne_true]
  exact if_neg (ne_true_of_eq_false h)

/-! ### Holdover's end and the second (R156, R164) -/

theorem secondPasses_of_pulsing (hc : a.pwr.refclk = true) (he : a.tb.ppsOutEn = true) (ht : a.tb.ts ≠ .free) :
    let b := ev 286 (reach ((a.tb.now / sec + 1) * sec) a)
    secondPasses a = emit (.pps true) { b with servo := { b.servo with ppsHigh := true, ppsFall := b.tb.now + ns 100000000 } } := by
  unfold secondPasses
  rw [if_pos hc]
  exact if_pos (Bool.and_eq_true_iff.mpr ⟨he, decide_eq_true ht⟩)

theorem ppsFalls_of_high (hc : a.pwr.refclk = true) (hh : a.servo.ppsHigh = true) : let b := reach a.servo.ppsFall a
    ppsFalls a = emit (.pps false) { b with servo := { b.servo with ppsHigh := false } } := if_pos (by rw [hc, hh]; rfl)

end

/-- R151: the first word's read latches all three. -/
theorem tbNowRead_next {dt : Nat} {s : State} (ha : awake (begun dt s) = true) : let a := begun dt s
    let b := timeBytes a.tb.now
    let w := [BitVec.ofNat 32 (fld b 0 4), BitVec.ofNat 32 (fld b 4 4), BitVec.ofNat 32 (fld b 8 4)]
    exec (.tbNowRead dt) s = .next (after a { a with out := a.out ++ [.latched w], tb := { a.tb with latch := w } }) := by
  change execTbNowRead dt s = _
  exact live_next ha

/-- A happening that carries no time, outside Reset. -/
theorem awake_iff (a : State) : awake a = true ↔ a.sys.mode ≠ .reset := by simp

/-- Settles O41, happening by happening. -/
theorem timeSourcesComplete : Obligations.TimeSourcesComplete := by
  intro dt port stamp env m f s a a0 ha
  exact ⟨fun _ _ hr hp ht hb hk hs hf => live_next_of_effect ha (ptpArrives_of_sync hr hp ht hb hk hs hf),
    fun hp hc => live_next_of_effect ha (sendDelayReq_of_parent hp hc),
    fun h => live_next_of_effect ha (announceLost_of_master h),
    fun h => live_next_of_effect ha (syncLost_of_parent h),
    fun hs hc => ⟨live_next_of_effect ha (ppsEdge_of_unused hs hc), live_next_of_effect ha (ppsGone_of_unused hs)⟩,
    fun hs hc hl hf => live_next_of_effect ha (ppsEdge_of_phase hs hc hl hf),
    fun ht => live_next_of_effect ha (if_pos ht),
    fun hm hc he ht => live_next_of_effect ((awake_iff a0).mpr hm) (secondPasses_of_pulsing hc he ht),
    fun hm hc hh => live_next_of_effect ((awake_iff a0).mpr hm) (ppsFalls_of_high hc hh),
    tbNowRead_next ha⟩

end Sys2Proof.Machine
end

section
/-! SUPPORT. The management ports (R163, R168 to R172, R311, R414). -/

namespace Sys2Proof.Machine

section
variable {port : Nat} {a : State}

/-- R168: a datagram to the unit's address and the telegrams' UDP port is a telegram, stamped at the line. -/
theorem frameArrives_of_telegram {stamp : Time} {f : Frame} (hr : receives a port f.env = true) (hc : slcClock a = true)
    (ht : inTurn a port (lineStamp (mgmtOf a port) stamp) = true) (hu : a.trk.udpPort ≠ 0) (hp : f.udp = a.trk.udpPort.toNat)
    (hz : (mgmtOf a port).addr ≠ 0) (hi : f.ip = (mgmtOf a port).addr) :
    frameArrives port stamp f a = (takeTelegram port (lineStamp (mgmtOf a port) stamp) f.payload a).2 := by
  have haddressed : (decide ((mgmtOf a port).addr ≠ 0) && decide (f.ip = (mgmtOf a port).addr)) = true := by
    rw [decide_eq_true hz, decide_eq_true hi]; rfl
  have hdatagram : (decide (a.trk.udpPort ≠ 0 ∧ f.udp = a.trk.udpPort.toNat) &&
      ((decide ((mgmtOf a port).addr ≠ 0) && decide (f.ip = (mgmtOf a port).addr)) || (mgmtOf a port).groups.contains f.ip)) = true := by
    rw [decide_eq_true ⟨hu, hp⟩, haddressed]; rfl
  unfold frameArrives
  dsimp only
  rw [if_neg (by rw [hr]; decide), if_pos hdatagram, if_pos (by rw [hc, ht]; rfl)]

theorem trainStaleNow_of_due {k : Nat} (hb : (trainOf a k).bound = true) (hv : (trainOf a k).valid = true)
    (hs : (trainOf a k).stale = false) (hc : slcClock a = true) : trainStaleNow k a =
    notifyTrain k 0 (modTrain k (fun t => { t with stale := true }) (reach (staleAt a (trainOf a k)) a)) :=
  if_pos (by rw [hb, hv, hs, hc]; rfl)

/-- R414: what a port receives it receives as one of the two, on a link that is up. -/
theorem port_of_receives {env : Envelope} (h : receives a port env = true) : port ≤ 1 ∧ (mgmtOf a port).linkUp = true := by
  simp only [receives, Bool.and_eq_true, decide_eq_true_eq] at h
  obtain ⟨⟨⟨⟨hport, -⟩, hup⟩, -⟩, -⟩ := h
  exact ⟨hport, hup⟩

end

section
variable {dt port : Nat} {env : Envelope} {s : State}

/-- R414: a request for the port's own address is answered. -/
theorem arpRequest_next {addr : BitVec 32} (ha : awake (begun dt s) = true) (hr : receives (begun dt s) port env = true)
    (hg : (mgmtOf (begun dt s) port).addr = addr) (hz : addr ≠ 0) : let a := begun dt s
    exec (.arpRequest dt port addr env) s =
      .next (after a { a with out := a.out ++ [.arpReply port (tagOfPort a port) (macOf a port) addr] }) := by
  change execArpRequest dt port addr env s = _
  refine live_next_of_effect ha ((if_neg ?_).trans (if_pos ⟨hg ▸ hz, hg⟩))
  rw [hr]
  decide

theorem mgmtFrameOther_next (ha : awake (begun dt s) = true) (hr : receives (begun dt s) port env = true) :
    exec (.mgmtFrameOther dt ⟨port, env⟩) s =
      .next (after (begun dt s) (modMgmt port (fun m => { m with other := satInc m.other }) (begun dt s))) :=
  live_next_of_effect ha (if_pos hr)

/-- R311: a link lost raises the port's source. -/
theorem mgmtLinkChange_lost_next (ha : awake (begun dt s) = true) (hr : receives (begun dt s) port env = true) :
    exec (.mgmtLinkChange dt port false) s =
      .next (after (begun dt s) (setLevel (188 + port) true (modMgmt port (fun g => { g with linkUp := false }) (begun dt s)))) := by
  obtain ⟨hport, hup⟩ := port_of_receives hr
  have hm : (begun dt s).sys.mode ≠ .reset := by simpa using ha
  change execMgmtLinkChange dt port false s = _
  refine run_next ((if_neg ?_).trans (if_pos ?_))
  · simp [hm, hport]
  · rw [hup]
    rfl

end

/-- Settles O42, happening by happening. -/
theorem managementPortsComplete : Obligations.ManagementPortsComplete := fun _ _ _ _ _ _ _ _ =>
  ⟨fun ha hr hc ht hu hp hz hi => live_next_of_effect ha (frameArrives_of_telegram hr hc ht hu hp hz hi),
    fun ha hb hv hs hc => live_next_of_effect ha (trainStaleNow_of_due hb hv hs hc),
    fun ha hr => ⟨arpRequest_next ha hr, mgmtFrameOther_next ha hr, mgmtLinkChange_lost_next ha hr⟩⟩

end Sys2Proof.Machine
end

section
/-! SUPPORT. Windows of a calendar (R188): the window that `Cal.at` names is the only one that an instant belongs to. -/

namespace Sys2Proof.Machine

/-- In a rising list the elements up to a bound come first. -/
theorem getElem_le_iff_lt_length_filter {l : List Time} (hl : l.Pairwise (· < ·)) (r : Time) {j : Nat} (hj : j < l.length) :
    l[j] ≤ r ↔ j < (l.filter (· ≤ r)).length := by
  induction l generalizing j with
  | nil => simp at hj
  | cons o l ih =>
    obtain ⟨ho, hl⟩ := List.pairwise_cons.mp hl
    by_cases h : o ≤ r
    · cases j with
      | zero => simp [h]
      | succ j => simp [h, ih hl (Nat.lt_of_succ_lt_succ hj)]
    · have hlate : ∀ x ∈ o :: l, ¬x ≤ r :=
        List.forall_mem_cons.mpr ⟨h, fun x hx hr => h ((ho x hx).le.trans hr)⟩
      have hnone : (o :: l).filter (· ≤ r) = [] := List.filter_eq_nil_iff.mpr (by simpa using hlate)
      simpa only [hnone, List.length_nil, Nat.not_lt_zero, iff_false] using hlate _ (List.getElem_mem hj)

/-- A span within cycle `k` is a span of the times that cycle `k` has run. -/
theorem inCycle_iff {base cycle k o o' r : Nat} (ho : o' ≤ cycle) :
    base + k * cycle + o ≤ base + r ∧ base + r < base + k * cycle + o' ↔ k = r / cycle ∧ o ≤ r % cycle ∧ r % cycle < o' := by
  have hsplit := Nat.div_add_mod' r cycle
  constructor
  · rintro ⟨hle, hlt⟩
    have hk : r / cycle = k := Nat.div_eq_of_lt_le (by omega) (by rw [Nat.succ_mul]; omega)
    rw [hk] at hsplit ⊢
    omega
  · rintro ⟨rfl, hle, hlt⟩
    omega

section
variable {c : Cal} {t r : Time} {k i : Nat}

/-- How many windows of its cycle have begun at time `r` of the cycle. -/
def Cal.begunBy (c : Cal) (r : Time) : Nat := (c.offs.filter (· ≤ r)).length

theorem Cal.start_eq (hi : i < c.count) : c.start k i = c.base + k * c.cycle + (c.offs[i]?).getD 0 := by
  simp [Cal.start, Cal.cycleStart, List.getElem?_eq_getElem hi]

/-- R188, R189: from BASE on, the cycle and the window of it that has begun last. -/
theorem Cal.at_eq (hc : 0 < c.cycle) (ht : c.base ≤ t) :
    c.at t = ((t - c.base) / c.cycle, c.begunBy ((t - c.base) % c.cycle) - 1) :=
    if_neg (not_or.mpr ⟨Nat.not_lt.mpr ht, hc.ne'⟩)

/-- No window ends after its cycle. -/
theorem Cal.windowEnd_le (hc : ∀ o ∈ c.offs, o < c.cycle) (i : Nat) : (c.offs[i + 1]?).getD c.cycle ≤ c.cycle := by
  cases h : c.offs[i + 1]? with
  | none => exact le_rfl
  | some o => exact (hc o (List.mem_of_getElem? h)).le

section
variable (h0 : c.offs.head? = some 0)
include h0

/-- R188: a window ends where the next begins, and the last one of a cycle with the cycle. -/
theorem Cal.start_next (k i : Nat) :
    c.start (c.next k i).1 (c.next k i).2 = c.base + k * c.cycle + (c.offs[i + 1]?).getD c.cycle := by
  by_cases h : i + 1 < c.count
  · simp [Cal.next, h, Cal.start, Cal.cycleStart]
  · have hfirst : c.offs[0]? = some 0 := List.head?_eq_getElem? ▸ h0
    have hlast : c.offs[i + 1]? = none := List.getElem?_eq_none (Nat.le_of_not_lt h)
    rw [hlast]
    simp [Cal.next, h, Cal.start, Cal.cycleStart, hfirst, Nat.add_mul, Nat.add_assoc]

/-- The first window of a cycle begins with it. -/
theorem Cal.begunBy_pos (r : Time) : 0 < c.begunBy r :=
  List.length_pos_of_mem (List.mem_filter.mpr ⟨List.mem_of_head? h0, by simp⟩)

theorem Cal.begunBy_pred_lt (r : Time) : c.begunBy r - 1 < c.count := by
  have hpos := c.begunBy_pos h0 r
  have hle : c.begunBy r ≤ c.count := List.length_filter_le ..
  omega

variable (hs : c.offs.Pairwise (· < ·))
include hs

/-- R188: time `r` of a cycle lies in the window that has begun last. -/
theorem Cal.inWindow_iff (hr : r < c.cycle) (hi : i < c.count) :
    (c.offs[i]?).getD 0 ≤ r ∧ r < (c.offs[i + 1]?).getD c.cycle ↔ i = c.begunBy r - 1 := by
  have hpos := c.begunBy_pos h0 r
  have hle : c.begunBy r ≤ c.count := List.length_filter_le ..
  have hcome : c.offs[i] ≤ r ↔ i < c.begunBy r := getElem_le_iff_lt_length_filter hs r hi
  rw [List.getElem?_eq_getElem hi, Option.getD_some, hcome]
  by_cases h : i + 1 < c.count
  · have hnext : r < c.offs[i + 1] ↔ ¬i + 1 < c.begunBy r :=
      not_le.symm.trans (not_congr (getElem_le_iff_lt_length_filter hs r h))
    rw [List.getElem?_eq_getElem h, Option.getD_some, hnext]
    omega
  · rw [List.getElem?_eq_none (Nat.le_of_not_lt h), Option.getD_none, and_iff_left hr]
    omega

/-- R188: from BASE on, the windows are the classes of `Cal.at`: each instant's is the one that it lies in. -/
theorem Cal.at_eq_iff (hc : ∀ o ∈ c.offs, o < c.cycle) (ht : c.base ≤ t) (hi : i < c.count) :
    c.start k i ≤ t ∧ t < c.start (c.next k i).1 (c.next k i).2 ↔ (k, i) = c.at t := by
  have hpos : 0 < c.cycle := hc 0 (List.mem_of_head? h0)
  obtain ⟨r, rfl⟩ := Nat.exists_eq_add_of_le ht
  rw [Cal.at_eq hpos ht, Nat.add_sub_cancel_left, Cal.start_eq hi, Cal.start_next h0, Prod.mk.injEq,
    ← Cal.inWindow_iff h0 hs (Nat.mod_lt r hpos) hi]
  exact inCycle_iff (Cal.windowEnd_le hc i)

end
end

/-- Settles O37: the window that `Cal.at` names is one of the calendar's, so that `Cal.at_eq_iff` gives both its bounds and that no other
window has them. -/
theorem instantBelongsToItsWindow : Obligations.InstantBelongsToItsWindow := by
  intro c t hs h0 hc ht w n
  have hw : w.2 < c.count := by
    have hpos : 0 < c.cycle := hc 0 (List.mem_of_head? h0)
    change (c.at t).2 < _
    rw [Cal.at_eq hpos ht]
    exact c.begunBy_pred_lt h0 _
  obtain ⟨hle, hlt⟩ := (Cal.at_eq_iff h0 hs hc ht hw).mpr rfl
  exact ⟨hw, hle, hlt, fun k i hi => ⟨Cal.start_eq hi, Cal.start_next h0 k i,
    fun hle hlt => (Cal.at_eq_iff h0 hs hc ht hi).mp ⟨hle, hlt⟩⟩⟩

end Sys2Proof.Machine
end

section
/-! SUPPORT. Calendar commands and the course of a calendar (R187 to R194, R206, R296, R297). -/

namespace Sys2Proof.Machine

/-! ### The calendar commands -/

section
variable {dt slot : Nat} {c : SlotCmd} {p : List Byte} {s : State}

/-- R296: with flag 0 set, header and entries replace the shadow bank; a calendar that waits in it is withdrawn first. -/
theorem calWrite_full_next (hd : due (begun dt s) slot 0x0400 c p = true) (hm : inSvc (begun dt s).sys.mode = true)
    (hr : roleLit (begun dt s).sys.role = true) (hh : 8 ≤ p.length) (hf : fld p 1 1 = 1) (hp : p.length = 40 + 16 * fld p 4 2)
    (hz : fld p 6 2 = 0) (hk : fld p 0 1 ≤ 15) (hn : fld p 4 2 ≤ 252) (he : fld p 2 2 + fld p 4 2 ≤ 4096) :
    exec (.calWrite dt slot) s = .next (after (begun dt s) (finish c 0 [] (modDom (fld p 0 1) (fun v =>
      v.setShadow (writeEntries (fld p 2 2) (p.drop 40) { hdr := sub p 8 32, ents := [] }))
      (withdrawWaiting (fld p 0 1) (begun dt s))))) := by
  have hlen : p.length = 8 + 32 + 16 * fld p 4 2 := hp
  refine hostCmd_next_of_effect hd hm rfl hr ?_ ?_
  · simp [hf, ← hlen, rsvd, hz, Nat.not_lt.mpr hh, Nat.not_lt.mpr hk, Nat.not_lt.mpr hn, Nat.not_lt.mpr he]
  · simp only [hf, show bit 1 0 = true from rfl, if_true]

/-- R297: the checks follow, behind the command's deferral. -/
theorem calCommit_next (hd : due (begun dt s) slot 0x0401 c p = true) (hm : inSvc (begun dt s).sys.mode = true)
    (hr : roleLit (begun dt s).sys.role = true) (hp : p.length = 4) (hz : fld p 1 3 = 0) (hk : fld p 0 1 ≤ 15)
    (hn : noDefer (begun dt s) = false) :
    exec (.calCommit dt slot) s = .next (after (begun dt s)
      (modDom (fld p 0 1) (fun v => { v with checkAt := some slot }) (deferCmd c (begun dt s)))) :=
  hostCmd_next hd hm rfl hr (by simp [hp, rsvd, hz, hn, Nat.not_lt.mpr hk])

/-- R194: the stop comes behind an entry already armed, and the answer behind the stop. -/
theorem calStop_next (hd : due (begun dt s) slot 0x0402 c p = true) (hm : inSvc (begun dt s).sys.mode = true)
    (hr : roleLit (begun dt s).sys.role = true) (hp : p.length = 4) (hz : fld p 1 3 = 0) (hk : fld p 0 1 ≤ 15) :
    exec (.calStop dt slot) s = .next (after (begun dt s)
      (modDom (fld p 0 1) (fun v => { v with stopAfter := some slot }) (hold c (begun dt s)))) :=
  hostCmd_next hd hm rfl hr (by simp [hp, rsvd, hz, Nat.not_lt.mpr hk])

/-- R297: the active bank is read, or the shadow bank. -/
theorem calRead_next (hd : due (begun dt s) slot 0x0403 c p = true) (hm : inRun (begun dt s).sys.mode = true) (hp : p.length = 8)
    (hz : fld p 6 2 = 0) (hk : fld p 0 1 ≤ 15) (hb : fld p 1 1 ≤ 1) (hn : fld p 4 2 ≤ 252) (he : fld p 2 2 + fld p 4 2 ≤ 4096) :
    let v := slcDom (begun dt s) (fld p 0 1)
    let b := if fld p 1 1 = 0 then v.active else v.shadow
    exec (.calRead dt slot) s = .next (after (begun dt s) (finish c 0
      (pad 32 b.hdr ++ (List.range (fld p 4 2)).flatMap fun i => pad 16 (entryOf b (fld p 2 2 + i))) (begun dt s))) :=
  hostCmd_next hd hm rfl rfl
    (by simp [hp, rsvd, hz, Nat.not_lt.mpr hk, Nat.not_lt.mpr hb, Nat.not_lt.mpr hn, Nat.not_lt.mpr he])

/-- R297: counts and marks clear as they are read. -/
theorem calStatus_next (hd : due (begun dt s) slot 0x0404 c p = true) (hm : inRun (begun dt s).sys.mode = true) (hp : p.length = 4)
    (hz : fld p 1 3 = 0) (hk : fld p 0 1 ≤ 15) : let a := begun dt s
    exec (.calStatus dt slot) s = .next (after a (modDom (fld p 0 1) (fun v =>
      { v with skipped := 0, refused := 0, late := 0, advanced := 0, lateBase := false, gapFail := false })
      (finish c 0 (((slcDomWords a (fld p 0 1)).flatMap fun w => le 4 w.toNat) ++ timeBytes (slcDom a (fld p 0 1)).start ++ zeros 4)
        a))) :=
  hostCmd_next hd hm rfl rfl (by simp [hp, rsvd, hz, Nat.not_lt.mpr hk])

end

/-- Settles O30, command by command. -/
theorem calendarCommandsComplete : Obligations.CalendarCommandsComplete := fun _ _ _ _ _ =>
  ⟨calWrite_full_next, calCommit_next, calStop_next, calRead_next, calStatus_next⟩

/-! ### A calendar's commit and course -/

section
variable {a : State} {d : Nat} {c : Cal} {k : SlotCmd} {t : Time}

/-- R206: of the domains with a commit under way the first comes to its end. -/
theorem commitDue_of_turn (hf : fwLive a = true) (hd : ((List.range 16).find? fun d => (slcDom a d).checkAt.isSome) = some d)
    (hk : deferredCmd a 0x0401 = some k)
    (ht : commitTurn a k.acc (((calOf (slcDom a d).shadow).map Cal.names).getD []) = true) : commitDue a = some (d, some k) := by
  unfold commitDue
  rw [if_pos hf, hd, hk]
  exact if_pos ht

/-- R297: the command is answered with its checks' result. -/
theorem calCommitDone_of_due (h : commitDue a = some (d, some k)) :
    let x := commitCal (aboutCmd (some k)) d (modDom d (fun v => { v with checkAt := none }) a)
    calCommitDone a = finish k (if x.2.1 then 0x0420 else 0) x.2.2 x.1 := by
  unfold calCommitDone
  rw [h]

/-- R192: a calendar starts at its start instant, and where R181's conditions do not hold it is suspended at once. -/
theorem startCalendar_of_waiting (h : calWaiting (slcDom a d) = some c) :
    let v := slcDom a d
    let u := reach v.start a
    startCalendar d a = notifyCal {} d 0 v.start (refit d c u.fab.conns (modDom d (fun w =>
      { w with abank := !w.abank, waiting := false, state := if sluiceRuns u then .running else .suspended,
               follows := !roleLit u.sys.role, entry := 0, cycle := w.startCycle, firstCycle := w.startCycle,
               startConn := u.fab.conns, resume := none, unfired := !sluiceRuns u && roleLit u.sys.role }) u)) := by
  unfold startCalendar
  rw [h]
  rfl

/-- R188, R192: the next window begins, but not beyond the start of a calendar that waits. -/
theorem passWindow_of_running (hc : calActive (slcDom a d) = some c) (hr : (slcDom a d).state = .running) :
    let n := c.next (slcDom a d).cycle (slcDom a d).entry.toNat
    ((slcDom a d).waiting = true → c.start n.1 n.2 < (slcDom a d).start) →
    passWindow d a = modDom d (enterWindow n.1 n.2) (reach (c.start n.1 n.2) a) := by
  intro n hw
  unfold passWindow
  simp only [hc]
  have hw : ¬((slcDom a d).waiting = true ∧ (slcDom a d).start ≤ c.start n.1 n.2) := fun h => Nat.not_le.mpr (hw h.1) h.2
  exact if_pos ⟨hr, by rw [decide_eq_false hw]; rfl⟩

/-- R194: between the window at which a calendar was suspended and that at which it resumes, every window was skipped. -/
theorem resumeCalendar_of_suspended (hc : calActive (slcDom a d) = some c) (ht : (slcDom a d).resume = some t)
    (hs : (slcDom a d).state = .suspended) (hr : sluiceRuns a = true) :
    let first := (slcDom a d).cycle * c.count + (slcDom a d).entry.toNat + flag (!(slcDom a d).unfired)
    let missed := (c.at t).1 * c.count + (c.at t).2 - first
    resumeCalendar d a = notifyCal {} d 3 t (forEach (List.range missed) (modDom d (fun v =>
      { enterWindow (c.at t).1 (c.at t).2 v with state := .running, resume := none, skipped := satAdd v.skipped missed })
        (reach t a)) fun s j => ev 279 (postEntry ⟨false, d, (first + j) % c.count, (c.cfg ((first + j) % c.count)).getD 0,
          (first + j) / c.count, c.start ((first + j) / c.count) ((first + j) % c.count), 0, 0xFF, false, false, 0⟩ 5 none
          0xFFFFFFFF s)) := by
  unfold resumeCalendar
  simp only [hc, ht]
  exact if_pos ⟨hs, hr⟩

end

/-- Settles O31, happening by happening. -/
theorem calendarCourseCompletes : Obligations.CalendarCourseCompletes := fun _ _ _ _ _ _ =>
  ⟨fun ha hf hd hk ht => live_next_of_effect ha (calCommitDone_of_due (commitDue_of_turn hf hd hk ht)),
    fun ha hc => live_next_of_effect ha (startCalendar_of_waiting hc),
    fun ha hc hr hw => live_next_of_effect ha (passWindow_of_running hc hr hw),
    fun ha hc ht hs hr => live_next_of_effect ha (resumeCalendar_of_suspended hc ht hs hr)⟩

end Sys2Proof.Machine
end

section
/-! SUPPORT. Commands on tracked entries (R184, R196, R206, R298, R299). -/

namespace Sys2Proof.Machine

section
variable {dt slot : Nat} {c : SlotCmd} {p : List Byte} {s : State}

/-- R298: entries are staged where their reserved bytes are 0. -/
theorem entryWrite_next (hd : due (begun dt s) slot 0x0502 c p = true) (hm : inSvc (begun dt s).sys.mode = true)
    (hr : roleLit (begun dt s).sys.role = true) (hp : p.length = 8 + 32 * fld p 2 2) (hz : fld p 4 4 = 0)
    (he : ∀ i < fld p 2 2, rsvd (writtenEntry p i) 3 1 = false ∧ rsvd (writtenEntry p i) 6 2 = false ∧
      rsvd (writtenEntry p i) 16 16 = false) (hlo : 1 ≤ fld p 2 2) (hhi : fld p 2 2 ≤ 127) (hn : fld p 0 2 + fld p 2 2 ≤ 8192) :
    let a := begun dt s
    exec (.entryWrite dt slot) s = .next (after a (finish c 0 [] { a with slc := { a.slc with
      staged := (List.range (fld p 2 2)).foldl (fun m i => sset [] m (fld p 0 2 + i) (writtenEntry p i)) a.slc.staged } })) := by
  have hform : ((List.range (fld p 2 2)).any fun i =>
      rsvd (writtenEntry p i) 3 1 || rsvd (writtenEntry p i) 6 2 || rsvd (writtenEntry p i) 16 16) = false := by
    simpa [and_assoc] using he
  have hrange : ¬(fld p 2 2 < 1 ∨ 127 < fld p 2 2 ∨ 8192 < fld p 0 2 + fld p 2 2) := by omega
  refine hostCmd_next hd hm rfl hr ?_
  simp only [List.forall_mem_cons, hform, hrange, decide_false]
  exact ⟨by simp [hp], by simp [hp], by simp [rsvd, hz], trivial, trivial, by simp⟩

section
variable (hd : due (begun dt s) slot 0x0503 c p = true) (hm : inSvc (begun dt s).sys.mode = true)
  (hr : roleLit (begun dt s).sys.role = true) (hp : p.length = 4) (hz : fld p 0 4 = 0) (hf : entryFails (begun dt s) = none)
include hd hm hr hp hz hf

/-- R298: a batch that passes the checks and needs no route is committed at once. -/
theorem entryCommit_routed_next (hu : unroutedOf (begun dt s) = []) :
    exec (.entryCommit dt slot) s =
      .next (after (begun dt s) (finish c 0 (commitStaged (begun dt s)).2 (commitStaged (begun dt s)).1)) := by
  refine hostCmd_next_of_effect hd hm rfl hr (by simp [hp, rsvd, hz]) ?_
  simp only [hf]
  exact if_pos (by rw [hu]; rfl)

/-- R184: one that needs routes is deferred until its configurations are routed. -/
theorem entryCommit_unrouted_next (hu : unroutedOf (begun dt s) ≠ []) (hn : noDefer (begun dt s) = false) :
    let b := deferCmd c (begun dt s)
    exec (.entryCommit dt slot) s = .next (after (begun dt s) { b with slc := { b.slc with commitSlot := some slot } }) := by
  refine hostCmd_next_of_effect hd hm rfl hr (by simp [hp, rsvd, hz]) ?_
  simp only [hf]
  rw [if_neg (by simpa using hu), if_neg (ne_true_of_eq_false hn)]
  rfl

end

/-- R298: entries of which none is ARMED are deleted, staged ones with them. -/
theorem entryDelete_next (hd : due (begun dt s) slot 0x0504 c p = true) (hm : inSvc (begun dt s).sys.mode = true)
    (hr : roleLit (begun dt s).sys.role = true) (hp : p.length = 4) (hn : fld p 0 2 + fld p 2 2 ≤ 8192)
    (ha : ∀ n ∈ entryRange p, (sget {} (begun dt s).slc.entries n : TEntry).used = true →
      (sget {} (begun dt s).slc.entries n : TEntry).state ≠ .armed) :
    exec (.entryDelete dt slot) s = .next (after (begun dt s) (finish c 0 [] (forEach (entryRange p) (begun dt s) fun s n =>
      let e : TEntry := sget {} s.slc.entries n
      let b := { s with slc := { s.slc with staged := sset [] s.slc.staged n [] } }
      if e.used then mirror (.entry n none) (modEntry n (fun _ => {}) (dropPrep true e.domain n b)) else b))) := by
  refine hostCmd_next hd hm rfl hr ?_
  simp only [List.forall_mem_cons, List.any_eq_false, decide_eq_true_eq, not_and]
  exact ⟨by simp [hp], by simp [Nat.not_lt.mpr hn], ha, by simp⟩

/-- R299: an index that is not in use reads zeros. -/
theorem entryRead_next (hd : due (begun dt s) slot 0x0505 c p = true) (hm : inRun (begun dt s).sys.mode = true) (hp : p.length = 4)
    (hlo : 1 ≤ fld p 2 2) (hhi : fld p 2 2 ≤ 127) (hn : fld p 0 2 + fld p 2 2 ≤ 8192) :
    exec (.entryRead dt slot) s = .next (after (begun dt s)
      (finish c 0 ((entryRange p).flatMap fun n => entryBytesOf (sget {} (begun dt s).slc.entries n)) (begun dt s))) := by
  have hrange : ¬(fld p 2 2 < 1 ∨ 127 < fld p 2 2 ∨ 8192 < fld p 0 2 + fld p 2 2) := by omega
  exact hostCmd_next hd hm rfl rfl (by simp only [List.forall_mem_cons, hrange, decide_false]; simp [hp])

end

/-- R184, R298: the batch is committed once its configurations are routed, with what the routes left of the fabric. -/
theorem entryCommitDone_of_routed {a : State} {k : Nat} {c : SlotCmd} (hf : fwLive a = true) (hk : a.slc.commitSlot = some k)
    (hc : deferredCmd a 0x0503 = some c) (ht : commitTurn a c.acc (unroutedOf a) = true) :
    let b := { a with slc := { a.slc with commitSlot := none } }
    let x := routeAll6 (unroutedOf b) (placeStaged b)
    let y := commitStaged { b with fab := x.1.fab }
    x.2 = none → armedStaged b = none → entryCommitDone a = finish c 0 y.2 y.1 := by
  intro b x y hx hn
  have hb : withSlc (fun v => { v with commitSlot := none }) a = b := rfl
  unfold entryCommitDone
  simp only [hk, hc]
  rw [if_pos (by rw [hf, ht]; rfl), hb]
  simp only [show (routeAll6 (unroutedOf b) (placeStaged b)).2 = none from hx, hn]
  rfl

/-- Settles O33, command by command, and the end of a commit. -/
theorem entryCommandsComplete : Obligations.EntryCommandsComplete := fun _ _ _ _ _ _ =>
  ⟨entryWrite_next,
    fun hd hm hr hp hz hf => ⟨entryCommit_routed_next hd hm hr hp hz hf, entryCommit_unrouted_next hd hm hr hp hz hf⟩,
    entryDelete_next, entryRead_next,
    fun ha hf hk hc ht hx hn => live_next_of_effect ha (entryCommitDone_of_routed hf hk hc ht hx hn)⟩

end Sys2Proof.Machine
end

section
/-! SUPPORT. The Sluice's preparation and arming of entries (R199 to R201). -/

namespace Sys2Proof.Machine

section
variable {a : State} {tracked : Bool} {d e : Nat} {x : Due} {t0 : Time}

/-! ### Preparation (R199) -/

/-- R199: a scheduled entry is prepared from 1 ms before T_FIRE. -/
theorem toPrepare_of_scheduled
    (hh : (a.slc.prep.any fun p => p.tracked == true && p.domain == d && p.entry == e) = false) : let n : TEntry := sget {} a.slc.entries e
    n.used = true → n.domain = d → n.state = .scheduled → n.tFire ≤ a.tb.now + ns 1000000 →
    toPrepare a true d e = some (n.config, 0, n.tFire) := by
  intro n hu hd hs ht
  refine if_pos ?_
  simp only [Bool.true_or, Bool.and_true, hh]
  rw [hu, decide_eq_true ⟨hd, hs, ht⟩]
  rfl

section
variable (hr : sluiceRuns a = true)
include hr

/-- R182, R199: with room left, the entry's record is read; a calendar entry is prepared for one window, a tracked one whatever its
firing instant becomes. -/
theorem prepareEntry_of_room {w : Nat × Nat × Time} (hw : toPrepare a tracked d e = some w) (hl : a.slc.prep.length < 256) :
    let b := tagEnter none (some (tracked, d, e)) a
    prepareEntry tracked d e a = tagStage (tagOfEntry tracked d e) 1 { b with slc := { b.slc with
      prep := b.slc.prep ++ [⟨tracked, d, e, w.2.1, cfgOf b.fab w.1, if tracked then 0 else w.2.2⟩] } } := by
  unfold prepareEntry
  rw [if_neg (by simp [hr]), hw]
  exact if_neg (Nat.not_le.mpr hl)

/-! ### Arming (R199 to R201) -/

/-- R199, R201: outside a re-check a due entry is armed, with all that fall together with it. -/
theorem armSince_of_idle (hx : dueSince t0 a tracked d e = some x) (hc : recheckRuns a = false) :
    armSince t0 tracked d e a = armDue x a := by
  unfold armSince
  rw [if_neg (by simp [hr]), hx]
  exact if_neg (ne_true_of_eq_false hc)

/-- R200: while a re-check runs, the arming waits, with the instant that it was asked for at. -/
theorem armSince_of_recheck (hx : dueSince t0 a tracked d e = some x) (hc : recheckRuns a = true) :
    armSince t0 tracked d e a = { a with slc := { a.slc with recheck := a.slc.recheck ++ [(tracked, d, e, t0)] } } := by
  unfold armSince
  rw [if_neg (by simp [hr]), hx]
  exact if_pos hc

/-- R200: a single arming that waited proceeds when the re-check ends, for the window of the instant asked. -/
theorem recheckOver_of_single : let b := { a with slc := { a.slc with recheckAt := none, recheck := [] } }
    a.slc.recheck = [(tracked, d, e, t0)] → dueSince t0 b tracked d e = some x → recheckOver a = armDue x b := by
  intro b hw hx
  unfold recheckOver
  rw [hw]
  exact armSince_of_idle (a := b) hr hx rfl

end
end

/-- Settles O34, happening by happening. -/
theorem sluiceCompletes : Obligations.SluiceCompletes := by
  intro dt d e x s a n ha hr
  refine ⟨fun hh hu hd hs ht hl => ?prepared, fun _ hw hl => live_next_of_effect ha (prepareEntry_of_room hr hw hl),
    fun _ hx hc => live_next_of_effect ha (armSince_of_idle hr hx hc),
    fun _ hx hc => live_next_of_effect ha (armSince_of_recheck hr hx hc), live_next ha,
    fun _ _ hw hx => live_next_of_effect ha (recheckOver_of_single hr hw hx)⟩
  case prepared =>
    have hw := toPrepare_of_scheduled hh hu hd hs ht
    refine live_next_of_effect ha ((prepareEntry_of_room hr hw hl).trans ?_)
    rw [if_pos rfl]

end Sys2Proof.Machine
end

section
/-! SUPPORT. The Weir and the lanes (R208 to R226, R239, R300): the Weir commands, and what each happening of a lane and of the Weir does
to a state. -/

namespace Sys2Proof.Machine

/-! ### The Weir commands -/

section
variable {dt slot : Nat} {c : SlotCmd} {p : List Byte} {s : State}

/-- R225, R300: a port whose calendar does not hold it takes its settings, and its shaper goes on from its level. -/
theorem weirPort_next (hd : due (begun dt s) slot 0x0600 c p = true) (hm : inRun (begun dt s).sys.mode = true) (hp : p.length = 20)
    (hz : fld p 2 2 = 0) (h0 : bits (fld p 4 4) 13 6 = 0) (h1 : bits (fld p 8 4) 15 10 = 0) (h2 : bits (fld p 12 4) 13 0 = 0)
    (h3 : bits (fld p 16 4) 31 24 = 0) (hn : fld p 0 2 < (begun dt s).part.ports) (hl : bits (fld p 4 4) 31 14 ≤ 200000)
    (hglo : 1000 ≤ bits (fld p 8 4) 31 16) (hghi : bits (fld p 8 4) 31 16 ≤ 40000)
    (hs : bits (fld p 12 4) 31 14 ≤ bits (fld p 4 4) 31 14) (hc : calHolds (begun dt s) (fld p 0 2) = false) : let a := begun dt s
    exec (.weirPort dt slot) s = .next (after a (finish c 0 [] (modWPort (fld p 0 2) (fun v =>
      { v with lineRate := BitVec.ofNat 18 (bits (fld p 4 4) 31 14), overhead := BitVec.ofNat 6 (fld p 4 4),
               glead := BitVec.ofNat 16 (bits (fld p 8 4) 31 16), guard := BitVec.ofNat 10 (fld p 8 4),
               shapeRate := BitVec.ofNat 18 (bits (fld p 12 4) 31 14), shapeBurst := BitVec.ofNat 24 (fld p 16 4),
               level := v.levelNow a.tb.now, levelAt := a.tb.now }) a))) := by
  have hrange : ¬(200000 < bits (fld p 4 4) 31 14 ∨ bits (fld p 8 4) 31 16 < 1000 ∨ 40000 < bits (fld p 8 4) 31 16 ∨
      bits (fld p 4 4) 31 14 < bits (fld p 12 4) 31 14) := by omega
  exact hostCmd_next hd hm rfl rfl (by simp [hp, rsvd, hz, h0, h1, h2, h3, hc, hrange, Nat.not_le.mpr hn])

/-- R219, R300: a queue takes its settings, and its buckets go on from their levels, cut to the new sizes. -/
theorem weirQueue_next (hd : due (begun dt s) slot 0x0601 c p = true) (hm : inRun (begun dt s).sys.mode = true) (hp : p.length = 20)
    (hz : fld p 2 2 = 0) (h0 : bits (fld p 4 4) 13 9 = 0) (h1 : bits (fld p 8 4) 13 6 = 0) (h2 : bits (fld p 12 4) 31 24 = 0)
    (h3 : bits (fld p 16 4) 31 24 = 0) (hn : fld p 0 2 < 8 * (begun dt s).part.ports)
    (hr : bits (fld p 4 4) 31 14 ≤ bits (fld p 8 4) 31 14) (hpir : bits (fld p 8 4) 31 14 ≤ 200000) (hw : bits (fld p 4 4) 7 0 ≠ 0)
    (hy : bits (fld p 8 4) 5 0 ≤ 32) (hcbs : fld p 12 4 ≠ 0) (hpbs : fld p 16 4 ≠ 0) : let a := begun dt s
    exec (.weirQueue dt slot) s = .next (after a (finish c 0 [] (modWQueue (fld p 0 2) (fun v => let v := v.filledAt a.tb.now
      { v with cir := BitVec.ofNat 18 (bits (fld p 4 4) 31 14), aware := bit (fld p 4 4) 8, weight := BitVec.ofNat 8 (fld p 4 4),
               pir := BitVec.ofNat 18 (bits (fld p 8 4) 31 14), yelMax := BitVec.ofNat 6 (fld p 8 4),
               cbs := BitVec.ofNat 24 (fld p 12 4), pbs := BitVec.ofNat 24 (fld p 16 4),
               tc := v.tc.map (min (fld p 12 4 * byteUnits)), tp := v.tp.map (min (fld p 16 4 * byteUnits)) }) a))) := by
  have hrange : ¬(bits (fld p 8 4) 31 14 < bits (fld p 4 4) 31 14 ∨ 200000 < bits (fld p 8 4) 31 14 ∨ bits (fld p 4 4) 7 0 = 0 ∨
      32 < bits (fld p 8 4) 5 0 ∨ fld p 12 4 = 0 ∨ fld p 16 4 = 0) := by omega
  exact hostCmd_next hd hm rfl rfl (by
    simp only [List.forall_mem_cons, hrange, decide_false]
    simp [hp, rsvd, hz, h0, h1, h2, h3, Nat.not_le.mpr hn])

/-- R216, R300: the lanes named are enabled, and each of the others goes down. -/
theorem weirLanes_next (hd : due (begun dt s) slot 0x0602 c p = true) (hm : inRun (begun dt s).sys.mode = true) (hp : p.length = 4)
    (hz : fld p 1 3 = 0) : let a := begun dt s
    let en : BitVec 8 := BitVec.ofNat 8 (fld p 0 1)
    exec (.weirLanes dt slot) s = .next (after a (finish c 0 []
      (forEach ((List.range 8).filter fun l => !en.getLsbD l) { a with weir := { a.weir with laneEn := en } }
        fun s l => weirLaneDown l s))) :=
  hostCmd_next hd hm rfl rfl (by simp [hp, rsvd, hz])

/-- R300: a port's registers are read with its queues and its lane, and the counts clear. -/
theorem weirRead_next (hd : due (begun dt s) slot 0x0603 c p = true) (hm : inRun (begun dt s).sys.mode = true) (hp : p.length = 4)
    (hz : fld p 2 2 = 0) (hn : fld p 0 2 < (begun dt s).part.ports) : let a := begun dt s
    let n := fld p 0 2
    exec (.weirRead dt slot) s = .next (after a (clearWeir n (finish c 0
      (wordBytes (portCfgWords (wportOf a n) ++ portCntWords (wportOf a n) ++ ((queuesOf n).flatMap fun k => queueWords (wqueueOf a k)) ++
        [laneStatWord (sget {} a.weir.lanes (laneOf a.part n)), weirCtrlWord a, a.weir.ignored])) a))) :=
  hostCmd_next hd hm rfl rfl (by simp [hp, rsvd, hz, Nat.not_le.mpr hn])

end

/-- Settles O38, command by command. -/
theorem weirCommandsComplete : Obligations.WeirCommandsComplete := fun _ _ _ _ _ =>
  ⟨weirPort_next, weirQueue_next, weirLanes_next, weirRead_next⟩

section
variable {a : State} {l n : Nat}

/-! ### Lanes (R210, R227, R239) -/

theorem weirLaneUp_of_enabled (hl : l < 8) (he : a.weir.laneEn.getLsbD l = true) (ha : awake a = true) (hc : a.pwr.refclk = true) :
    weirLaneUp l a = modLane l (fun x => { x with up := true }) a :=
  if_pos ⟨hl, he, by simpa using ha, hc⟩

theorem cldLaneUp_of_enabled (hl : l < 2) (he : a.cld.laneEn.getLsbD l = true) (hc : a.pwr.refclk = true) :
    cldLaneUp l a = modCldLane l (fun x => { x with up := true }) a := if_pos ⟨hl, he, hc⟩

/-- R227: the requests of the lane's agents are cleared and counted, and its source is raised. -/
theorem weirLaneDown_of_up (hu : (sget {} a.weir.lanes l : Lane).up = true) :
    let agents := (List.range a.part.ports).filter fun n => laneOf a.part n == l
    weirLaneDown l a = raise (171 + l) (ev 285 (modLane l (fun x =>
      { x with up := false, downSeen := true, flushed := satAdd x.flushed ((agents.map (queuedAt a)).sum) })
        (forEach agents a fun s n => clearPort n s))) := if_pos hu

/-- Whatever becomes of one Cladal lane, the link can send while the other is up. -/
theorem cldCanSend_modCldLane_of_other {f : Lane → Lane} (hl : l < 2) (ho : (cldLane a (1 - l)).up = true) (hc : a.pwr.refclk = true) :
    cldCanSend (modCldLane l f a) = true := by
  obtain rfl | rfl : l = 0 ∨ l = 1 := by omega
  · have h1 : a.cld.lane1.up = true := ho
    simp [cldCanSend, hc, h1]
  · have h0 : a.cld.lane0.up = true := ho
    simp [cldCanSend, hc, h0]

/-- R239: beside another lane that is up, a lane leaves the link, which stays up. -/
theorem cldLaneDown_of_other (hl : l < 2) (hu : (cldLane a l).up = true) (ho : (cldLane a (1 - l)).up = true)
    (hc : a.pwr.refclk = true) : cldLaneDown l a = modCldLane l (fun x => { x with up := false, downSeen := true }) a :=
  (if_pos ⟨hl, hu⟩).trans (if_pos (cldCanSend_modCldLane_of_other hl ho hc))

/-! ### Admission (R217) -/

/-- R210, R217: a sound request of an agent that the lane carries comes to check 3 at a unit that is Solo or Active. -/
theorem weirMessage_of_request {m : List Byte} (hu : (sget {} a.weir.lanes l : Lane).up = true) (hc : a.pwr.refclk = true)
    (hcrc : crcOk m = true) (ht : fld m 0 1 = 1) (hm : fld m 1 1 = n) (hn : n < a.part.ports) (hl : laneOf a.part n = l)
    (hr : roleLit a.sys.role = true) : weirMessage l m a = admitMsg n m a := by
  unfold weirMessage
  rw [if_neg (by rw [hu, hc]; decide)]
  dsimp only
  rw [hm, if_neg (by simp [hcrc, ht, hl, Nat.not_le.mpr hn]), if_neg (not_not.mpr ht), if_neg (by simp [hr])]

/-- Counting an event leaves the timebase alone. -/
@[simp] theorem countBy_tb (e : Nat) (inc : Pmon → Nat) (s : State) : (countBy e inc s).tb = s.tb := by
  unfold countBy
  split
  · rfl
  · exact foldl_keeps State.tb (fun u (_ : Nat) => ev 302 u) (fun _ _ => rfl) _ _

/-- R217, R219, R220: a request that passes checks 3 to 7 takes its meter's tokens and is queued. -/
theorem admitMsg_of_passed {m : List Byte} : let k := 8 * n + fld m 2 1 % 8
    let u := count 0x0205 1 a
    let b := countedLen (wportOf u n) (fld m 4 3)
    let x := (wqueueOf u k).meter a.tb.now (bits (fld m 2 1) 4 3) b
    requestOk m = true → scheduled u n = true → b ≤ (wportOf u n).maxFit → x.1 ≠ 2 →
    x.2.reqs.length < (if x.1 = 0 then 32 else x.2.yelMax.toNat) →
    admitMsg n m a = enqueue n k ⟨fld m 4 3, BitVec.ofNat 16 (fld m 8 2), x.1⟩ (modWQueue k (fun _ => x.2) u) := by
  intro k u b x hq hs hb hx hf
  unfold admitMsg
  dsimp only
  rw [countBy_tb, if_neg (by simp [hq]), if_neg (by simpa using hs), if_neg (Nat.not_lt.mpr hb), if_neg hx, if_neg (Nat.not_le.mpr hf)]

/-! ### Grants and time messages (R212, R223) -/

/-- R223: the first interval that takes the head of a queue decides queue and launch. -/
theorem weirDecide_of_fit {t : Time} {k : Nat} (hn : n < a.part.ports) (hr : sluiceRuns a = true) (hs : scheduled a n = true)
    (hv : (slcDom a (domOf a.fab n)).state ≠ .suspended) (hq : readyQueues a n ≠ []) : let v := wportOf a n
    let t0 := max v.nextFree (max (a.tb.now + ns v.glead.toNat) (v.shapedAt a.tb.now))
    firstIv a n t0 (grantIn a n t0) = some (t, k) → weirDecide n a = grantAt n k t a := by
  intro v t0 hf
  unfold weirDecide
  dsimp only
  rw [if_pos (by simp [hn, hr, hs, hv, hq]), hf]

theorem weirTime_of_enabled (hl : l < 8) (he : a.weir.laneEn.getLsbD l = true) (ha : awake a = true) (hc : a.pwr.refclk = true) :
    weirTime l a = { a with out := a.out ++ [.weirTx l (timeMsg a l)] } :=
  (if_pos ⟨hl, by simpa using ha⟩).trans (if_pos (by rw [he, hc]; rfl))

end

/-- Settles O39, happening by happening. -/
theorem lanesAndGrantsComplete : Obligations.LanesAndGrantsComplete := fun _ _ _ _ _ ha =>
  ⟨fun hl he hc => live_next_of_effect ha (weirLaneUp_of_enabled hl he ha hc),
    fun hl he hc => live_next_of_effect ha (cldLaneUp_of_enabled hl he hc),
    fun hu => live_next_of_effect ha (weirLaneDown_of_up hu),
    fun hl hu ho hc => live_next_of_effect ha (cldLaneDown_of_other hl hu ho hc),
    fun hu hc hcrc ht hm hn hl hr hq hs hb hx hf => live_next_of_effect ha
      ((weirMessage_of_request hu hc hcrc ht hm hn hl hr).trans (admitMsg_of_passed hq hs hb hx hf)),
    fun _ _ hn hr hs hv hq hf => live_next_of_effect ha (weirDecide_of_fit hn hr hs hv hq hf),
    fun hl he hc => live_next_of_effect ha (weirTime_of_enabled hl he ha hc)⟩

end Sys2Proof.Machine
end

section
/-! SUPPORT. A unit without a partner (R237, R431), the pair commands (R234, R249, R259, R302, R303) and the change of roles (R236 to R238,
R248 to R252, R259). -/

namespace Sys2Proof.Machine

/-! ### Solo -/

/-- R237, R431: the rule makes a unit Solo or begins its promotion, but where a partner or a promotion keeps it from that. -/
theorem soloInv_soloRule (s : State) : soloInv (soloRule s) = true := by
  unfold soloRule
  split
  case isTrue hkept =>
    simp only [soloInv, Bool.or_assoc] at hkept ⊢
    rw [hkept, Bool.or_true]
  case isFalse =>
    split
    case isTrue => simp [soloInv]
    case isFalse => simp [soloInv]

/-- Closed valves are no matter of whether a unit is Solo. -/
theorem soloInv_blockValves (s : State) : soloInv (blockValves s) = soloInv s :=
  foldl_keeps soloInv (fun s n => writeValve n false s) (fun _ _ => rfl) _ s

/-- R237, R431: the rules leave no unit without a partner in another role. -/
theorem soloInv_rules (s : State) : soloInv (rules s) = true := by
  rw [← soloInv_soloRule (settleDegraded (answerMode s))]
  unfold rules
  dsimp only
  split
  · rfl
  · exact soloInv_blockValves _

/-- Settles O57: of Reset the rule says nothing, and elsewhere the rules end with the rule on Solo, which closed valves leave alone. -/
theorem stepKeepsSolo : Obligations.StepKeepsSolo := fun _ _ =>
  step_keeps (inv := soloInv) (fun s h => by simp [soloInv, h]) soloInv_rules fun _ _ h =>
    have ⟨_, _, hsolo⟩ := inv_ruled h
    hsolo

/-! ### The pair commands -/

/-- With both lanes enabled none goes down (*Table — CLD_CTRL*). -/
theorem setCldCtrl_both (g : BitVec 12) (s : State) :
    setCldCtrl g 3 s = { s with cld := { s.cld with bbm := g, laneEn := 3 } } := rfl

section
variable {dt slot : Nat} {c : SlotCmd} {p : List Byte} {s : State}

/-- The gap and both lanes are set (*Table — CLD_CTRL*). -/
theorem pairSet_both_next (hd : due (begun dt s) slot 0x0800 c p = true) (hm : inRun (begun dt s).sys.mode = true) (hp : p.length = 4)
    (hz : fld p 3 1 = 0) (hl : fld p 2 1 = 3) (hlo : 1000 ≤ fld p 0 2) (hhi : fld p 0 2 ≤ 2500) : let a := begun dt s
    exec (.pairSet dt slot) s = .next (after a (finish c 0 []
      { a with cld := { a.cld with bbm := BitVec.ofNat 12 (fld p 0 2), laneEn := 3 } })) :=
  hostCmd_next_of_effect hd hm rfl rfl (by simp [hp, rsvd, hz, hl, Nat.not_lt.mpr hlo, Nat.not_lt.mpr hhi])
    (congrArg (finish c 0 []) (by rw [hl]; exact setCldCtrl_both _ _))

/-- The registers are read as they stand, and the W1C bits named are cleared (*Table — CLD_STATUS*). -/
theorem pairRead_next (hd : due (begun dt s) slot 0x0801 c p = true) (hm : inRun (begun dt s).sys.mode = true) (hp : p.length = 4)
    (hw : BitVec.ofNat 32 (fld p 0 4) &&& ~~~cldW1c = 0) : let a := begun dt s
    exec (.pairRead dt slot) s = .next (after a (finish c 0
      (wordBytes [cldStatusWord a, a.cld.seqTx, a.cld.seqAck, 0] ++
        (if a.cld.partnerSeen then heartbeatBytes a.cld.partner else zeros 16) ++ le 32 a.pair.held.toNat)
      (clearCld (BitVec.ofNat 32 (fld p 0 4)) a))) :=
  hostCmd_next hd hm rfl rfl (by
    simp only [List.forall_mem_cons, hw]
    simp [hp])

/-- R249, R302: the promotion begins at the command's acceptance, and the command waits for its end. -/
theorem promote_next (hd : due (begun dt s) slot 0x0802 c [0, 0, 0, 0] = true) (hm : mayPromote (begun dt s).sys.mode = true)
    (hr : (begun dt s).sys.role = .standby) (he : eligible (begun dt s).sys = true) (hi : roleIn (begun dt s) = false)
    (hn : (begun dt s).pair.promo = none) : let a := begun dt s
    exec (.promote dt slot) s = .next (after a (hold c { a with pair := { a.pair with
      promo := some { tRec := c.acc, tProm := c.acc + bbm a, slot := some slot, report := true } } })) := by
  have hz : rsvd [0#8, 0#8, 0#8, 0#8] 0 4 = false := by decide
  refine hostCmd_next_of_effect hd hm rfl (by simp [hr]) (by simp [hz, he, hi]) (congrArg (hold c) ?_)
  rw [if_neg (by simp [hn])]
  rfl

/-- R259, R303: the blackout is handed to the Weir at once, and the command is deferred to the release. -/
theorem exchange_next (hd : due (begun dt s) slot 0x0803 c p = true) (hm : inService (begun dt s).sys.mode = true)
    (hr : (begun dt s).sys.role = .active) (hp : p.length = 16) (hz : fld p 12 4 = 0) (ht : timeOk p 0 = true)
    (hlo : (begun dt s).tb.now + ns 100000 ≤ timeOf p 0) (hhi : timeOf p 0 ≤ (begun dt s).tb.now + 10 * sec)
    (hn : noDefer (begun dt s) = false) (hx : exchangeRefused (begun dt s) (timeOf p 0) = none) : let a := begun dt s
    let t := timeOf p 0
    let w : Weir := { a.weir with blackouts := a.weir.blackouts ++ [⟨t, t + ns 3000, mapOf 256 (List.range a.part.ports)⟩] }
    let b := { a with weir := w }
    exec (.exchange dt slot) s = .next (after a (deferCmd c { b with pair := { b.pair with exch := some ⟨t, slot⟩ } })) := by
  intro a t w b
  refine hostCmd_next_of_effect hd hm rfl (by simp [hr])
    (by simp [hp, rsvd, hz, ht, hn, Nat.not_lt.mpr hlo, Nat.not_lt.mpr hhi]) ?_
  dsimp only
  rw [hx]
  rfl

end

/-- Settles O43, command by command. -/
theorem pairCommandsComplete : Obligations.PairCommandsComplete := fun _ _ _ _ _ =>
  ⟨pairSet_both_next, pairRead_next, promote_next, exchange_next⟩

/-! ### The role lines (R236 to R238) -/

/-- R249: a promotion abandoned leaves all but its own record and its command's slot as it was. -/
theorem abandonPromotion_only (s : State) : OnlyMbx { s with pair := { s.pair with promo := none } } (abandonPromotion s) := by
  unfold abandonPromotion
  split
  case h_1 p hp =>
    dsimp only
    split
    case h_1 k _ => exact failSlot_only _ _ _
    case h_2 => exact .refl _
  case h_2 hp =>
    have hs : { s with pair := { s.pair with promo := none } } = s := by rw [← hp]
    rw [hs]
    exact .refl s

section
variable {a : State}

/-- R237: where no Standby finds its partner present, a rise of ROLE_IN is noted and ends a promotion. -/
theorem roleInChange_of_unseen (ha : awake a = true) (hs : a.cld.asserted = false)
    (hn : ¬(a.sys.role = .standby ∧ a.cld.present = true)) :
    let b := abandonPromotion { a with cld := { a.cld with roleInA := true, roleInB := true } }
    roleInChange true true a = { b with cld := { b.cld with asserted := true } } := by
  intro b
  have hb := abandonPromotion_only { a with cld := { a.cld with roleInA := true, roleInB := true } }
  have hcld : b.cld = { a.cld with roleInA := true, roleInB := true } := hb.cld
  have hsys : b.sys = a.sys := hb.sys
  have hseen : b.cld.asserted = false := by rw [hcld]; exact hs
  have hm : a.sys.mode ≠ .reset := (awake_iff a).mp ha
  refine (if_pos (by simp [withCld, hm])).trans ((if_neg (ne_true_of_eq_false hseen)).trans (if_neg ?_))
  change ¬(decide (b.sys.role = .standby) && b.cld.present) = true
  rw [hsys, hcld]
  simpa using hn

/-- R236, R249: an eligible Standby that has seen the role asserted takes over at its release. -/
theorem roleInReleased_of_eligible (hs : a.cld.asserted = true) (hA : a.cld.roleInA = false) (hB : a.cld.roleInB = false)
    (he : eligible a.sys = true) (hb : a.cld.armedBy = true) (hn : a.pair.promo = none) :
    roleInReleased a = { a with
      cld := { a.cld with asserted := false }
      pair := { a.pair with promo := some { tRec := a.tb.now, tProm := a.tb.now + bbm a } } } :=
  (if_pos (by simp [hs, hA, hB])).trans (if_pos (by simp [withCld, he, hb, hn]))

theorem roleSplits_of_ne (h : a.cld.roleInA ≠ a.cld.roleInB) :
    roleSplits a = raise 179 { a with cld := { a.cld with roleSplit := true } } := if_pos (bne_iff_ne.mpr h)

/-- R237: a Solo unit whose partner appears becomes Active in service, and Standby in any other mode. -/
theorem presentInChange_of_solo (ha : awake a = true) (hp : a.cld.present = false) (hr : a.sys.role = .solo) :
    presentInChange true a = { a with
      cld := { a.cld with present := true }
      sys := { a.sys with role := if inService a.sys.mode then .active else .standby } } := by
  have hm : a.sys.mode ≠ .reset := (awake_iff a).mp ha
  refine (if_pos (by simp [withCld, hm, hp, hr])).trans ?_
  by_cases hs : inService a.sys.mode = true
  case pos => exact (if_pos hs).trans (by rw [if_pos hs]; rfl)
  case neg => exact (if_neg hs).trans (by rw [if_neg hs]; rfl)

theorem presentFaulty_of_asserted (hp : a.cld.present = false) (hi : roleIn a = true) (hr : a.sys.role = .standby ∨ a.sys.role = .resync) :
    presentFaulty a = raise 179 { a with cld := { a.cld with presentFault := true } } := if_pos (by simp [hp, hi, hr])

/-- R238: side A keeps its role against a partner that asserts it too. -/
theorem dualActiveSeen_of_sideA (hr : a.sys.role = .active) (hi : roleIn a = true) (hside : a.sys.sideB = false) :
    dualActiveSeen a = raise 182 { a with cld := { a.cld with dualActive := true } } := by
  have hkept := kept_raise 182 { a with cld := { a.cld with dualActive := true } }
  have hsideA : (raise 182 { a with cld := { a.cld with dualActive := true } }).sys.sideB = false :=
    (congrArg (fun u : State => u.sys.sideB) hkept).trans hside
  exact (if_pos (by simp [hr, hi])).trans (if_neg (ne_true_of_eq_false hsideA))

/-! ### Promotion, its report and an exchange's release (R249 to R252, R259) -/

theorem promote_of_eligible {x : Promo} (hx : a.pair.promo = some x) (he : eligible (reach x.tProm a).sys = true)
    (hi : roleIn (reach x.tProm a) = false) : promote a = takeOver x (reach x.tProm a) := by
  unfold promote
  rw [hx]
  exact if_pos (by rw [he, hi]; rfl)

/-- R252: the report of a takeover that no PROMOTE ordered is a notification alone. -/
theorem reportTakeover_of_unordered {report : List Byte} (hf : fwLive a = true) (ht : a.pair.takeover = some (none, report)) :
    reportTakeover a = notifyAt a.tb.now 4 {} false report { a with pair := { a.pair with takeover := none } } := by
  unfold reportTakeover
  rw [if_pos hf, ht]
  rfl

/-- R259, R303: the role is released at its instant, and the command that ordered it is answered with that instant. -/
theorem exchangeRelease_of_ordered {e : Exch} {k : SlotCmd} (hr : a.sys.role = .active) (he : a.pair.exch = some e) :
    let b := sendDue { reach e.tX a with pair := { (reach e.tX a).pair with exch := none } }
    deferredCmd b 0x0803 = some k → exchangeRelease a = releaseRole (finish k 0 (timeBytes b.tb.now) b) := by
  intro b hk
  have hb : sendDue (withPair (fun p => { p with exch := none }) (reach e.tX a)) = b := rfl
  unfold exchangeRelease
  rw [if_pos hr, he]
  dsimp only
  rw [hb, hk]

end

/-- Settles O44, happening by happening. -/
theorem rolesComplete : Obligations.RolesComplete := by
  intro dt x e k rep s a a0 ha
  exact ⟨fun hs hn => run_next (roleInChange_of_unseen ha hs hn),
    fun hs hA hB he hb hn => live_next_of_effect ha (roleInReleased_of_eligible hs hA hB he hb hn),
    fun h => live_next_of_effect ha (roleSplits_of_ne h),
    fun hp hr => run_next (presentInChange_of_solo ha hp hr),
    fun hp hi hr => live_next_of_effect ha (presentFaulty_of_asserted hp hi hr),
    fun hr hi hside => live_next_of_effect ha (dualActiveSeen_of_sideA hr hi hside),
    fun hm hx he hi => live_next_of_effect ((awake_iff a0).mpr hm) (promote_of_eligible hx he hi),
    fun hf ht => live_next_of_effect ha (reportTakeover_of_unordered hf ht),
    fun hm hr he hk => live_next_of_effect ((awake_iff a0).mpr hm) (exchangeRelease_of_ordered hr he hk)⟩

end Sys2Proof.Machine
end

section
/-! SUPPORT. The Cladal link (R239 to R243, R246, R253 to R256): what a unit sends, what it drops, and what a sound message does. -/

namespace Sys2Proof.Machine

section
variable {a : State} {lane : Nat} {m : List Byte}

/-! ### Sending (R240 to R242) -/

/-- One message on each of some lanes. -/
theorem forEach_emitCld (x : CldMsg) (l : List Nat) (s : State) : (forEach l s fun s n => emitCld n x s) =
    { s with out := s.out ++ l.map fun n => .cldTx n x (cldBytes s.part x) } := by
  induction l generalizing s with
  | nil => rw [List.map_nil, List.append_nil]; rfl
  | cons n l ih =>
    rw [forEach, List.foldl_cons, ← forEach, ih, List.map_cons]
    simp [emitCld, emit]

/-- R240: a heartbeat leaves on each lane that is up. -/
theorem sendHeartbeat_of_canSend (hc : cldCanSend a = true) : let x := CldMsg.heartbeat a.cld.hbCount (heartbeatOf a)
    let lanes := (if a.cld.lane0.up then [0] else []) ++ (if a.cld.lane1.up then [1] else [])
    sendHeartbeat a = { a with
      out := a.out ++ lanes.map fun n => .cldTx n x (cldBytes a.part x), cld := { a.cld with hbCount := satInc a.cld.hbCount } } := by
  intro x lanes
  unfold sendHeartbeat
  rw [if_neg (by simp [hc]), forEach_emitCld]
  rfl

/-- R240, R253: a link that goes down leaves a Standby with a stale mirror. -/
theorem linkFalls_of_up (hu : a.cld.linkUp = true) (hc : a.pwr.refclk = true) : linkFalls a =
    raise 181 (ev 289 { a with cld := { a.cld with
      linkUp := false, hbLost := true, mirrorStale := a.cld.mirrorStale || decide (a.sys.role = .standby) } }) :=
  if_pos (by rw [hu, hc]; rfl)

section
variable (hr : a.sys.role = .active) (hp : a.cld.pairMis = false) (hc : a.pwr.refclk = true)
include hr hp hc

theorem mirrorSend_of_outbox {i : Item} {l : List Item} (ho : a.pair.outbox = i :: l) :
    mirrorSend a = sendItem (fun q j => .mirror q j i) i { a with pair := { a.pair with outbox := l } } := by
  unfold mirrorSend
  rw [if_neg (by simp [hr, hp, hc]), ho]
  rfl

/-- R255: behind the mirror items, an item of the resync goes out as it then stands. -/
theorem mirrorSend_of_resync {k : ItemKey} {rest : List ItemKey} (ho : a.pair.outbox = []) (hs : a.pair.resyncOut = k :: rest)
    (hu : a.cld.linkUp = true) : mirrorSend a =
    sendItem (fun q j => .resync q j (itemOf a k)) (itemOf a k) { a with pair := { a.pair with resyncOut := rest } } := by
  unfold mirrorSend
  rw [if_neg (by simp [hr, hp, hc]), ho, hs]
  exact if_pos hu

end

/-! ### Messages received (R239) -/

section
variable (hu : (cldLane a lane).up = true) (hc : a.pwr.refclk = true)
include hu hc

/-- A message that fails a check is dropped and counted, whatever its type. -/
theorem received_of_bad (hb : cldBad m = true) (type : Nat) (f : State → State) :
    received lane type m f a = { a with cld := { a.cld with badMsg := satInc a.cld.badMsg } } := by
  unfold received
  rw [if_neg (by simp [hu, hc]), if_pos hb]
  rfl

theorem received_of_sound {type : Nat} (hb : cldBad m = false) (ht : fld m 0 1 = type) (f : State → State) :
    received lane type m f a = f a := by
  unfold received
  rw [if_neg (by simp [hu, hc]), if_neg (ne_true_of_eq_false hb), if_pos ht]

end

theorem itemBad_none : itemBad m none = false := rfl

theorem itemBad_of_code {i : Item} (h : itemCode i = fld m 2 2) : itemBad m (some i) = false := by simp [itemBad, h]

/-! ### Heartbeats (R234, R240) -/

theorem caughtUp_of_fresh (h : a.cld.mirrorStale = false) : caughtUp a = a := if_neg (by simp [h])

/-- R234: a heartbeat of a partner with the same settings, on a link that stays up. -/
theorem hearHeartbeat_of_like {h : Heartbeat} (hu : a.cld.linkUp = true) (hs : a.cld.mirrorStale = false) (hr : a.sys.role ≠ .active)
    (hg : h.gap = a.jets.gap.toNat) (hrate : h.rate = a.jets.rate.toNat) (hp : h.part = a.part) :
    let b := { a with cld := { a.cld with partner := h, partnerSeen := true, settingMis := false, pairMis := false } }
    hearHeartbeat h a = setLevel 183 false b := by
  intro b
  have hset : decide (h.gap ≠ a.jets.gap.toNat ∨ h.rate ≠ a.jets.rate.toNat) = false := by simp [hg, hrate]
  have hpart : decide (h.part ≠ a.part) = false := by simp [hp]
  have hb : withCld (fun c =>
      { c with linkUp := true, partner := h, partnerSeen := true, settingMis := false, pairMis := false }) a = b :=
    congrArg (fun up => { b with cld := { b.cld with linkUp := up } }) hu.symm
  have hfresh : caughtUp (setLevel 183 false b) = setLevel 183 false b := caughtUp_of_fresh hs
  unfold hearHeartbeat
  dsimp only
  rw [hset, hpart, hu, hb, Bool.not_true, if_neg Bool.false_ne_true, Bool.or_false, hfresh]
  exact if_neg hr

/-! ### Messages in sequence (R241) -/

theorem inOrder_of_next {q : W32} (hq : q = a.cld.seqAck + 1) (f : State → State) :
    inOrder q f a = caughtUp (f { a with cld := { a.cld with seqAck := q } }) :=
  if_pos (by simp [hq])

/-- R241: a Standby takes the next message of the sequence. -/
theorem hearMsg_of_next {q : W32} (hh : hears a = true) (hr : a.sys.role = .standby) (hq : q = a.cld.seqAck + 1) (f : State → State) :
    hearMsg q f a = caughtUp (f { a with cld := { a.cld with seqAck := q } }) :=
  (if_pos (by simp [hh, hr])).trans (inOrder_of_next hq f)

/-- R241: the messages asked for are all in the store, and go out again, oldest first. -/
theorem resend_of_stored {q : W32} (hr : a.sys.role = .active) (hp : a.cld.pairMis = false) (hc : cldCanSend a = true) :
    let n := (a.cld.seqTx + 1 - q).toNat
    n ≠ 0 → n < 2 ^ 31 → (storedFrom a q).length = n →
      resend q a = forEach (storedFrom a q).reverse a fun s x => sendOn x s := by
  intro n hn hlt hl
  refine (if_neg ?_).trans (if_pos hl)
  simp only [hr, hp, hc, ne_eq, not_true, Bool.not_true, Bool.false_eq_true, false_or]
  exact not_or.mpr ⟨hn, Nat.not_le.mpr hlt⟩

/-! ### Resync (R255, R256) -/

section
variable {i : Item} {final : Bool} (hh : hears a = true)
include hh

/-- R255: DOMAINS begins the resync, and what was mirrored before is dropped. -/
theorem hearResync_of_first (hr : a.sys.role = .resync) (hi : fld m 2 2 = 1) (hm : mayPromote a.sys.mode = true) : let b := forgetMirrored a
    hearResync m (some i) final a = applyItem i { b with
      cld := { b.cld with seqAck := seqOf m }, pair := { b.pair with resyncSeen := true, resyncDone := false } } := by
  unfold hearResync
  rw [if_neg (by simp [hh]), if_pos hi, if_neg (by simp [hm]), if_pos hr]
  rfl

/-- R255: behind it items count in sequence, and the last one ends them. -/
theorem hearResync_of_next (hi : fld m 2 2 ≠ 1) (hs : a.pair.resyncSeen = true) (hq : seqOf m = a.cld.seqAck + 1) :
    let b := applyItem i { a with cld := { a.cld with seqAck := seqOf m } }
    hearResync m (some i) final a = caughtUp { b with pair := { b.pair with resyncDone := b.pair.resyncDone || final } } := by
  unfold hearResync
  rw [if_neg (by simp [hh]), if_neg hi, if_pos (.inr hs)]
  exact inOrder_of_next hq _

end

/-- R256, R434: in Operate and Degraded the unit that leaves Resync is eligible at once. -/
theorem leaveResync_of_resynced (hr : resynced a = true) (hf : fwLive a = true) (hm : mayPromote a.sys.mode = true) :
    leaveResync a = becomeEligible { a with
      sys := { a.sys with role := .standby }, cld := { a.cld with mirrorStale := false } } :=
  (if_pos (by rw [hr, hf]; rfl)).trans (if_pos hm)

end

/-! ### The rows -/

section
variable {dt lane : Nat} {m : List Byte} {s : State} (ha : awake (begun dt s) = true)
  (hu : (cldLane (begun dt s) lane).up = true) (hc : (begun dt s).pwr.refclk = true)
include ha hu hc

/-- A row whose message fails a check. -/
theorem received_bad_next (hb : cldBad m = true) (type : Nat) (f : State → State) : let a := begun dt s
    live dt s (received lane type m f) = .next (after a { a with cld := { a.cld with badMsg := satInc a.cld.badMsg } }) :=
  live_next_of_effect ha (received_of_bad hu hc hb type f)

/-- A row whose message is sound and of the row's type. -/
theorem received_sound_next {type : Nat} {f : State → State} {b : State} (hb : cldBad m = false) (ht : fld m 0 1 = type)
    (hf : f (begun dt s) = b) : live dt s (received lane type m f) = .next (after (begun dt s) b) :=
  live_next_of_effect ha ((received_of_sound hu hc hb ht f).trans hf)

end

section
variable {dt lane : Nat} {m : List Byte} {s : State} (ha : awake (begun dt s) = true)
  (hu : (cldLane (begun dt s) lane).up = true) (hc : (begun dt s).pwr.refclk = true) (hb : cldBad m = false)
include ha hu hc hb

theorem heartbeatRx_next {h : Heartbeat} (ht : fld m 0 1 = 1) (hin : heartbeatIn (m.drop 16) = some h) :
    exec (.heartbeatRx dt ⟨lane, m⟩) s = .next (after (begun dt s) (hearHeartbeat h (begun dt s))) :=
  received_sound_next ha hu hc hb ht (by simp only [hin])

theorem mirrorItemRx_next {item : Option Item} (ht : fld m 0 1 = 2) (hi : itemBad m item = false) :
    exec (.mirrorItemRx dt ⟨lane, m⟩ item) s = .next (after (begun dt s) (hearMsg (seqOf m) (applyPart item) (begun dt s))) :=
  received_sound_next ha hu hc hb ht (if_neg (ne_true_of_eq_false hi))

theorem followRx_next {f : Follow} (ht : fld m 0 1 = 3) (hin : followIn (m.drop 16) = some f) :
    exec (.followRx dt lane m) s =
      .next (after (begun dt s) (hearMsg (seqOf m) (fun s => ev 290 (takeFollow (seqOf m) f s)) (begun dt s))) :=
  received_sound_next ha hu hc hb ht (by simp only [hin])

theorem retransmitRequest_next (ht : fld m 0 1 = 4) (hz : fld m 1 1 = 0) :
    exec (.retransmitRequest dt ⟨lane, m⟩) s = .next (after (begun dt s) (resend (seqOf m) (begun dt s))) :=
  received_sound_next ha hu hc hb ht (if_pos hz)

theorem resyncItemRx_next {item : Option Item} {final : Bool} (ht : fld m 0 1 = 5) (hi : itemBad m item = false) :
    exec (.resyncItemRx dt ⟨lane, m⟩ ⟨item, final⟩) s = .next (after (begun dt s) (hearResync m item final (begun dt s))) :=
  received_sound_next ha hu hc hb ht (if_neg (ne_true_of_eq_false hi))

end

/-- Settles O45, happening by happening. -/
theorem pairMessagesComplete : Obligations.PairMessagesComplete := by
  intro dt lane m h i item final f l k rest s a q heard ha
  refine ⟨fun hc => live_next_of_effect ha (sendHeartbeat_of_canSend hc),
    fun hl hc => live_next_of_effect ha (linkFalls_of_up hl hc),
    fun hr hp hc ho => live_next_of_effect ha (mirrorSend_of_outbox hr hp hc ho),
    fun hr hp hc ho hs hl => live_next_of_effect ha (mirrorSend_of_resync hr hp hc ho hs hl),
    fun hu hc hb => ?bad, fun hu hc hb ht hin hl hs hr hg hrate hp => ?heartbeat, fun hu hc hb ht hh hr hq => ?mirrored,
    fun hu hc hb ht hin hh hr hq => ?follow, fun hu hc hb ht hz hr hp hs hn hlt hl => ?retransmit,
    fun hu hc hb ht hh hr => ?resync, fun hr hf hm => live_next_of_effect ha (leaveResync_of_resynced hr hf hm), live_next ha⟩
  case bad =>
    have hdrop := received_bad_next ha hu hc hb
    exact ⟨hdrop 1 _, hdrop 2 _, hdrop 3 _, hdrop 4 _, hdrop 5 _⟩
  case heartbeat =>
    rw [heartbeatRx_next ha hu hc hb ht hin, hearHeartbeat_of_like hl hs hr hg hrate hp]
  case mirrored =>
    refine ⟨?_, fun hi => ?_⟩
    · rw [mirrorItemRx_next ha hu hc hb ht itemBad_none, hearMsg_of_next hh hr hq]
      rfl
    · rw [mirrorItemRx_next ha hu hc hb ht (itemBad_of_code hi), hearMsg_of_next hh hr hq]
      rfl
  case follow =>
    rw [followRx_next ha hu hc hb ht hin, hearMsg_of_next hh hr hq]
  case retransmit =>
    rw [retransmitRequest_next ha hu hc hb ht hz, resend_of_stored hr hp hs hn hlt hl]
  case resync =>
    refine ⟨fun hi hcode hm => ?_, fun hi hcode hs hq => ?_⟩
    · rw [resyncItemRx_next ha hu hc hb ht (itemBad_of_code (hcode.trans hi.symm)), hearResync_of_first hh hr hi hm]
    · rw [resyncItemRx_next ha hu hc hb ht (itemBad_of_code hcode), hearResync_of_next hh hi hs hq]

end Sys2Proof.Machine
end

section
/-! SUPPORT. The byte memories in canonical form (R261, R306, R308, R372, R377), one lemma per operation: the operations that most commands
share (R268, R273, R275, R309 to R323, R390). -/

namespace Sys2Proof.Machine

/-! ### The six memories -/

/-- The byte memories of a state, each in canonical form. -/
structure MemCanonical (s : State) : Prop where
  window : swf 0 s.mbx.mem
  capture : swf 0 s.plat.capture.mem
  staging : swf 0 s.sec.staging
  sram : swf 0 s.plat.sram
  basin : swf 0 s.plat.basin
  scratch : swf 0 s.pld.scratch

theorem memWf_iff {s : State} : memWf s ↔ MemCanonical s := by
  simp only [memWf, Bool.and_eq_true]
  exact ⟨fun ⟨⟨⟨⟨⟨hw, hc⟩, hf⟩, hs⟩, hb⟩, hp⟩ => ⟨hw, hc, hf, hs, hb, hp⟩,
    fun ⟨hw, hc, hf, hs, hb, hp⟩ => ⟨⟨⟨⟨⟨hw, hc⟩, hf⟩, hs⟩, hb⟩, hp⟩⟩

/-! ### Updates that leave the memories -/

section
variable {part : Part} {pwr : Pwr} {sys : Sys} {mbx : Mbx} {pcie : Pcie} {tap : Tap} {dike : Dike} {jets : Jets} {wells : Sparse Well}
  {dac : Dac} {cal : CalData} {fab : Fab} {tb : Tb} {servo : Servo} {trk : Trk} {slc : Slc} {weir : Weir} {cld : Cld} {pair : PairSt}
  {wear : Sparse Wear} {temp : Temp} {plat : Plat} {pld : Pld} {sec : Sec} {out : List Out} {draws : Nat} {pending : List Instr}
  {s : State}

/-- Whatever an update writes, the memories are as they were where the records that hold them keep them. -/
theorem memWf_mk (hw : mbx.mem = s.mbx.mem) (hc : plat.capture.mem = s.plat.capture.mem) (hs : plat.sram = s.plat.sram)
    (hb : plat.basin = s.plat.basin) (hf : sec.staging = s.sec.staging) (hp : pld.scratch = s.pld.scratch) (h : memWf s) :
    memWf ⟨part, pwr, sys, mbx, pcie, tap, dike, jets, wells, dac, cal, fab, tb, servo, trk, slc, weir, cld, pair, wear, temp, plat, pld,
        sec, out, draws, pending⟩ := by
  simpa only [memWf, hw, hc, hs, hb, hf, hp] using h

theorem memWf_frame (h : memWf s) :
    memWf ⟨part, pwr, sys, s.mbx, pcie, tap, dike, jets, wells, dac, cal, fab, tb, servo, trk, slc, weir, cld, pair, wear, temp, s.plat,
        s.pld, s.sec, out, draws, pending⟩ :=
  memWf_mk rfl rfl rfl rfl rfl rfl h

end

theorem memWf_mbx {m : Mbx} {s : State} (hw : m.mem = s.mbx.mem) (h : memWf s) : memWf { s with mbx := m } :=
  memWf_mk hw rfl rfl rfl rfl rfl h

theorem memWf_plat {p : Plat} {s : State} (hc : p.capture.mem = s.plat.capture.mem) (hs : p.sram = s.plat.sram)
    (hb : p.basin = s.plat.basin)
    (h : memWf s) : memWf { s with plat := p } :=
  memWf_mk rfl hc hs hb rfl rfl h

theorem memWf_sec {c : Sec} {s : State} (hf : c.staging = s.sec.staging) (h : memWf s) : memWf { s with sec := c } :=
  memWf_mk rfl rfl rfl rfl hf rfl h

theorem memWf_pld {p : Pld} {s : State} (hp : p.scratch = s.pld.scratch) (h : memWf s) : memWf { s with pld := p } :=
  memWf_mk rfl rfl rfl rfl rfl hp h

/-! ### The Polder's operations that leave its scratch RAM -/

@[simp] theorem storeCal_scratch (b : Bool) (d : CalData) (p : Pld) : (storeCal b d p).scratch = p.scratch := by
  unfold storeCal
  dsimp only
  split <;> rfl

@[simp] theorem storeWear_scratch (t : Sparse Wear) (p : Pld) : (storeWear t p).scratch = p.scratch := by
  unfold storeWear
  dsimp only
  split <;> rfl

@[simp] theorem storeCond_scratch (c : Nat) (f : BitVec 3 → BitVec 3) (p : Pld) : (storeCond c f p).scratch = p.scratch := by
  unfold storeCond
  split
  · exact storeCal_scratch _ _ _
  · rfl

@[simp] theorem measure_scratch (d : BitVec 256) (p : Pld) : (measure d p).scratch = p.scratch := by
  unfold measure
  split <;> rfl

@[simp] theorem readLc_scratch (p : Pld) : (readLc p).scratch = p.scratch := by
  unfold readLc
  dsimp only
  split <;> rfl

@[simp] theorem writeLc_scratch (l : Lc) (p : Pld) : (writeLc l p).scratch = p.scratch := by
  unfold writeLc
  dsimp only
  split <;> rfl

@[simp] theorem settlePolder_scratch (p : Pld) : (settlePolder p).scratch = p.scratch := by
  unfold settlePolder
  dsimp only
  split <;> split <;> rfl

@[simp] theorem writeSlot_scratch (b : List Byte) (p : Pld) : (writeSlot b p).scratch = p.scratch := by
  unfold writeSlot
  split <;> rfl

@[simp] theorem preferNew_scratch (p : Pld) : (preferNew p).scratch = p.scratch := by
  unfold preferNew
  dsimp only
  split <;> rfl

@[simp] theorem storeImage_scratch (b back : List Byte) (p : Pld) : (storeImage b back p).1.scratch = p.scratch := by
  unfold storeImage
  dsimp only
  split <;> simp

/-! ### Branches, folds and writes -/

theorem memWf_ite {c : Prop} [Decidable c] {a b : State} (ha : memWf a) (hb : memWf b) : memWf (if c then a else b) := by
  split
  · exact ha
  · exact hb

theorem memWf_forEach {α : Type} {l : List α} {f : State → α → State} {s : State} (hf : ∀ s x, memWf s → memWf (f s x))
    (h : memWf s) : memWf (forEach l s f) :=
  List.foldlRecOn (motive := fun s => memWf s = true) _ _ h fun s hs x _ => hf s x hs

theorem memWf_withMbx {f : Mbx → Mbx} {s : State} (hf : swf 0 s.mbx.mem → swf 0 (f s.mbx).mem) (h : memWf s) : memWf (withMbx f s) :=
  memWf_iff.mpr { memWf_iff.mp h with window := hf (memWf_iff.mp h).window }

theorem memWf_withCapture {c : Capture} {s : State} (hc : swf 0 s.plat.capture.mem → swf 0 c.mem) (h : memWf s) :
    memWf { s with plat := { s.plat with capture := c } } :=
  memWf_iff.mpr { memWf_iff.mp h with capture := hc (memWf_iff.mp h).capture }

theorem memWf_withPld {f : Pld → Pld} {s : State} (hf : (f s.pld).scratch = s.pld.scratch) (h : memWf s) : memWf (withPld f s) :=
  memWf_iff.mpr { memWf_iff.mp h with scratch := (congrArg (swf 0) hf).trans (memWf_iff.mp h).scratch }

section
variable {s : State} {n typ code slot status : Nat} {body payload : List Byte} {c : SlotCmd}

theorem memWf_elapse {dt : Nat} (h : memWf s) : memWf (elapse dt s) := memWf_ite h h

theorem memWf_changeCond {c : Nat} {f : BitVec 3 → BitVec 3} (h : memWf s) : memWf (changeCond c f s) :=
  memWf_mk rfl rfl rfl rfl rfl (storeCond_scratch c f s.pld) h

theorem memWf_signal {v : Nat} (h : memWf s) : memWf (signal v s) := memWf_ite h (memWf_ite h h)

theorem memWf_ringPost {typ : Nat} {t : Time} {a : About} {body : List Byte} (h : memWf s) : memWf (ringPost typ t a body s) :=
  memWf_ite (memWf_signal (memWf_withMbx (swf_mwrite _ _) h)) (memWf_withMbx (swf_mwrite _ _) h)

theorem memWf_flushLost (h : memWf s) : memWf (flushLost s) := by
  unfold flushLost
  split
  · exact memWf_ite (memWf_mbx rfl (memWf_ringPost h)) h
  · exact h

theorem memWf_notifyAt {t : Time} {a : About} {deferred : Bool} (h : memWf s) : memWf (notifyAt t typ a deferred body s) :=
  memWf_ite (memWf_ite (memWf_ringPost (memWf_flushLost h)) (memWf_mbx rfl (memWf_flushLost h))) h

theorem memWf_notify (h : memWf s) : memWf (notify typ body s) := memWf_notifyAt h

theorem memWf_respond {n opcode seq status : Nat} {payload : List Byte} (h : memWf s) : memWf (respond n opcode seq status payload s) :=
  memWf_ite (memWf_signal (memWf_withMbx (swf_mwrite _ _) h)) (memWf_withMbx (swf_mwrite _ _) h)

theorem memWf_finish (h : memWf s) : memWf (finish c status payload s) :=
  memWf_ite h (memWf_ite (memWf_notifyAt h) (memWf_ite (memWf_notifyAt (memWf_mbx rfl (memWf_respond h)))
    (memWf_mbx rfl (memWf_respond h))))

theorem memWf_failCmd (h : memWf s) : memWf (failCmd c code s) := memWf_finish h

theorem memWf_deferCmd (h : memWf s) : memWf (deferCmd c s) := memWf_mbx rfl (memWf_respond h)

theorem memWf_finishSlot (h : memWf s) : memWf (finishSlot slot status payload s) := by
  unfold finishSlot
  split
  · exact memWf_finish h
  · exact h

theorem memWf_failSlot (h : memWf s) : memWf (failSlot slot code s) := by
  unfold failSlot
  split
  · exact memWf_failCmd h
  · exact h

theorem memWf_blockValves (h : memWf s) : memWf (blockValves s) := memWf_forEach (fun _ _ h' => h') h

theorem memWf_stopCapture (h : memWf s) : memWf (stopCapture s) := memWf_plat rfl rfl rfl (memWf_ite h h)

theorem memWf_endInjection {status : Nat} (h : memWf s) : memWf (endInjection status s) := by
  unfold endInjection
  extract_lets k _ _ s₁
  have h₁ : memWf s₁ := by
    unfold s₁
    split
    · exact memWf_ite (memWf_finish h) (memWf_failCmd h)
    · exact h
  clear_value k s₁
  cases k with
  | some k => exact memWf_ite (memWf_finishSlot h₁) (memWf_failSlot h₁)
  | none => exact h₁

theorem memWf_checkMade (h : memWf s) : memWf (checkMade n s) := memWf_ite (memWf_ite (memWf_endInjection h) h) h

theorem memWf_leaveMaintenance (h : memWf s) : memWf (leaveMaintenance s) := memWf_endInjection (memWf_frame (memWf_stopCapture h))

theorem memWf_fireAbandoned (h : memWf s) : memWf (fireAbandoned s) := memWf_forEach (fun _ _ h' => memWf_forEach (fun _ _ h'' => h'') h') h

theorem memWf_abandonReconfs (h : memWf s) : memWf (abandonReconfs s) := memWf_frame (memWf_fireAbandoned h)

theorem memWf_notifyInsert {slot : Option Nat} {flags item value : Nat} (h : memWf s) : memWf (notifyInsert slot flags item value s) :=
  memWf_notifyAt h

theorem memWf_stopInserts (h : memWf s) : memWf (stopInserts s) :=
  memWf_frame (memWf_forEach (fun _ _ h' => memWf_ite (memWf_notifyInsert h') h') h)

theorem memWf_abandonCalibration (h : memWf s) : memWf (abandonCalibration s) := memWf_ite h h

theorem memWf_releaseRole (h : memWf s) : memWf (releaseRole s) := by
  unfold releaseRole
  dsimp only
  refine memWf_ite ?_ h
  split
  · exact memWf_failCmd h
  · exact h

theorem memWf_abandonPromotion (h : memWf s) : memWf (abandonPromotion s) := by
  unfold abandonPromotion
  dsimp only
  split
  · split
    · exact memWf_failSlot h
    · exact h
  · exact h

theorem memWf_notifyFault (h : memWf s) : memWf (notifyFault n s) := memWf_notify h

/-- R318, step by step. -/
theorem memWf_enterSafe {n : Nat} (h : memWf s) : memWf (enterSafe n s) := by
  unfold enterSafe
  extract_lets _ _ s₁ _ s₂ _ s₃ s₄ s₅ _ s₆
  have h₁ : memWf s₁ := memWf_frame (memWf_frame (memWf_blockValves (memWf_plat rfl rfl rfl (memWf_frame h))))
  have h₂ : memWf s₂ := memWf_ite (memWf_frame h₁) h₁
  have h₃ : memWf s₃ := memWf_forEach (fun _ _ h' => memWf_finish h') (memWf_stopInserts h₂)
  have h₄ : memWf s₄ := memWf_abandonPromotion (memWf_releaseRole h₃)
  have h₅ : memWf s₅ := memWf_frame (memWf_stopCapture (memWf_frame (memWf_frame (memWf_abandonReconfs h₄))))
  have h₆ : memWf s₆ := memWf_endInjection (memWf_abandonCalibration (memWf_frame h₅))
  exact memWf_forEach (fun _ _ h' => memWf_notifyFault h') (memWf_frame h₆)

theorem memWf_markFailed (h : memWf s) : memWf (markFailed n s) := memWf_ite (memWf_ite h h) (memWf_ite (memWf_ite h h) h)

theorem memWf_react {c : FClass} (h : memWf s) : memWf (react n c s) := by
  unfold react
  extract_lets s₁
  have h₁ : memWf s₁ := memWf_ite h h
  refine memWf_ite h ?_
  split
  · exact h₁
  · exact memWf_ite h₁ h₁
  · exact memWf_ite (memWf_enterSafe h₁) h₁
  · exact memWf_enterSafe h₁

theorem memWf_occur {holds : Bool} (h : memWf s) : memWf (occur n holds s) := by
  unfold occur
  extract_lets _ _ _ _ _ _ _ s₁ _ s₂ _ s₃
  have h₁ : memWf s₁ := memWf_plat rfl rfl rfl (memWf_markFailed h)
  have h₂ : memWf s₂ := memWf_ite (memWf_notifyFault h₁) h₁
  have h₃ : memWf s₃ := memWf_react h₂
  exact memWf_ite h (memWf_ite (memWf_notifyFault h₃) h₃)

theorem memWf_setLevel {level : Bool} (h : memWf s) : memWf (setLevel n level s) := memWf_ite (memWf_ite h (memWf_occur h)) h

theorem memWf_raise (h : memWf s) : memWf (raise n s) := memWf_occur h

theorem memWf_checkNow (h : memWf s) : memWf (checkNow n s) := memWf_ite (memWf_raise (memWf_checkMade h)) h

theorem memWf_closeWindow (h : memWf s) : memWf (closeWindow n s) :=
  memWf_ite (memWf_frame (memWf_ite (memWf_react (memWf_ite (memWf_notifyFault h) h)) (memWf_ite (memWf_notifyFault h) h))) h

/-- Reset clears every one but the window's memory, which stays until the wipe (R390, R396). -/
theorem memWf_intoReset (h : memWf s) : memWf (intoReset s) := memWf_iff.mpr ⟨(memWf_iff.mp h).window, rfl, rfl, rfl, rfl, rfl⟩

theorem memWf_orderedReset (h : memWf s) : memWf (orderedReset s) := by
  unfold orderedReset
  dsimp only
  split
  · exact memWf_ite (memWf_ite h (memWf_intoReset h)) h
  · exact h

theorem memWf_becomeEligible (h : memWf s) : memWf (becomeEligible s) := memWf_ite h (memWf_ite h h)

theorem memWf_enterResync (h : memWf s) : memWf (enterResync s) := memWf_frame (memWf_abandonPromotion h)

theorem memWf_soloRule (h : memWf s) : memWf (soloRule s) := memWf_ite h (memWf_ite h (memWf_frame (memWf_releaseRole h)))

theorem memWf_enterMode {m : Mode} (h : memWf s) : memWf (enterMode m s) := by
  unfold enterMode
  extract_lets _ _ _ s₁ s₂
  have h₁ : memWf s₁ := memWf_ite (memWf_releaseRole h) h
  have h₂ : memWf s₂ := memWf_ite (memWf_abandonPromotion h₁) h₁
  exact memWf_ite (memWf_ite (memWf_enterResync h₂) (memWf_becomeEligible h₂)) h₂

theorem memWf_settleDegraded (h : memWf s) : memWf (settleDegraded s) :=
  memWf_ite h (memWf_ite (memWf_enterMode h) (memWf_ite (memWf_enterMode h) h))

end

end Sys2Proof.Machine
end

section
/-! SUPPORT. The byte memories in canonical form (R261, R306, R308, R372, R377), one lemma per operation: the wells, reconfigurations, the
platform and the Weir (R55 to R74, R125 to R150, R211 to R230, R306, R361 to R371). -/

namespace Sys2Proof.Machine

section
variable {s : State} {c d e k l n w ch inc : Nat} {late level : Bool} {r : Reconf} {mine : TagSt → Bool} {m : List Byte} {v : W32}
  {i : Item} {t : Time}

theorem memWf_roundAvg (h : memWf s) : memWf (roundAvg l s) := memWf_forEach (fun _ _ h' => h') h

theorem memWf_wellSchedWrite (h : memWf s) : memWf (wellSchedWrite w e v late s) := memWf_ite h (memWf_ite h h)

theorem memWf_wellChanWrite (h : memWf s) : memWf (wellChanWrite w ch v late s) := memWf_ite h (memWf_ite (memWf_ite h h) h)

theorem memWf_wellTakeover (h : memWf s) : memWf (wellTakeover w s) := by
  unfold wellTakeover
  dsimp only
  refine memWf_ite ?_ h
  refine memWf_plat rfl rfl rfl ?_
  refine memWf_notify ?_
  refine memWf_mk rfl rfl rfl rfl rfl rfl ?_
  split <;> exact h

theorem memWf_wellFrame {raw : List Nat} (h : memWf s) : memWf (wellFrame w raw s) :=
  memWf_ite (memWf_checkNow (memWf_forEach (fun _ _ h' => h') h)) h

theorem memWf_wellWakeEnd (h : memWf s) : memWf (wellWakeEnd w s) := by
  unfold wellWakeEnd
  split
  · exact memWf_ite h h
  · exact h

theorem memWf_rangeStepDown (h : memWf s) : memWf (rangeStepDown w ch s) := memWf_ite h h

theorem memWf_rangeStepUp (h : memWf s) : memWf (rangeStepUp w ch s) := memWf_ite h h

theorem memWf_wellSliceFail (h : memWf s) : memWf (wellSliceFail w s) := memWf_ite (memWf_raise h) h

theorem memWf_sendOn {m : CldMsg} (h : memWf s) : memWf (sendOn m s) := memWf_ite h h

theorem memWf_sendCld {mk : W32 → CldMsg} (h : memWf s) : memWf (sendCld mk s) := memWf_ite h (memWf_ite (memWf_sendOn h) h)

theorem memWf_sendItem {mk : W32 → Nat → CldMsg} (h : memWf s) : memWf (sendItem mk i s) :=
  memWf_forEach (fun _ _ h' => memWf_sendCld h') h

theorem memWf_mirror (h : memWf s) : memWf (mirror i s) := memWf_ite h h

theorem memWf_cancelExchange (h : memWf s) : memWf (cancelExchange r s) := by
  unfold cancelExchange
  dsimp only
  split
  · refine memWf_ite ?_ h
    split
    · exact memWf_finish h
    · exact h
  · exact h

theorem memWf_sendFollow (h : memWf s) : memWf (sendFollow r s) := memWf_ite (memWf_plat rfl rfl rfl (memWf_sendCld h)) h

theorem memWf_announce (h : memWf s) : memWf (announce r s) :=
  memWf_cancelExchange (memWf_forEach (fun _ _ h' => h') (memWf_frame (memWf_ite h h)))

theorem memWf_placeReconf (h : memWf s) : memWf (placeReconf r s) :=
  memWf_ite (memWf_sendFollow (memWf_ite h h)) (memWf_announce (memWf_sendFollow (memWf_ite h h)))

theorem memWf_arm {lo : Time} {t : Target} (h : memWf s) : memWf (arm lo t s) := memWf_placeReconf h

theorem memWf_seqValves {ports : PortMap} {op : Nat → Bool} (h : memWf s) : memWf (seqValves r ports op s) :=
  memWf_forEach (fun _ _ h' => memWf_ite h' h') h

theorem memWf_jetValve {op : Bool} (h : memWf s) : memWf (jetValve n op s) := memWf_ite h h

theorem memWf_signFlip (h : memWf s) : memWf (signFlip c level s) := memWf_ite h h

theorem memWf_writeLevel (h : memWf s) : memWf (writeLevel c level s) :=
  memWf_ite (memWf_frame (memWf_frame (memWf_signFlip h))) (memWf_frame (memWf_signFlip h))

theorem memWf_darkWrites (h : memWf s) : memWf (darkWrites r s) :=
  memWf_frame (memWf_frame (memWf_frame (memWf_forEach (fun _ _ h' => h') (memWf_frame (memWf_forEach (fun _ _ h' => memWf_writeLevel h')
    h)))))

theorem memWf_fireEntry (h : memWf s) : memWf (fireEntry n s) := memWf_mirror h

theorem memWf_doClose (h : memWf s) : memWf (doClose s) := by
  unfold doClose
  dsimp only
  split
  · exact memWf_forEach (fun _ _ h' => memWf_fireEntry h') (memWf_plat rfl rfl rfl (memWf_frame (memWf_seqValves h)))
  · exact h

theorem memWf_doDark (h : memWf s) : memWf (doDark s) := by
  unfold doDark
  split
  · exact memWf_darkWrites h
  · exact h

theorem memWf_doReadback {mismatch : List Nat} (h : memWf s) : memWf (doReadback mismatch s) := by
  unfold doReadback
  dsimp only
  split
  · exact memWf_ite h (memWf_ite (memWf_checkNow h) (memWf_raise h))
  · exact h

theorem memWf_doOpen (h : memWf s) : memWf (doOpen s) := by
  unfold doOpen
  dsimp only
  split
  · exact memWf_plat rfl rfl rfl (memWf_frame (memWf_frame (memWf_frame (memWf_seqValves h))))
  · exact h

theorem memWf_doDeadline (h : memWf s) : memWf (doDeadline s) := by
  unfold doDeadline
  dsimp only
  split <;> exact h

theorem memWf_countBy {inc : Pmon → Nat} (h : memWf s) : memWf (countBy e inc s) := memWf_ite h (memWf_forEach (fun _ _ h' => h') h)

theorem memWf_countIf {take : Pmon → Bool} (h : memWf s) : memWf (countIf e inc take s) := memWf_countBy h

theorem memWf_count (h : memWf s) : memWf (count e inc s) := memWf_countBy h

theorem memWf_drawCounters (h : memWf s) : memWf (drawCounters s) :=
  memWf_ite h (memWf_forEach (fun _ _ h' => memWf_ite (memWf_ite h' h') h') h)

theorem memWf_countCycles (h : memWf s) : memWf (countCycles s) := memWf_ite h (memWf_countIf (memWf_countIf h))

theorem memWf_tally (h : memWf s) : memWf (tally s) := memWf_drawCounters (memWf_countCycles h)

theorem memWf_countTxn {e : Nat} {x : Txn} (h : memWf s) : memWf (countTxn e x s) := by
  unfold countTxn
  exact memWf_countBy (memWf_plat rfl rfl rfl h)

theorem memWf_tagEnter {slot : Option Nat} {entry : Option (Bool × Nat × Nat)} (h : memWf s) : memWf (tagEnter slot entry s) :=
  memWf_ite (memWf_ite h (memWf_ite (memWf_count h) h)) h

theorem memWf_tagStage (h : memWf s) : memWf (tagStage mine k s) := by
  unfold tagStage
  dsimp only
  split
  · exact memWf_ite (memWf_ite (memWf_plat rfl rfl rfl (memWf_count (memWf_plat rfl rfl rfl (memWf_ite (memWf_count h) h))))
      (memWf_plat rfl rfl rfl (memWf_ite (memWf_count h) h))) h
  · exact h

theorem memWf_tagArm {seq : W32} (h : memWf s) : memWf (tagArm mine seq s) := by
  unfold tagArm
  dsimp only
  split
  · exact memWf_ite (memWf_plat rfl rfl rfl (memWf_tagStage h)) (memWf_tagStage h)
  · exact memWf_tagStage h

theorem memWf_tagDrop (h : memWf s) : memWf (tagDrop mine s) := by
  unfold tagDrop
  dsimp only
  split
  · exact memWf_ite h h
  · exact h

theorem memWf_tagEnd (h : memWf s) : memWf (tagEnd mine s) := memWf_tagDrop h

theorem memWf_captureOne {l : Nat} (h : memWf s) : memWf (captureOne s l) :=
  memWf_ite h (memWf_ite (memWf_stopCapture (memWf_withCapture (swf_mwrite _ _) h)) (memWf_withCapture (swf_mwrite _ _) h))

theorem memWf_captureRound (h : memWf s) : memWf (captureRound s) :=
  memWf_ite h (memWf_ite h (memWf_forEach (fun _ _ h' => memWf_captureOne h') h))

theorem memWf_doTask (h : memWf s) : memWf (doTask n s) :=
  memWf_ite h (memWf_ite h (memWf_ite h (memWf_ite h (memWf_ite (memWf_raise h) (memWf_ite (memWf_ite (memWf_captureRound h) h)
    (memWf_ite (memWf_ite (memWf_stopCapture h) h) (memWf_ite h (memWf_ite h (memWf_ite h h)))))))))

theorem memWf_acceptEv {n : Nat} {t : Time} (h : memWf s) : memWf (acceptEv n t s).1 := by
  unfold acceptEv
  dsimp only
  split <;> exact memWf_count (memWf_plat rfl rfl rfl h)

theorem memWf_activations {lag : Nat} (h : memWf s) : memWf (activations lag s).1 := by
  unfold activations
  refine List.foldlRecOn (motive := fun x : State × List (Nat × Nat) => memWf x.1 = true) _ _ ?_ fun x hx e _ => ?_
  · exact memWf_plat rfl rfl rfl h
  · exact memWf_acceptEv hx

theorem memWf_routeOnce {lag : Nat} (h : memWf s) : memWf (routeOnce lag s) := by
  have ha : memWf { (activations lag s).1 with plat := _ } := memWf_plat rfl rfl rfl (memWf_activations h)
  exact memWf_forEach (fun _ _ h' => memWf_forEach (fun _ _ h'' => memWf_doTask h'') h') (memWf_ite ha (memWf_count ha))

theorem memWf_routeAll {k : Nat} (h : memWf s) : memWf (routeAll k s) := by
  induction k generalizing s with
  | zero => exact h
  | succ k ih => exact memWf_ite h (ih (memWf_routeOnce h))

theorem memWf_notifyCal {about : About} {event : Nat} (h : memWf s) : memWf (notifyCal about d event t s) := memWf_notifyAt h

theorem memWf_weirSend (h : memWf s) : memWf (weirSend l m s) := memWf_ite h h

theorem memWf_discard {q colour reason : Nat} {tag : BitVec 16} (h : memWf s) : memWf (discard n q colour reason tag s) :=
  memWf_frame (memWf_plat rfl rfl rfl (memWf_weirSend h))

theorem memWf_refit {c : Cal} {conns : ConnMap} (h : memWf s) : memWf (refit d c conns s) :=
  memWf_forEach (fun _ _ h' => memWf_forEach (fun _ _ h'' => memWf_ite h'' (memWf_forEach (fun _ _ h'' => memWf_discard h'') h'')) h') h

theorem memWf_clearPort (h : memWf s) : memWf (clearPort n s) := memWf_forEach (fun _ _ h' => memWf_ite h' h') h

theorem memWf_withdraw (h : memWf s) : memWf (withdraw d s) :=
  memWf_forEach (fun _ _ h' => memWf_forEach (fun _ _ h'' => memWf_ite h'' (memWf_forEach (fun _ _ h'' => memWf_discard h'') h'')) h') h

theorem memWf_weirFresh (h : memWf s) : memWf (weirFresh s) := by
  unfold weirFresh
  dsimp only
  refine memWf_forEach (fun _ _ h' => ?_) h
  split
  · exact memWf_refit h'
  · exact h'

theorem memWf_weirLaneDown (h : memWf s) : memWf (weirLaneDown l s) :=
  memWf_ite (memWf_raise (memWf_plat rfl rfl rfl (memWf_frame (memWf_forEach (fun _ _ h' => memWf_clearPort h') h)))) h

theorem memWf_weirLaneUp (h : memWf s) : memWf (weirLaneUp l s) := memWf_ite h h

theorem memWf_admitMsg (h : memWf s) : memWf (admitMsg n m s) := by
  unfold admitMsg
  extract_lets _ _ _ s₁
  have h₁ : memWf s₁ := memWf_count h
  exact memWf_ite (memWf_discard h₁) (memWf_ite (memWf_discard h₁) (memWf_ite (memWf_discard h₁) (memWf_ite (memWf_discard h₁)
    (memWf_ite (memWf_discard h₁) h₁))))

theorem memWf_weirMessage (h : memWf s) : memWf (weirMessage l m s) :=
  memWf_ite h (memWf_ite h (memWf_ite h (memWf_ite h (memWf_admitMsg h))))

theorem memWf_sendGrant {n k : Nat} {t : Time} {r : WReq} {m : List Byte} (h : memWf s) : memWf (sendGrant n k t r m s) := by
  unfold sendGrant
  exact memWf_ite (memWf_weirSend h) (memWf_frame h)

theorem memWf_grantAt (h : memWf s) : memWf (grantAt n k t s) := by
  unfold grantAt
  dsimp only
  split
  · exact h
  · exact memWf_frame (memWf_frame (memWf_count (memWf_sendGrant h)))

theorem memWf_weirDecide (h : memWf s) : memWf (weirDecide n s) := by
  unfold weirDecide
  dsimp only
  refine memWf_ite ?_ h
  split
  · exact memWf_grantAt h
  · exact h

theorem memWf_weirTime (h : memWf s) : memWf (weirTime l s) := memWf_ite (memWf_weirSend h) h

theorem memWf_sendDue (h : memWf s) : memWf (sendDue s) :=
  memWf_ite h (memWf_forEach (fun _ _ h' => memWf_forEach (fun _ _ h'' => memWf_weirSend h'') h') h)

theorem memWf_weirSilence (h : memWf s) : memWf (weirSilence s) := by
  unfold weirSilence
  dsimp only
  refine memWf_ite h ?_
  generalize (s.weir.port.flatMap fun e => e.2.unsent) = back
  induction back with
  | nil => exact memWf_frame h
  | cons m back ih => exact memWf_frame ih

theorem memWf_weirTrim (h : memWf s) : memWf (weirTrim s) := memWf_ite h h

end

end Sys2Proof.Machine
end

section
/-! SUPPORT. The byte memories in canonical form (R261, R306, R308, R372, R377), one lemma per operation: the tracker, the Sluice and what
follows every command (R166 to R175, R185 to R205). -/

namespace Sys2Proof.Machine

section
variable {s : State} {d e k n event : Nat} {a : State} {tracked : Bool} {f : Prep → Bool}

theorem memWf_schedule (h : memWf s) : memWf (schedule n s) := memWf_ite (memWf_ite h (memWf_mirror h)) h

theorem memWf_recompute {t : Nat} (h : memWf s) : memWf (recompute t s) := memWf_forEach (fun _ _ h' => memWf_schedule h') h

theorem memWf_notifyTrain (h : memWf s) : memWf (notifyTrain k event s) := memWf_notify h

theorem memWf_takeTelegram {via : Nat} {stamp : Time} {p : List Byte} (h : memWf s) : memWf (takeTelegram via stamp p s).2 := by
  unfold takeTelegram
  dsimp only
  split
  · split
    · exact memWf_ite (memWf_notifyTrain (memWf_recompute (memWf_mirror (memWf_plat rfl rfl rfl (memWf_frame h)))))
        (memWf_recompute (memWf_mirror (memWf_plat rfl rfl rfl (memWf_frame h))))
    · exact memWf_frame h
  · dsimp only
    split
    · exact memWf_plat rfl rfl rfl (memWf_frame h)
    · exact memWf_plat rfl rfl rfl (memWf_frame h)

theorem memWf_trainStaleNow (h : memWf s) : memWf (trainStaleNow k s) := memWf_ite (memWf_notifyTrain h) h

theorem memWf_postEntry {d : Due} {outcome : Nat} {tClose : Option Time} {seq : W32} (h : memWf s) :
    memWf (postEntry d outcome tClose seq s) :=
  memWf_notify h

theorem memWf_readEntry {w : Nat × Nat × Time} (h : memWf s) : memWf (readEntry tracked d e w s) :=
  memWf_tagStage (memWf_frame (memWf_tagEnter h))

theorem memWf_fillPrep (h : memWf s) : memWf (fillPrep s) := by
  unfold fillPrep
  dsimp only
  refine memWf_ite h ?_
  split
  · exact memWf_readEntry h
  · exact h

theorem memWf_dropPreps (h : memWf s) : memWf (dropPreps f s) := memWf_forEach (fun _ _ h' => memWf_fillPrep h') h

theorem memWf_giveUpPreps (h : memWf s) : memWf (giveUpPreps f s) := memWf_dropPreps (memWf_forEach (fun _ _ h' => memWf_tagEnd h') h)

theorem memWf_dropPrep (h : memWf s) : memWf (dropPrep tracked d e s) := memWf_giveUpPreps h

theorem memWf_donePrep {d : Due} (h : memWf s) : memWf (donePrep d s) := memWf_dropPreps h

theorem memWf_endPrep {d : Due} (h : memWf s) : memWf (endPrep d s) := memWf_tagEnd (memWf_donePrep h)

theorem memWf_setEntryState {st : EState} (h : memWf s) : memWf (setEntryState n st s) := memWf_mirror h

theorem memWf_skipEntry {d : Due} (h : memWf s) : memWf (skipEntry d s) :=
  memWf_plat rfl rfl rfl (memWf_postEntry (memWf_ite (memWf_setEntryState (memWf_frame (memWf_endPrep h))) (memWf_frame (memWf_endPrep h))))

theorem memWf_refuseEntry {d : Due} {r : CfgRec} (h : memWf s) : memWf (refuseEntry d r s) := by
  unfold refuseEntry
  dsimp only
  refine memWf_plat rfl rfl rfl ?_
  refine memWf_postEntry ?_
  refine memWf_ite (memWf_setEntryState (memWf_frame (memWf_endPrep h))) ?_
  split
  · exact memWf_frame (memWf_frame (memWf_endPrep h))
  · exact memWf_frame (memWf_endPrep h)

theorem memWf_countFired (h : memWf s) : memWf (countFired n s) := memWf_ite h (memWf_notify h)

theorem memWf_markArmed {r : Reconf} {d : Due} (h : memWf s) : memWf (markArmed r d s) :=
  memWf_countFired (memWf_tagArm (memWf_ite (memWf_setEntryState (memWf_frame
    (memWf_ite (memWf_frame (memWf_plat rfl rfl rfl (memWf_donePrep h))) (memWf_plat rfl rfl rfl (memWf_donePrep h)))))
    (memWf_frame (memWf_plat rfl rfl rfl (memWf_donePrep h)))))

theorem memWf_armDue {d : Due} (h : memWf s) : memWf (armDue d s) := by
  unfold armDue
  dsimp only
  split
  · exact memWf_forEach (fun _ _ h' => memWf_refuseEntry h') (memWf_forEach (fun _ _ h' => memWf_skipEntry h') h)
  · exact memWf_forEach (fun _ _ h' => memWf_markArmed h') (memWf_placeReconf (memWf_forEach (fun _ _ h' => memWf_refuseEntry h')
      (memWf_forEach (fun _ _ h' => memWf_skipEntry h') h)))

theorem memWf_armSince {t0 : Time} (h : memWf s) : memWf (armSince t0 tracked d e s) := by
  unfold armSince
  refine memWf_ite h ?_
  split
  · exact memWf_ite h (memWf_armDue h)
  · exact h

theorem memWf_entryArmNow (h : memWf s) : memWf (entryArmNow tracked d e s) := memWf_armSince h

theorem memWf_recheckOver (h : memWf s) : memWf (recheckOver s) := memWf_forEach (fun _ _ h' => memWf_armSince h') h

theorem memWf_prepareEntry (h : memWf s) : memWf (prepareEntry tracked d e s) := by
  unfold prepareEntry
  dsimp only
  refine memWf_ite h ?_
  split
  · exact memWf_ite (memWf_frame (memWf_ite h (memWf_raise h))) (memWf_readEntry h)
  · exact h

theorem memWf_startCalendar (h : memWf s) : memWf (startCalendar d s) := by
  unfold startCalendar
  dsimp only
  split
  · exact memWf_notifyCal (memWf_refit h)
  · exact h

theorem memWf_passWindow (h : memWf s) : memWf (passWindow d s) := by
  unfold passWindow
  dsimp only
  split
  · exact memWf_ite h h
  · exact h

theorem memWf_resumeCalendar (h : memWf s) : memWf (resumeCalendar d s) := by
  unfold resumeCalendar
  dsimp only
  split
  · exact memWf_ite (memWf_notifyCal (memWf_forEach (fun _ _ h' => memWf_plat rfl rfl rfl (memWf_postEntry h')) h)) h
  · exact h

theorem memWf_ownPositions (h : memWf s) : memWf (ownPositions s) := memWf_forEach (fun _ _ h' => memWf_ite h' h') h

theorem memWf_sluiceStops (h : memWf s) : memWf (sluiceStops s) :=
  memWf_forEach (fun _ _ h' => memWf_ite (memWf_notifyCal h') (memWf_ite h' h'))
    (memWf_frame (memWf_weirSilence (memWf_forEach (fun _ _ h' => memWf_tagEnd h') h)))

theorem memWf_resumeFrom {t : Time} (h : memWf s) : memWf (resumeFrom t d s) := by
  unfold resumeFrom
  dsimp only
  split
  · exact memWf_ite h h
  · exact h

theorem memWf_sluiceStarts (h : memWf s) : memWf (sluiceStarts s) := memWf_forEach (fun _ _ h' => memWf_resumeFrom h') h

theorem memWf_stopCalendar {about : About} (h : memWf s) : memWf (stopCalendar about d event s) :=
  memWf_notifyCal (memWf_giveUpPreps (memWf_frame (memWf_ite (memWf_withdraw h) h)))

theorem memWf_withdrawWaiting (h : memWf s) : memWf (withdrawWaiting d s) :=
  memWf_ite (memWf_frame (memWf_giveUpPreps (memWf_mirror (memWf_ite (memWf_withdraw h) h)))) h

theorem memWf_takeStop (h : memWf s) : memWf (takeStop d k s) := by
  unfold takeStop
  extract_lets _ s₁ _ s₂
  have h₁ : memWf s₁ := by
    refine memWf_ite (memWf_startCalendar h) ?_
    split
    · exact memWf_ite (memWf_passWindow h) h
    · exact h
  have h₂ : memWf s₂ := memWf_ite (memWf_mirror (memWf_stopCalendar h₁)) h₁
  exact memWf_finishSlot h₂

theorem memWf_takeStops (h : memWf s) : memWf (takeStops s) := by
  unfold takeStops
  refine memWf_forEach (fun _ _ h' => ?_) h
  split
  · exact memWf_ite h' (memWf_takeStop h')
  · exact h'

theorem memWf_tellPositions (h : memWf s) : memWf (tellPositions a s) := memWf_ite h (memWf_mirror h)

theorem memWf_openValves {m : PortMap} (h : memWf s) : memWf (openValves m s) := memWf_forEach (fun _ _ h' => h') h

theorem memWf_answerMode (h : memWf s) : memWf (answerMode s) := by
  unfold answerMode
  dsimp only
  split
  · exact memWf_finishSlot h
  · exact h

theorem memWf_rules (h : memWf s) : memWf (rules s) :=
  memWf_ite (memWf_soloRule (memWf_settleDegraded (memWf_answerMode h)))
    (memWf_blockValves (memWf_soloRule (memWf_settleDegraded (memWf_answerMode h))))

theorem memWf_edgesOfRole (h : memWf s) : memWf (edgesOfRole a s) := by
  unfold edgesOfRole
  extract_lets s₁
  have h₁ : memWf s₁ := memWf_ite (memWf_leaveMaintenance h) h
  exact memWf_ite h₁ (memWf_ite (memWf_ownPositions (memWf_weirFresh h₁)) h₁)

theorem memWf_edgesOfSluice (h : memWf s) : memWf (edgesOfSluice s) :=
  memWf_frame (memWf_ite h (memWf_ite (memWf_sluiceStarts h) (memWf_sluiceStops h)))

theorem memWf_edgesOfPair (h : memWf s) : memWf (edgesOfPair a s) := memWf_ite h h

theorem memWf_edges (h : memWf s) : memWf (edges a s) := memWf_edgesOfPair (memWf_edgesOfSluice (memWf_edgesOfRole (memWf_rules h)))

theorem memWf_safeCounters (h : memWf s) : memWf (safeCounters a s) := memWf_ite h h

theorem memWf_settle (h : memWf s) : memWf (settle a s) :=
  memWf_safeCounters (memWf_edges (memWf_routeAll (memWf_safeCounters (memWf_edges h))))

theorem memWf_tellStatus (h : memWf s) : memWf (tellStatus a s) := memWf_ite h (memWf_notifyAt (memWf_ite (memWf_signal h) h))

theorem memWf_tellFaults (h : memWf s) : memWf (tellFaults a s) := memWf_ite (memWf_ite (memWf_signal h) h) h

theorem memWf_tellPair (h : memWf s) : memWf (tellPair a s) := memWf_ite h h

theorem memWf_trim (h : memWf s) : memWf (trim s) := memWf_weirTrim (memWf_sendDue h)

theorem memWf_tell (h : memWf s) : memWf (tell a s) := memWf_ite (memWf_tellPair (memWf_tellFaults (memWf_tellStatus h))) h

theorem memWf_settled (h : memWf s) : memWf (settled a s) := memWf_settle (memWf_settle (memWf_takeStops h))

theorem memWf_commit (h : memWf s) : memWf (commit a s) :=
  memWf_ite h (memWf_trim (memWf_plat rfl rfl rfl (memWf_tell (memWf_tellPositions (memWf_settled h)))))

theorem memWf_takeIrqs (h : memWf s) : memWf (takeIrqs s) := memWf_ite h h

theorem memWf_begun {dt : Nat} (h : memWf s) : memWf (begun dt s) :=
  memWf_orderedReset (memWf_tally (memWf_sendDue (memWf_elapse (memWf_takeIrqs h))))

theorem memWf_after (h : memWf s) : memWf (after a s) := memWf_frame (memWf_commit h)

end

end Sys2Proof.Machine
end

section
/-! SUPPORT. The byte memories in canonical form (R261, R306, R308, R372, R377), one lemma per operation: the Jets and the reconfiguration
sequence (R91 to R143). -/

namespace Sys2Proof.Machine

section
variable {s : State} {c j l n code : Nat} {v seq : W32} {late : List Nat} {o : DacOut} {tClose : Time}

theorem memWf_putCode (h : memWf s) : memWf (putCode l code s) := memWf_ite h h

theorem memWf_jetWrite (h : memWf s) : memWf (jetWrite l code s) := memWf_ite (memWf_putCode h) h

theorem memWf_setOwn {jet : Bool} (h : memWf s) : memWf (setOwn l jet s) := memWf_ite h h

theorem memWf_lockEvent (h : memWf s) : memWf (lockEvent l s) := memWf_ite h h

theorem memWf_freezeLoop (h : memWf s) : memWf (freezeLoop l s) := memWf_frame (memWf_setOwn (memWf_lockEvent h))

theorem memWf_stopLoop (h : memWf s) : memWf (stopLoop l s) := memWf_frame (memWf_lockEvent h)

theorem memWf_rateStart (h : memWf s) : memWf (rateStart s) := by
  unfold rateStart
  dsimp only
  split <;> exact h

theorem memWf_reheat {cells : CellMap} (h : memWf s) : memWf (reheat cells s) := memWf_forEach (fun _ _ h' => h') h

theorem memWf_liveStop (h : memWf s) : memWf (liveStop s) :=
  memWf_forEach (fun _ _ h' => memWf_ite (memWf_notifyAt h') h') (memWf_forEach (fun _ _ h' => memWf_ite (memWf_notifyAt h') h') h)

theorem memWf_remapB {c : Nat} (h : memWf s) : memWf (remapB c s) := by
  unfold remapB
  extract_lets
  exact memWf_plat rfl rfl rfl (memWf_changeCond (memWf_frame (memWf_frame (memWf_frame (memWf_frame (memWf_frame (memWf_frame
    (memWf_frame (memWf_frame h)))))))))

theorem memWf_notifyHop {up : Bool} {by_ : Option About} (h : memWf s) : memWf (notifyHop l up by_ s) := memWf_notifyAt h

theorem memWf_applyOut {old : Loop} {o : RoundOut} (h : memWf s) : memWf (applyOut l old o s) := by
  unfold applyOut
  extract_lets _ s₁ s₂ s₃ s₄
  have h₁ : memWf s₁ := by
    unfold s₁
    split
    · split
      · exact memWf_putCode h
      · exact memWf_jetWrite h
    · exact h
  have h₂ : memWf s₂ := memWf_ite (memWf_setOwn h₁) h₁
  have h₃ : memWf s₃ := memWf_ite h₂ (memWf_notifyHop h₂)
  have h₄ : memWf s₄ := memWf_ite h₃ h₃
  exact memWf_ite h₄ h₄

theorem memWf_wearRounds (h : memWf s) : memWf (wearRounds s) := memWf_forEach (fun _ _ h' => memWf_ite (memWf_ite h' h') h') h

theorem memWf_judgeAll (h : memWf s) : memWf (judgeAll s) := memWf_forEach (fun _ _ h' => memWf_ite (memWf_tagStage h') h') h

theorem memWf_rewritePorts (h : memWf s) : memWf (rewritePorts j s) :=
  memWf_forEach (fun _ _ h' => memWf_ite (memWf_ite h' h') (memWf_jetValve h')) h

theorem memWf_startRewrites (h : memWf s) : memWf (startRewrites s) := memWf_forEach (fun _ _ h' => memWf_ite (memWf_rewritePorts h') h') h

theorem memWf_jetsRound (h : memWf s) : memWf (jetsRound late s) :=
  memWf_frame (memWf_frame (memWf_judgeAll (memWf_wearRounds (memWf_frame (memWf_forEach (fun _ _ h' => memWf_applyOut h')
    (memWf_frame (memWf_forEach (fun _ _ h' => memWf_remapB h') (memWf_startRewrites
    (memWf_liveStop (memWf_frame (memWf_frame (memWf_frame (memWf_frame (memWf_rateStart h))))))))))))))

theorem memWf_recentreNow {c : SlotCmd} (h : memWf s) : memWf (recentreNow c s) :=
  memWf_ite (memWf_failCmd h) (memWf_finish (memWf_ite h (memWf_notifyHop h)))

theorem memWf_injectedRound (h : memWf s) : memWf (injectedRound s) := memWf_ite (memWf_checkNow h) h

theorem memWf_roundReplies (h : memWf s) : memWf (roundReplies s) := memWf_forEach (fun _ _ h' => memWf_ite (memWf_finish h') h') h

theorem memWf_recentreAll (h : memWf s) : memWf (recentreAll s) := memWf_forEach (fun _ _ h' => memWf_recentreNow h') h

theorem memWf_pairReport (h : memWf s) : memWf (pairReport s) := memWf_ite (memWf_notify h) h

theorem memWf_startRound (h : memWf s) : memWf (startRound late s) :=
  memWf_ite h (memWf_ite (memWf_pairReport h) (memWf_pairReport (memWf_roundReplies
    (memWf_injectedRound (memWf_captureRound (memWf_jetsRound (memWf_recentreAll h)))))))

theorem memWf_skipLimit (h : memWf s) : memWf (skipLimit j s) := memWf_ite (memWf_raise h) h

theorem memWf_skipEnd (h : memWf s) : memWf (skipEnd j s) := memWf_ite h h

theorem memWf_lockLost (h : memWf s) : memWf (lockLost c s) := memWf_ite (memWf_raise h) h

theorem memWf_scanDrift (h : memWf s) : memWf (scanDrift s) := by
  unfold scanDrift
  refine memWf_forEach (fun _ _ h' => ?_) h
  refine memWf_ite ?_ h'
  split
  · exact memWf_ite (memWf_notify h') h'
  · exact h'

theorem memWf_refreshSram (h : memWf s) : memWf (refreshSram s) := memWf_ite h h

theorem memWf_safeFromDesc (h : memWf s) : memWf (safeFromDesc l s) := memWf_ite h h

theorem memWf_takeJet {fresh : Bool} (h : memWf s) : memWf (takeJet j fresh s) :=
  memWf_ite (memWf_plat rfl rfl rfl (memWf_notify (memWf_frame (memWf_forEach (fun _ _ h' => memWf_safeFromDesc
    (memWf_frame (memWf_lockEvent h'))) h)))) h

theorem memWf_modSlot {k : Nat} {f : Loop → Loop} (h : memWf s) : memWf (modSlot j k f s) := by
  unfold modSlot
  dsimp only
  split <;> exact h

theorem memWf_swapWrite {hi : Bool} (h : memWf s) : memWf (swapWrite j hi v s) :=
  memWf_ite h (memWf_ite h (memWf_ite h (memWf_forEach (fun _ _ h' => memWf_modSlot h') h)))

theorem memWf_levelState {level : Bool} (h : memWf s) : memWf (levelState c level s) := memWf_ite h h

theorem memWf_codeHtr (h : memWf s) : memWf (codeHtr n v s) := memWf_ite h h

theorem memWf_lastWritten (h : memWf s) : memWf (lastWritten o v s) := by
  unfold lastWritten
  dsimp only
  split
  · exact memWf_ite h h
  · exact h
  · exact h

theorem memWf_cpuHtr (h : memWf s) : memWf (cpuHtr n v s) := memWf_ite h (memWf_ite (memWf_ite h h) (memWf_ite h (memWf_codeHtr h)))

theorem memWf_cpuPort (h : memWf s) : memWf (cpuPort n v s) := memWf_ite (memWf_ite h h) h

theorem memWf_cpuFlip (h : memWf s) : memWf (cpuFlip c v s) := memWf_ite (memWf_ite h h) (memWf_levelState h)

theorem memWf_dacWriteNow {byJet : Bool} (h : memWf s) : memWf (dacWriteNow o byJet v s) := by
  unfold dacWriteNow
  dsimp only
  refine memWf_ite h ?_
  refine memWf_ite h ?_
  split
  · exact memWf_ite h (memWf_ite (memWf_ite h (memWf_ite (memWf_lastWritten (memWf_codeHtr h)) h)) (memWf_cpuHtr h))
  · exact memWf_ite h (memWf_ite (memWf_ite (memWf_lastWritten h) h) (memWf_cpuPort h))
  · exact memWf_ite h (memWf_ite (memWf_ite h (memWf_ite h (memWf_levelState (memWf_signFlip h)))) (memWf_cpuFlip h))

theorem memWf_rangeEnd (h : memWf s) : memWf (rangeEnd n s) := by
  unfold rangeEnd
  dsimp only
  refine memWf_ite ?_ h
  split
  · exact memWf_finishSlot h
  · exact h

theorem memWf_taggedIn {ph : Phase} {k : Nat} {f : State → State} (hf : ∀ s, memWf s → memWf (f s)) (h : memWf s) :
    memWf (taggedIn ph k f s) := by
  unfold taggedIn
  split
  · exact memWf_tagStage (hf s h)
  · exact hf s h

theorem memWf_postFollowed (h : memWf s) : memWf (postFollowed n tClose seq s) := memWf_postEntry h

theorem memWf_fireFollowed (h : memWf s) : memWf (fireFollowed n tClose seq s) :=
  memWf_ite (memWf_postFollowed (memWf_setEntryState h)) (memWf_frame (memWf_setEntryState h))

theorem memWf_followClosed {r : Reconf} (h : memWf s) : memWf (followClosed r s) := by
  unfold followClosed
  dsimp only
  split
  · exact memWf_forEach (fun _ _ h' => memWf_fireFollowed h') h
  · exact h

theorem memWf_closeNow (h : memWf s) : memWf (closeNow s) := by
  unfold closeNow
  split
  · exact memWf_followClosed (memWf_doClose h)
  · exact h

theorem memWf_darkNow (h : memWf s) : memWf (darkNow s) := by
  unfold darkNow
  split
  · exact memWf_reheat (memWf_doDark h)
  · exact h

end

end Sys2Proof.Machine
end

section
/-! SUPPORT. The byte memories in canonical form (R261, R306, R308, R372, R377), one lemma per operation: host commands as they are served,
the window, power and Boot, wear and temperature (R261 to R279, R329 to R350, R391 to R404). -/

namespace Sys2Proof.Machine

section
variable {s : State} {c off : Nat} {v : W32} {r : Rail} {codes : List (BitVec 14 × BitVec 14)}

theorem memWf_serve {q : Req} {slot : Nat} {effect : SlotCmd → List Byte → State → State}
    (he : ∀ c p s, memWf s → memWf (effect c p s)) (h : memWf s) : memWf (serve q slot effect s) := by
  unfold serve
  refine memWf_ite h ?_
  split
  · dsimp only
    split
    · exact memWf_tagDrop (memWf_failCmd h)
    · exact he _ _ s h
  · exact h

theorem memWf_saveTable {f : Wear → Wear} (h : memWf s) : memWf (saveTable f s) := memWf_ite (memWf_withPld (by simp) h) h

theorem memWf_saveWear (h : memWf s) : memWf (saveWear s) := memWf_saveTable h

theorem memWf_writeMask (h : memWf s) : memWf (writeMask v s) := memWf_forEach (fun _ _ h' => memWf_signal (memWf_ite h' h')) h

theorem memWf_writeCons (h : memWf s) : memWf (writeCons v s) := memWf_ite h (memWf_flushLost h)

theorem memWf_windowWrite (h : memWf s) : memWf (windowWrite off v s) := by
  unfold windowWrite
  refine memWf_frame ?_
  split
  · exact h
  · exact h
  · exact h
  · exact memWf_writeMask h
  · exact memWf_writeCons h
  · exact h

theorem memWf_memoryWrite {off : Nat} {b : Byte} (h : memWf s) : memWf (memoryWrite off b s) := by
  unfold memoryWrite
  split
  · exact memWf_ite h (memWf_withMbx (swf_sset 0 _ _) h)
  · exact h

theorem memWf_memoryWrites {off : Nat} {data : List Byte} (h : memWf s) : memWf (memoryWrites off data s) := by
  induction data generalizing off s with
  | nil => exact h
  | cons b t ih => exact ih (memWf_memoryWrite h)

theorem memWf_refuseAccess (h : memWf s) : memWf (refuseAccess s) := memWf_raise h

theorem memWf_hostWrite {data : List Byte} (h : memWf s) : memWf (hostWrite off data s) :=
  memWf_ite h (memWf_ite (memWf_refuseAccess h) (memWf_ite h (memWf_ite (memWf_ite (memWf_windowWrite h) (memWf_refuseAccess h))
    (memWf_memoryWrites h))))

theorem memWf_spiWrite {off : Nat} {part data : List Byte} (h : memWf s) : memWf (spiWrite off part data s) := by
  induction data generalizing off part s with
  | nil => exact h
  | cons b t ih => exact memWf_ite (memWf_ite (ih (memWf_windowWrite h)) (ih h)) (ih (memWf_memoryWrite h))

theorem memWf_spiRead {n off : Nat} {latch : Option (Nat × W32)} {acc : List Byte} (h : memWf s) :
    memWf (spiRead n off latch acc s).2 := by
  induction n generalizing off latch acc s with
  | zero => exact h
  | succ n ih =>
    unfold spiRead
    dsimp only
    split
    · exact ih (memWf_ite h h)
    · exact ih h

theorem memWf_spiTake {bytes : List Byte} (h : memWf s) : memWf (spiTake bytes s) := by
  unfold spiTake
  dsimp only
  refine memWf_ite h ?_
  split
  · exact memWf_ite (memWf_ite (memWf_spiWrite h) h) (memWf_ite (memWf_ite (memWf_frame (memWf_spiRead h)) h) h)
  · exact h

theorem memWf_readLost (h : memWf s) : memWf (readLost s) := memWf_ite (memWf_refuseAccess h) (memWf_ite h h)

theorem memWf_acceptSlot {n : Nat} (h : memWf s) : memWf (acceptSlot n s) := by
  unfold acceptSlot
  dsimp only
  split
  · exact memWf_respond h
  · exact memWf_ite (memWf_tagEnter h) h

theorem memWf_acceptAll (h : memWf s) : memWf (acceptAll s) := memWf_ite (memWf_forEach (fun _ _ h' => memWf_acceptSlot h') h) h

theorem memWf_startBarrier {slot : Nat} (h : memWf s) : memWf (startBarrier slot s) := by
  unfold startBarrier
  split
  · exact memWf_ite h h
  · exact h

theorem memWf_registerWord (h : memWf s) : memWf (registerWord off v s) :=
  memWf_ite (memWf_refuseAccess h) (memWf_ite (memWf_windowWrite h) h)

theorem memWf_softReset (h : memWf s) : memWf (softReset s) := memWf_ite h (memWf_intoReset h)

theorem memWf_removePower (h : memWf s) : memWf (removePower s) := memWf_frame (memWf_intoReset h)

theorem memWf_applyPower (h : memWf s) : memWf (applyPower s) :=
  memWf_ite h (memWf_iff.mpr { memWf_iff.mp (memWf_intoReset h) with window := rfl })

theorem memWf_tripRail (h : memWf s) : memWf (tripRail r s) := memWf_ite h (memWf_intoReset h)

theorem memWf_goodRail (h : memWf s) : memWf (goodRail r s) := memWf_ite h h

theorem memWf_warnRail (h : memWf s) : memWf (warnRail r s) := memWf_setLevel (memWf_ite h h)

theorem memWf_inRangeRail (h : memWf s) : memWf (inRangeRail r s) := memWf_ite (memWf_setLevel h) h

theorem memWf_resetNLow (h : memWf s) : memWf (resetNLow s) := memWf_ite h (memWf_intoReset h)

theorem memWf_releaseReset {pairSide hostSel : Bool} (h : memWf s) : memWf (releaseReset pairSide hostSel s) :=
  memWf_ite (memWf_ite h (memWf_setLevel h)) h

theorem memWf_restartWatchdog (h : memWf s) : memWf (restartWatchdog s) := memWf_ite h h

theorem memWf_lockPlls (h : memWf s) : memWf (lockPlls s) := memWf_ite h h

theorem memWf_trainBasin (h : memWf s) : memWf (trainBasin s) := memWf_ite h h

theorem memWf_completeWipe (h : memWf s) : memWf (completeWipe s) :=
  memWf_ite (memWf_iff.mpr { memWf_iff.mp h with
    window := rfl, scratch := (congrArg (swf 0) (readLc_scratch s.pld)).trans (memWf_iff.mp h).scratch }) h

theorem memWf_loseRefclk (h : memWf s) : memWf (loseRefclk s) := memWf_ite (memWf_raise (memWf_releaseRole h)) h

theorem memWf_setValves (h : memWf s) : memWf (setValves codes s) := memWf_frame (memWf_forEach (fun _ _ h' => h') h)

theorem memWf_testJet {j : Nat} (h : memWf s) : memWf (testJet j s) := memWf_ite h (memWf_ite (memWf_raise h) h)

theorem memWf_testWell {w : Nat} (h : memWf s) : memWf (testWell w s) := by
  unfold testWell
  extract_lets _ s₁ _ _ _ s₂ s₃
  have h₁ : memWf s₁ := memWf_frame h
  have h₂ : memWf s₂ := memWf_frame (memWf_frame (memWf_frame h₁))
  have h₃ : memWf s₃ := by
    unfold s₃
    split
    · exact memWf_frame h₂
    · exact h₂
  exact memWf_ite (memWf_frame h₁) (memWf_ite (memWf_raise h₁) (memWf_frame h₃))

theorem memWf_startFirmware {img : List Byte} {codes : List (BitVec 14 × BitVec 14)} {jets wells : List Nat} (h : memWf s) :
    memWf (startFirmware img codes jets wells s) := by
  unfold startFirmware
  extract_lets _ _ _ s₁ _ s₂ s₃ s₄ s₅
  have h₁ : memWf s₁ := memWf_mk rfl rfl rfl rfl rfl rfl h
  have h₂ : memWf s₂ := memWf_forEach (fun _ _ h' => memWf_notifyFault h') h₁
  have h₃ : memWf s₃ := memWf_setValves h₂
  have h₄ : memWf s₄ := memWf_forEach (fun _ _ h' => memWf_frame h') h₃
  have h₅ : memWf s₅ := memWf_forEach (fun _ _ h' => memWf_testJet h') h₄
  exact memWf_ite (memWf_enterSafe h₄) (memWf_forEach (fun _ _ h' => memWf_testWell h') h₅)

theorem memWf_handOver {jets wells : List Nat} (h : memWf s) : memWf (handOver codes jets wells s) := by
  unfold handOver
  dsimp only
  refine memWf_ite ?_ h
  split
  · exact memWf_ite (memWf_withPld (by simp) h) h
  · exact memWf_startFirmware (memWf_withPld (by simp) (memWf_ite (memWf_withPld (by simp) h) h))

theorem memWf_startLoop {l : Nat} (h : memWf s) : memWf (startLoop l s) :=
  memWf_ite h (memWf_frame (memWf_roundAvg (memWf_setOwn (memWf_lockEvent h))))

theorem memWf_runJets (h : memWf s) : memWf (runJets s) := memWf_frame (memWf_forEach (fun _ _ h' => memWf_ite h' h') h)

theorem memWf_prepareFabric {band : Option Bool} {c : CalData} (h : memWf s) : memWf (prepareFabric band c s) :=
  memWf_forEach (fun _ _ h' => memWf_startLoop h') (memWf_runJets h)

theorem memWf_loadWear (h : memWf s) : memWf (loadWear s) := by
  unfold loadWear
  dsimp only
  split
  · exact h
  · exact memWf_raise h

theorem memWf_loadStore (h : memWf s) : memWf (loadStore s) := by
  unfold loadStore
  extract_lets s₁ s₂ _ _ s₃
  have h₁ : memWf s₁ := by
    unfold s₁
    split
    · exact memWf_prepareFabric (memWf_withPld (by simp) h)
    · exact memWf_raise (memWf_withPld (by simp) h)
  have h₂ : memWf s₂ := memWf_loadWear h₁
  have h₃ : memWf s₃ := memWf_withPld (by simp) h₂
  exact memWf_ite (memWf_ite (memWf_enterMode (memWf_withPld (by simp) h₃)) h₃) h

theorem memWf_setCaps {v : BitVec 8} (h : memWf s) : memWf (setCaps v s) := memWf_frame (memWf_forEach (fun _ _ h' => h') h)

theorem memWf_throttle {on : Bool} (h : memWf s) : memWf (throttle on s) :=
  memWf_ite h (memWf_ite (memWf_setCaps (memWf_plat rfl rfl rfl (memWf_ite (memWf_stopCapture h) h))) (memWf_setCaps h))

theorem memWf_measureDone {readings : List (BitVec 16)} (h : memWf s) : memWf (measureDone readings s) :=
  memWf_ite h (memWf_forEach (fun _ _ h' => memWf_finishSlot h') (memWf_setLevel
    (memWf_setLevel (memWf_setLevel (memWf_throttle (memWf_plat rfl rfl rfl (memWf_frame (memWf_forEach (fun _ _ h' => h') h))))))))

theorem memWf_notifyWear {event flags item value : Nat} (h : memWf s) : memWf (notifyWear event flags item value s) := memWf_notify h

theorem memWf_wearLimits (h : memWf s) : memWf (wearLimits c s) := by
  unfold wearLimits
  extract_lets _ _ _ _ _ _ _ s₁ s₂
  have h₁ : memWf s₁ := memWf_ite (memWf_raise (memWf_notifyWear h)) h
  have h₂ : memWf s₂ := memWf_ite (memWf_notifyWear h₁) h₁
  exact memWf_ite (memWf_notifyWear h₂) h₂

theorem memWf_foldAll (h : memWf s) : memWf (foldAll s) := memWf_ite (memWf_forEach (fun _ _ h' => memWf_wearLimits h') h) h

theorem memWf_saveHour (h : memWf s) : memWf (saveHour s) := memWf_ite (memWf_saveWear h) h

theorem memWf_predictCell (h : memWf s) : memWf (predictCell c s) := memWf_ite (memWf_notifyWear h) h

theorem memWf_predictAll (h : memWf s) : memWf (predictAll s) := memWf_ite (memWf_forEach (fun _ _ h' => memWf_predictCell h') h) h

theorem memWf_pendingInsert (h : memWf s) : memWf (pendingInsert c s) := memWf_ite h h

theorem memWf_heaterBNow {c : SlotCmd} {cell : Nat} (h : memWf s) : memWf (heaterBNow c cell s) :=
  memWf_ite h (memWf_ite (memWf_failCmd h) (memWf_ite (memWf_ite h h) h))

theorem memWf_heaterBClose (h : memWf s) : memWf (heaterBClose c s) := by
  unfold heaterBClose
  dsimp only
  split
  · exact memWf_ite h (memWf_frame (memWf_forEach (fun _ _ h' => memWf_jetValve h') h))
  · exact h

theorem memWf_heaterBReopen (h : memWf s) : memWf (heaterBReopen c s) := by
  unfold heaterBReopen
  dsimp only
  split
  · exact memWf_ite h (memWf_forEach (fun _ _ h' => memWf_finishSlot h')
      (memWf_notifyInsert (memWf_frame (memWf_ite (memWf_openValves h) h))))
  · exact h

end

end Sys2Proof.Machine
end

section
/-! SUPPORT. The byte memories in canonical form (R261, R306, R308, R372, R377), one lemma per operation: the route engine and the meanings
of host commands (R45 to R54, R136, R137, R206, R287 to R300). -/

namespace Sys2Proof.Machine

section
variable {s : State} {d i k l cell : Nat} {r : Routed} {c : CalData} {slot : Option Nat}

theorem memWf_beginRoute (h : memWf s) : memWf (beginRoute s) := by
  unfold beginRoute
  dsimp only
  split
  · exact memWf_ite h h
  · exact h

theorem memWf_followFails {want : ConnMap} (h : memWf s) : memWf (followFails want s) := memWf_raise h

theorem memWf_rerouteRouted (h : memWf s) : memWf (rerouteRouted r cell slot s) := by
  unfold rerouteRouted
  extract_lets _ s₁ s₂
  have h₁ : memWf s₁ := memWf_notifyAt h
  have h₂ : memWf s₂ := memWf_ite (memWf_raise h₁) h₁
  split
  · exact memWf_finishSlot h₂
  · exact h₂

theorem memWf_completeRoute (h : memWf s) : memWf (completeRoute s) := by
  unfold completeRoute
  dsimp only
  split
  · exact h
  · refine memWf_ite h ?_
    split
    · exact memWf_ite (memWf_tagDrop (memWf_finishSlot h)) (memWf_ite (memWf_tagDrop (memWf_finishSlot h)) (memWf_tagStage h))
    · exact memWf_ite (memWf_finishSlot h) (memWf_finishSlot (memWf_mirror h))
    · exact memWf_rerouteRouted h
    · exact memWf_ite (memWf_frame (memWf_followFails h)) h
    · exact memWf_ite (memWf_followFails h) h
    · exact h

theorem memWf_armFollow {q : W32} {f : Follow} {scope : BitVec 16} {t : Target} (h : memWf s) : memWf (armFollow q f scope t s) := by
  unfold armFollow
  dsimp only
  split
  · exact memWf_followClosed (memWf_frame (memWf_arm h))
  · exact memWf_frame (memWf_arm h)

theorem memWf_reconfOver {r : Reconf} (h : memWf s) : memWf (reconfOver r s) := by
  unfold reconfOver
  extract_lets s₁
  have h₁ : memWf s₁ := memWf_forEach (fun _ _ h' => memWf_fireEntry h') h
  split
  · exact memWf_followClosed h₁
  · exact h₁

theorem memWf_armReroute (h : memWf s) : memWf (armReroute r cell s) :=
  memWf_ite h (memWf_forEach (fun _ _ h' => memWf_tagDrop (memWf_failSlot h')) (memWf_forEach (fun _ _ h' => h')
    (memWf_forEach (fun _ _ h' => memWf_refuseEntry (memWf_tagDrop h')) (memWf_forEach (fun _ _ h' => memWf_reconfOver h')
    (memWf_announce (memWf_frame (memWf_forEach (fun _ _ h' => h') h)))))))

theorem memWf_armRouted (h : memWf s) : memWf (armRouted r s) := by
  unfold armRouted
  dsimp only
  split
  · exact memWf_ite (memWf_ite h (memWf_tagDrop (memWf_failSlot h))) (memWf_tagArm (memWf_arm h))
  · exact memWf_ite (memWf_tagDrop (memWf_failSlot h)) (memWf_ite (memWf_tagDrop (memWf_failSlot h))
      (memWf_ite h (memWf_countFired (memWf_tagArm (memWf_arm h)))))
  · exact memWf_armReroute h
  · exact memWf_ite h (memWf_armFollow h)
  · exact memWf_ite h (memWf_arm h)
  · exact h

theorem memWf_armReady (h : memWf s) : memWf (armReady s) := by
  unfold armReady
  split
  · exact memWf_armRouted h
  · exact h

theorem memWf_cancelInsert {c : Nat} (h : memWf s) : memWf (cancelInsert c s) :=
  memWf_ite (memWf_forEach (fun _ _ h' => memWf_failSlot h') (memWf_notifyAt h)) h

theorem memWf_markCell {c : Nat} {cond : Cond} (h : memWf s) : memWf (markCell c cond slot s) :=
  memWf_ite h (memWf_frame (memWf_raise (memWf_ite (memWf_cancelInsert (memWf_freezeLoop (memWf_forEach (fun _ _ h' => h')
    (memWf_frame (memWf_frame (memWf_changeCond h)))))) (memWf_forEach (fun _ _ h' => h')
    (memWf_frame (memWf_frame (memWf_changeCond h)))))))

theorem memWf_backgroundDone (h : memWf s) : memWf (backgroundDone s) := by
  unfold backgroundDone
  dsimp only
  refine memWf_ite h ?_
  split
  · exact memWf_ite (memWf_notify h) (memWf_notify h)
  · exact h

theorem memWf_reportEntry {r : Reconf} {e : Applied} (h : memWf s) : memWf (reportEntry r s e) := memWf_ite (memWf_postEntry h) h

theorem memWf_answerOrigin {r : Reconf} {bytes : List Byte} (h : memWf s) : memWf (answerOrigin r bytes s) := by
  unfold answerOrigin
  split
  · exact memWf_finishSlot h
  · exact memWf_finishSlot h
  · exact h

theorem memWf_catchUp (h : memWf s) : memWf (catchUp s) := memWf_ite h (memWf_ite h (memWf_ite h h))

theorem memWf_reportReconf {seq : W32} (h : memWf s) : memWf (reportReconf seq s) := by
  unfold reportReconf
  split
  · exact h
  · extract_lets _ _ _ _ s₁ s₂ s₃ s₄ s₅ s₆ s₇ s₈ s₉
    have h₂ : memWf s₂ := memWf_plat rfl rfl rfl (memWf_notifyAt (memWf_frame h))
    have h₃ : memWf s₃ := memWf_ite h₂ (memWf_plat rfl rfl rfl h₂)
    have h₄ : memWf s₄ := memWf_ite h₃ (memWf_plat rfl rfl rfl h₃)
    have h₆ : memWf s₆ := memWf_mirror (memWf_forEach (fun _ _ h' => memWf_reportEntry h') h₄)
    have h₈ : memWf s₈ := memWf_answerOrigin (memWf_frame h₆)
    have h₉ : memWf s₉ := memWf_ite (memWf_catchUp h₈) h₈
    exact memWf_ite (memWf_tagStage h₉) (memWf_ite (memWf_tagDrop (memWf_count h₉)) h₉)

theorem memWf_clearDomain (h : memWf s) : memWf (clearDomain d s) := memWf_forEach (fun _ _ h' => memWf_mirror h') h

theorem memWf_setDomains {m : Domains} (h : memWf s) : memWf (setDomains m s) :=
  memWf_mirror (memWf_forEach (fun _ _ h' => memWf_clearPort h') (memWf_forEach (fun _ _ h' => memWf_clearDomain h') h))

theorem memWf_changeMode (h : memWf s) : memWf (changeMode s) := by
  unfold changeMode
  dsimp only
  split
  · exact memWf_settleDegraded (memWf_enterMode h)
  · exact h

theorem memWf_openEqualisers (h : memWf s) : memWf (openEqualisers s) := memWf_forEach (fun _ _ h' => h') h

theorem memWf_restoreEqualisers (h : memWf s) : memWf (restoreEqualisers s) := memWf_forEach (fun _ _ h' => memWf_ite h' h') h

theorem memWf_cancelOpaque (h : memWf s) : memWf (cancelOpaque s) := memWf_forEach (fun _ _ h' => memWf_cancelInsert h') h

theorem memWf_recalUnits (h : memWf s) : memWf (recalUnits c s) := memWf_runJets h

theorem memWf_putResult {cells : CellMap} (h : memWf s) : memWf (putResult c cells l s) := by
  unfold putResult
  extract_lets s₁ _ _ _ _ _ s₂
  have h₁ : memWf s₁ := memWf_frame (memWf_lockEvent h)
  have h₂ : memWf s₂ := memWf_ite h₁ h₁
  exact memWf_ite (memWf_startLoop h₂) (memWf_startLoop h₁)

theorem memWf_putTouched (h : memWf s) : memWf (putTouched c l s) := memWf_ite (memWf_startLoop h) h

theorem memWf_useResults {ok : Bool} {failed badJets touched : List Nat} {r : CalData} (h : memWf s) :
    memWf (useResults ok failed badJets touched r s) :=
  memWf_cancelOpaque (memWf_restoreEqualisers (memWf_forEach (fun _ _ h' => memWf_putTouched h')
    (memWf_forEach (fun _ _ h' => memWf_putResult h') (memWf_ite (memWf_recalUnits (memWf_forEach (fun _ _ h' => memWf_freezeLoop h') h))
    (memWf_forEach (fun _ _ h' => memWf_freezeLoop h') h)))))

theorem memWf_endCalibration {success : Bool} {failedCells failedJets : List Nat} {r : CalResult} {ms : W32} (h : memWf s) :
    memWf (endCalibration success failedCells failedJets r ms s) := by
  unfold endCalibration
  extract_lets _ _ _ _ _ _ _ _ _ s₁ _ _ _ s₂ s₃
  have h₁ : memWf s₁ := memWf_useResults h
  have h₂ : memWf s₂ := memWf_ite (memWf_withPld (by simp) h₁) h₁
  have h₃ : memWf s₃ := memWf_enterMode h₂
  refine memWf_ite h ?_
  split
  · exact memWf_finish h₃
  · exact h₃

theorem memWf_setParams {p : List Byte} (h : memWf s) : memWf (setParams l p s) := memWf_ite h h

theorem memWf_routeAll6 {l : List Nat} (h : memWf s) : memWf (routeAll6 l s).1 := by
  induction l generalizing s with
  | nil => exact h
  | cons n t ih =>
    unfold routeAll6
    split
    · exact ih h
    · dsimp only
      split
      · exact h
      · exact ih h

theorem memWf_recheckGap {d : Nat} (h : memWf s) : memWf (recheckGap d s) := by
  unfold recheckGap
  extract_lets _ _ _ _ _ _ s₁ _ s₂
  have h₁ : memWf s₁ := memWf_ite (memWf_notifyCal (memWf_frame (memWf_withdrawWaiting h))) h
  have h₂ : memWf s₂ := memWf_notifyCal (memWf_frame (memWf_mirror (memWf_stopCalendar h₁)))
  exact memWf_ite (memWf_ite (memWf_mirror (memWf_frame h₂)) h₂) h₁

theorem memWf_setFits {c : Cal} (h : memWf s) : memWf (setFits d c s) := memWf_forEach (fun _ _ h' => h') h

theorem memWf_commitFailed {f : Failed} (h : memWf s) : memWf (commitFailed f s).2 := h

theorem memWf_recheckAll (h : memWf s) : memWf (recheckAll s) := memWf_forEach (fun _ _ h' => memWf_recheckGap h') h

theorem memWf_acceptCal {about : About} {d : Nat} {c : Cal} (h : memWf s) : memWf (acceptCal about d c s).1 := by
  unfold acceptCal
  dsimp only
  exact memWf_mirror (memWf_ite (memWf_notifyCal (memWf_ite (memWf_setFits h) h)) (memWf_ite (memWf_setFits h) h))

theorem memWf_commitFails {d : Nat} {b : Bool} {f : Failed} (h : memWf s) : memWf (commitFails d b f s).1 :=
  memWf_commitFailed (f := f) (memWf_frame h)

theorem memWf_commitCal {about : About} {d : Nat} (h : memWf s) : memWf (commitCal about d s).1 := by
  unfold commitCal
  extract_lets _ _ _ s₁
  have h₁ : memWf s₁ := memWf_recheckAll (memWf_frame h)
  split
  · exact memWf_commitFails h₁
  · dsimp only
    split
    · exact memWf_commitFails (memWf_frame h₁)
    · exact memWf_acceptCal (memWf_routeAll6 h₁)

theorem memWf_calCommitDone (h : memWf s) : memWf (calCommitDone s) := by
  unfold calCommitDone
  split
  · dsimp only
    split
    · exact memWf_finish (memWf_commitCal (memWf_frame h))
    · exact memWf_commitCal (memWf_frame h)
  · exact h

theorem memWf_pendEntry {n : Nat} (h : memWf s) : memWf (pendEntry n s) :=
  memWf_ite (memWf_dropPrep h) (memWf_mirror (memWf_frame (memWf_dropPrep h)))

theorem memWf_pendEntries {states : List EState} (h : memWf s) : memWf (pendEntries k states s) :=
  memWf_forEach (fun _ _ h' => memWf_pendEntry h') h

theorem memWf_putTrain {t : Train} (h : memWf s) : memWf (putTrain k t s) := memWf_mirror h

theorem memWf_placeStaged (h : memWf s) : memWf (placeStaged s) :=
  memWf_forEach (fun _ _ h' => memWf_frame (memWf_ite (memWf_dropPrep h') h')) h

theorem memWf_commitStaged (h : memWf s) : memWf (commitStaged s).1 :=
  memWf_forEach (fun _ _ h' => memWf_schedule h') (memWf_forEach (fun _ _ h' => memWf_mirror h') (memWf_forEach
    (fun _ _ h' => memWf_mirror h') (memWf_frame (memWf_placeStaged h))))

theorem memWf_entryCommitDone (h : memWf s) : memWf (entryCommitDone s) := by
  unfold entryCommitDone
  dsimp only
  split
  · refine memWf_ite ?_ h
    split
    · exact memWf_finish h
    · exact memWf_finish (memWf_commitStaged h)
  · exact h

theorem memWf_frameArrives {port : Nat} {stamp : Time} {f : Frame} (h : memWf s) : memWf (frameArrives port stamp f s) :=
  memWf_ite h (memWf_ite (memWf_ite (memWf_takeTelegram h) h) h)

theorem memWf_linkFalls (h : memWf s) : memWf (linkFalls s) := memWf_ite (memWf_raise h) h

theorem memWf_cldLaneDown (h : memWf s) : memWf (cldLaneDown i s) := memWf_ite (memWf_ite h (memWf_linkFalls h)) h

theorem memWf_cldLaneUp (h : memWf s) : memWf (cldLaneUp i s) := memWf_ite h h

end

end Sys2Proof.Machine
end

section
/-! SUPPORT. The byte memories in canonical form (R261, R306, R308, R372, R377), one lemma per operation: the timebase, the Cladal link and
the pair (R155 to R165, R232 to R260). -/

namespace Sys2Proof.Machine

section
variable {s : State} {n port event : Nat} {about : About} {off : Int} {stamp : Time} {t : TimeState} {m : PtpMsg} {hb : Heartbeat} {q : W32}
  {item : Option Item}

theorem memWf_notifyTimeOf {a : About} (h : memWf s) : memWf (notifyTimeOf a event s) := memWf_notifyAt h

theorem memWf_notifyTime (h : memWf s) : memWf (notifyTime event s) := memWf_notifyTimeOf h

theorem memWf_holdPps (h : memWf s) : memWf (holdPps s) := memWf_ite h h

theorem memWf_setTsOf (h : memWf s) : memWf (setTsOf about t s) :=
  memWf_ite h (memWf_ite (memWf_raise (memWf_holdPps (memWf_notifyTimeOf h)))
    (memWf_ite (memWf_raise (memWf_holdPps (memWf_notifyTimeOf h))) (memWf_holdPps (memWf_notifyTimeOf h))))

theorem memWf_setTs (h : memWf s) : memWf (setTs t s) := memWf_setTsOf h

theorem memWf_selectSourceOf (h : memWf s) : memWf (selectSourceOf about s) := by
  unfold selectSourceOf
  refine memWf_ite h ?_
  split
  · exact memWf_setTsOf h
  · exact memWf_setTsOf h
  · exact h

theorem memWf_selectSource (h : memWf s) : memWf (selectSource s) := memWf_selectSourceOf h

theorem memWf_loseSource (h : memWf s) : memWf (loseSource s) := by
  unfold loseSource
  split
  · exact memWf_setTs h
  · exact memWf_setTs h
  · exact h

theorem memWf_measureAcquiring (h : memWf s) : memWf (measureAcquiring off s) := memWf_ite (memWf_setTs (memWf_ite h h)) (memWf_ite h h)

theorem memWf_measureLocked (h : memWf s) : memWf (measureLocked off s) :=
  memWf_ite h (memWf_ite h (memWf_ite h (memWf_raise (memWf_notifyTime h))))

theorem memWf_measureOffset (h : memWf s) : memWf (measureOffset off s) := by
  unfold measureOffset
  dsimp only
  split
  · exact memWf_measureAcquiring h
  · exact memWf_measureLocked h
  · exact h

theorem memWf_applyStep (h : memWf s) : memWf (applyStep s) := by
  unfold applyStep
  dsimp only
  split
  · refine memWf_ite ?_ h
    refine memWf_notifyTimeOf ?_
    split
    · exact memWf_finishSlot h
    · exact h
  · exact h

theorem memWf_chooseParentOf (h : memWf s) : memWf (chooseParentOf about s) := by
  unfold chooseParentOf
  dsimp only
  split
  · exact memWf_ite h (memWf_ite h (memWf_selectSourceOf h))
  · exact memWf_ite (memWf_loseSource h) h

theorem memWf_chooseParent (h : memWf s) : memWf (chooseParent s) := memWf_chooseParentOf h

theorem memWf_ptpOffset {t21 : Int} (h : memWf s) : memWf (ptpOffset port t21 s) := memWf_ite (memWf_measureOffset h) h

theorem memWf_ptpSync {two : Bool} {origin : Time} {corr : Int} (h : memWf s) : memWf (ptpSync port stamp m two origin corr s) :=
  memWf_ite (memWf_frame (memWf_ite h (memWf_selectSource h))) (memWf_ptpOffset (memWf_ite h (memWf_selectSource h)))

theorem memWf_ptpAnnounce {f : Foreign} (h : memWf s) : memWf (ptpAnnounce port f s) := memWf_chooseParent h

theorem memWf_ptpArrives {e : Envelope} (h : memWf s) : memWf (ptpArrives port stamp e m s) := by
  unfold ptpArrives
  dsimp only
  refine memWf_ite h ?_
  refine memWf_ite h ?_
  split
  · exact h
  · exact h
  · refine memWf_ite h ?_
    refine memWf_ite h ?_
    split
    · exact memWf_ptpAnnounce h
    · exact memWf_ite (memWf_ptpSync h) h
    · split
      · exact memWf_ite (memWf_ptpOffset h) h
      · exact h
    · split
      · exact memWf_ite h h
      · exact h
    · exact h

theorem memWf_sendDelayReq (h : memWf s) : memWf (sendDelayReq stamp s) := memWf_ite h h

theorem memWf_announceLost (h : memWf s) : memWf (announceLost s) := by
  unfold announceLost
  split
  · exact memWf_chooseParent h
  · exact h

theorem memWf_syncLost (h : memWf s) : memWf (syncLost s) := memWf_ite (memWf_loseSource h) h

theorem memWf_comparePps {t : Time} (h : memWf s) : memWf (comparePps t off s) := by
  unfold comparePps
  dsimp only
  split
  · exact memWf_ite (memWf_ite (memWf_notifyTime h) h) h
  · exact h

theorem memWf_ppsEdge (h : memWf s) : memWf (ppsEdge stamp s) :=
  memWf_ite h (memWf_ite (memWf_ite (memWf_comparePps (memWf_ite (memWf_selectSource h) h))
    (memWf_measureOffset (memWf_comparePps (memWf_ite (memWf_selectSource h) h)))) (memWf_ite (memWf_ite (memWf_selectSource h)
    (memWf_ite (memWf_measureOffset (memWf_selectSource h)) (memWf_measureOffset h))) h))

theorem memWf_ppsGone (h : memWf s) : memWf (ppsGone s) := memWf_ite (memWf_loseSource h) h

theorem memWf_secondPasses (h : memWf s) : memWf (secondPasses s) := memWf_ite (memWf_ite h h) h

theorem memWf_ppsFalls (h : memWf s) : memWf (ppsFalls s) := memWf_ite h h

theorem memWf_writeTbCtrl {w : Nat} (h : memWf s) : memWf (writeTbCtrl about w s) :=
  memWf_ite h (memWf_holdPps (memWf_chooseParentOf (memWf_setTsOf h)))

theorem memWf_sendHeartbeat (h : memWf s) : memWf (sendHeartbeat s) := memWf_ite h (memWf_frame (memWf_forEach (fun _ _ h' => h') h))

theorem memWf_askAgain (h : memWf s) : memWf (askAgain s) := memWf_ite (memWf_sendOn h) h

theorem memWf_caughtUp (h : memWf s) : memWf (caughtUp s) := memWf_ite h h

theorem memWf_serveResync (h : memWf s) : memWf (serveResync hb s) := memWf_ite (memWf_ite h h) (memWf_ite h h)

theorem memWf_linkReturns (h : memWf s) : memWf (linkReturns s) := by
  unfold linkReturns
  split
  · exact h
  · exact memWf_ite h (memWf_askAgain h)
  · exact memWf_ite (memWf_askAgain h) h
  · exact h

theorem memWf_hearHeartbeat (h : memWf s) : memWf (hearHeartbeat hb s) :=
  memWf_ite (memWf_serveResync (memWf_caughtUp (memWf_ite (memWf_linkReturns (memWf_setLevel h)) (memWf_setLevel h))))
    (memWf_caughtUp (memWf_ite (memWf_linkReturns (memWf_setLevel h)) (memWf_setLevel h)))

theorem memWf_received {lane type : Nat} {m : List Byte} {f : State → State} (hf : ∀ s, memWf s → memWf (f s)) (h : memWf s) :
    memWf (received lane type m f s) :=
  memWf_ite h (memWf_ite h (memWf_ite (hf s h) h))

theorem memWf_mirrorSend (h : memWf s) : memWf (mirrorSend s) := by
  unfold mirrorSend
  dsimp only
  refine memWf_ite h ?_
  split
  · exact memWf_sendItem h
  · exact memWf_ite (memWf_sendItem h) h
  · exact h

theorem memWf_resend {first : W32} (h : memWf s) : memWf (resend first s) :=
  memWf_ite h (memWf_ite (memWf_forEach (fun _ _ h' => memWf_sendOn h') h) h)

theorem memWf_takeApplied {m : ConnMap} (h : memWf s) : memWf (takeApplied m q s) := memWf_catchUp h

theorem memWf_takeConfig {scope : BitVec 16} {ports : PortMap} {conn : ConnMap} {deleted : Bool} (h : memWf s) :
    memWf (takeConfig n scope ports conn deleted s) :=
  memWf_ite h h

theorem memWf_takeEntry {e : Option TEntry} (h : memWf s) : memWf (takeEntry n e s) := by
  unfold takeEntry
  dsimp only
  refine memWf_ite ?_ h
  split
  · exact memWf_fireFollowed h
  · exact h

theorem memWf_applyItem {i : Item} (h : memWf s) : memWf (applyItem i s) := by
  unfold applyItem
  split
  · exact memWf_setDomains h
  · exact memWf_takeApplied h
  · exact memWf_takeConfig h
  · exact h
  · refine memWf_forEach (fun _ _ h' => ?_) h
    split <;> exact h'
  · exact memWf_takeEntry h
  · exact h

theorem memWf_takeFollow {f : Follow} (h : memWf s) : memWf (takeFollow q f s) :=
  memWf_ite h (memWf_ite h (memWf_ite (memWf_countFired (memWf_armFollow h)) h))

theorem memWf_inOrder {q : W32} {f : State → State} (hf : ∀ s, memWf s → memWf (f s)) (h : memWf s) : memWf (inOrder q f s) :=
  memWf_ite (memWf_caughtUp (hf _ h)) (memWf_ite h (memWf_askAgain h))

theorem memWf_hearMsg {q : W32} {f : State → State} (hf : ∀ s, memWf s → memWf (f s)) (h : memWf s) : memWf (hearMsg q f s) :=
  memWf_ite (memWf_inOrder hf h) h

theorem memWf_applyPart (h : memWf s) : memWf (applyPart item s) := by
  unfold applyPart
  split
  · exact memWf_applyItem h
  · exact h

theorem memWf_hearResync {m : List Byte} {final : Bool} (h : memWf s) : memWf (hearResync m item final s) :=
  memWf_ite h (memWf_ite (memWf_ite h (memWf_applyPart (memWf_frame
    (memWf_frame (memWf_frame (memWf_frame (memWf_frame (memWf_ite h (memWf_enterResync h)))))))))
    (memWf_ite (memWf_inOrder (fun _ h' => memWf_frame (memWf_applyPart h')) h) (memWf_askAgain h)))

theorem memWf_leaveResync (h : memWf s) : memWf (leaveResync s) := memWf_ite (memWf_ite (memWf_becomeEligible h) h) h

theorem memWf_takeOverEntries (h : memWf s) : memWf (takeOverEntries s) :=
  memWf_forEach (fun _ _ h' => memWf_postFollowed h') (memWf_frame (memWf_forEach (fun _ _ h' => memWf_frame (memWf_setEntryState h'))
    (memWf_forEach (fun _ _ h' => memWf_schedule h') h)))

theorem memWf_takeOver {p : Promo} (h : memWf s) : memWf (takeOver p s) :=
  memWf_ite (memWf_catchUp (memWf_takeOverEntries (memWf_frame (memWf_frame (memWf_openValves h))))) (memWf_takeOverEntries
    (memWf_frame (memWf_frame (memWf_openValves h))))

theorem memWf_promote (h : memWf s) : memWf (promote s) := by
  unfold promote
  dsimp only
  split
  · exact memWf_ite (memWf_takeOver h) (memWf_abandonPromotion h)
  · exact h

theorem memWf_reportTakeover (h : memWf s) : memWf (reportTakeover s) := by
  unfold reportTakeover
  dsimp only
  split
  · split
    · exact memWf_finishSlot (memWf_notifyAt h)
    · exact memWf_notifyAt h
  · exact h

theorem memWf_partnerAsserts (h : memWf s) : memWf (partnerAsserts s) := memWf_ite (memWf_ite (memWf_enterResync h) h) h

theorem memWf_roleInChange {a b : Bool} (h : memWf s) : memWf (roleInChange a b s) :=
  memWf_ite (memWf_ite (memWf_abandonPromotion h) (memWf_partnerAsserts (memWf_abandonPromotion h))) h

theorem memWf_roleInReleased (h : memWf s) : memWf (roleInReleased s) := memWf_ite (memWf_ite h h) h

theorem memWf_roleSplits (h : memWf s) : memWf (roleSplits s) := memWf_ite (memWf_raise h) h

theorem memWf_presentInChange {level : Bool} (h : memWf s) : memWf (presentInChange level s) := memWf_ite (memWf_ite h h) h

theorem memWf_presentFaulty (h : memWf s) : memWf (presentFaulty s) := memWf_ite (memWf_raise h) h

theorem memWf_dualActiveSeen (h : memWf s) : memWf (dualActiveSeen s) :=
  memWf_ite (memWf_ite (memWf_ite (memWf_enterResync (memWf_releaseRole (memWf_raise h))) (memWf_frame (memWf_releaseRole (memWf_raise h))))
    (memWf_raise h)) h

theorem memWf_setCldCtrl {gap : BitVec 12} {lanes : BitVec 2} (h : memWf s) : memWf (setCldCtrl gap lanes s) :=
  memWf_forEach (fun _ _ h' => memWf_ite h' (memWf_cldLaneDown h')) h

theorem memWf_exchangeRelease (h : memWf s) : memWf (exchangeRelease s) := by
  unfold exchangeRelease
  dsimp only
  split
  · refine memWf_releaseRole ?_
    split
    · exact memWf_finish (memWf_sendDue h)
    · exact memWf_sendDue h
  · exact h

end

end Sys2Proof.Machine
end

section
/-! SUPPORT. The byte memories in canonical form (R261, R306, R308, R372, R377), one lemma per operation: faults, security and the internal
registers (R325 to R328, R352 to R358, R372, R379). -/

namespace Sys2Proof.Machine

section
variable {s : State} {a j k n w off addr slot : Nat} {v : W32} {m : Master} {q : Priv} {count : BitVec 8} {write : Bool}

theorem memWf_clearSource (h : memWf s) : memWf (clearSource n s) := memWf_ite h h

theorem memWf_configSource {win : BitVec 16} {thresh : BitVec 8} {mask : Bool} (h : memWf s) : memWf (configSource n win thresh mask s) :=
  memWf_ite (memWf_react h) h

theorem memWf_startInjection {n : BitVec 8} {slot : Option Nat} (h : memWf s) : memWf (startInjection n count slot s) :=
  memWf_frame (memWf_endInjection h)

theorem memWf_beginInjection {c : SlotCmd} {n : BitVec 8} (h : memWf s) : memWf (beginInjection c n count s) :=
  memWf_ite (memWf_finish (memWf_startInjection h)) (memWf_ite (memWf_deferCmd (memWf_startInjection h)) (memWf_startInjection h))

theorem memWf_writeInj (h : memWf s) : memWf (writeInj v s) := memWf_ite h (memWf_ite h (memWf_ite (memWf_startInjection h) h))

theorem memWf_faultOccurs {holds : Bool} (h : memWf s) : memWf (faultOccurs n holds s) := memWf_occur (memWf_checkMade h)

theorem memWf_windowEnds {stayed : Bool} (h : memWf s) : memWf (windowEnds n stayed s) :=
  memWf_ite h (memWf_closeWindow (memWf_ite h (memWf_setLevel h)))

theorem memWf_writeConfigWord (h : memWf s) : memWf (writeConfigWord n off v s) := memWf_ite h h

theorem memWf_writeTrackedWord (h : memWf s) : memWf (writeTrackedWord off v s) := memWf_ite h h

theorem memWf_writeCondWord (h : memWf s) : memWf (writeCondWord off v s) := memWf_forEach (fun _ _ h' => h') h

theorem memWf_writeBasin {off : Nat} {v : W32} (h : memWf s) : memWf (writeBasin off v s) := by
  obtain ⟨hw, hc, hf, hs, hb, hp⟩ := memWf_iff.mp h
  have hput : memWf { s with plat := { s.plat with basin := putBytes s.plat.basin off v } } :=
    memWf_iff.mpr ⟨hw, hc, hf, hs, swf_mwrite _ _ hb, hp⟩
  unfold writeBasin
  dsimp only
  split
  · exact memWf_writeConfigWord h
  · exact memWf_frame h
  · exact memWf_writeTrackedWord h
  · exact memWf_ite (memWf_writeCondWord h) hput
  · exact memWf_iff.mpr ⟨hw, hc, swf_mwrite _ _ hf, hs, hb, hp⟩
  · exact memWf_withCapture (swf_mwrite _ _) h
  · exact hput

theorem memWf_activateDone {back : Option (List Byte)} (h : memWf s) : memWf (activateDone back s) := by
  unfold activateDone
  dsimp only
  split
  · exact memWf_ite (memWf_ite (memWf_finish (memWf_withPld (by simp) h)) (memWf_failCmd (memWf_withPld (by simp) h))) (memWf_failCmd h)
  · exact h

theorem memWf_abandonRoute (h : memWf s) : memWf (abandonRoute s) := by
  unfold abandonRoute
  dsimp only
  split
  · exact h
  · split
    · exact memWf_frame (memWf_followFails h)
    · exact memWf_followFails h
    · split
      · exact memWf_tagDrop (memWf_failSlot h)
      · exact h

theorem memWf_takeError (h : memWf s) : memWf (takeError m s) := by
  unfold takeError
  dsimp only
  split
  · exact h
  · exact h
  · exact memWf_plat rfl rfl rfl (memWf_stopCapture h)
  · exact h
  · exact memWf_plat rfl rfl rfl (memWf_abandonRoute h)
  · exact h

theorem memWf_answerError (h : memWf s) : memWf (answerError n m q a write s) := memWf_raise (memWf_countTxn (memWf_takeError h))

theorem memWf_unlessBad {bad : Bool} {a : State} (ha : memWf a) (h : memWf s) : memWf (unlessBad bad a s) :=
  memWf_ite (memWf_plat rfl rfl rfl ha) h

theorem memWf_writeJetCtrl (h : memWf s) : memWf (writeJetCtrl j v s) := by
  unfold writeJetCtrl
  extract_lets _ _ _ _ s₁
  have h₁ : memWf s₁ := memWf_ite h h
  exact memWf_ite h₁ (memWf_ite (memWf_takeJet h₁) h₁)

theorem memWf_paramWord {v : Nat} (h : memWf s) : memWf (paramWord j slot k v s) := by
  unfold paramWord
  dsimp only
  split
  · exact memWf_ite (memWf_frame (memWf_modSlot h)) (memWf_modSlot h)
  · exact memWf_modSlot h

theorem memWf_writeEn {en : Bool} (h : memWf s) : memWf (writeEn j slot en s) := by
  unfold writeEn
  dsimp only
  split
  · exact memWf_ite (memWf_startLoop h) (memWf_ite h (memWf_stopLoop h))
  · exact memWf_modSlot h

theorem memWf_writeDesc {v : Nat} (h : memWf s) : memWf (writeDesc j slot k v s) :=
  memWf_ite h (memWf_ite (memWf_paramWord h) (memWf_ite h (memWf_ite (memWf_ite (memWf_ite h (memWf_writeEn h)) h)
    (memWf_ite h (memWf_ite (memWf_writeEn (memWf_ite (memWf_frame (memWf_modSlot h)) (memWf_modSlot h)))
    (memWf_ite (memWf_frame (memWf_modSlot h)) (memWf_modSlot h)))))))

theorem memWf_writeBank {j slot k v : Nat} {one : Bool} (h : memWf s) : memWf (writeBank j slot one k v s) := by
  unfold writeBank
  dsimp only
  exact memWf_unlessBad h (memWf_ite h (memWf_modSlot h))

theorem memWf_writeFnt (h : memWf s) : memWf (writeFnt j off v s) := memWf_ite h (memWf_ite h (memWf_ite h h))

theorem memWf_writeJet (h : memWf s) : memWf (writeJet j off v s) :=
  memWf_ite (memWf_unlessBad h (memWf_writeJetCtrl h)) (memWf_ite (memWf_unlessBad h h) (memWf_ite (memWf_swapWrite h)
    (memWf_ite (memWf_swapWrite h) (memWf_ite (memWf_unlessBad h h) (memWf_ite (memWf_writeDesc h) (memWf_ite (memWf_writeBank h)
    (memWf_ite (memWf_writeFnt h) h)))))))

theorem memWf_writeWellCtrl (h : memWf s) : memWf (writeWellCtrl w v s) :=
  memWf_ite h (memWf_ite h (memWf_frame (memWf_ite (memWf_frame (memWf_ite h h)) (memWf_ite h h))))

theorem memWf_writeWell (h : memWf s) : memWf (writeWell w off v s) :=
  memWf_ite (memWf_writeWellCtrl h) (memWf_ite (memWf_unlessBad h h) (memWf_ite (memWf_wellChanWrite h) (memWf_ite (memWf_wellSchedWrite h)
    h)))

theorem memWf_writeDac (h : memWf s) : memWf (writeDac off v s) :=
  memWf_ite (memWf_dacWriteNow h) (memWf_ite (memWf_dacWriteNow h) (memWf_ite (memWf_dacWriteNow h) h))

theorem memWf_writePortCfg (h : memWf s) : memWf (writePortCfg n k v s) := memWf_unlessBad h h

theorem memWf_writeQueue {i : Nat} (h : memWf s) : memWf (writeQueue i k v s) := memWf_unlessBad h h

theorem memWf_writeSluice (h : memWf s) : memWf (writeSluice off v s) := memWf_ite (memWf_ite h h) (memWf_ite h h)

theorem memWf_writeWeir (h : memWf s) : memWf (writeWeir off v s) :=
  memWf_ite (memWf_forEach (fun _ _ h' => memWf_weirLaneDown h') h) (memWf_ite (memWf_ite h h) (memWf_ite (memWf_writePortCfg h)
    (memWf_ite (memWf_writeQueue h) h)))

theorem memWf_writeCladal (h : memWf s) : memWf (writeCladal off v s) := memWf_ite (memWf_unlessBad h (memWf_setCldCtrl h)) (memWf_ite h h)

theorem memWf_writeTb (h : memWf s) : memWf (writeTb v s) :=
  memWf_ite (memWf_holdPps (memWf_chooseParent (memWf_setTs h))) (memWf_writeTbCtrl h)

theorem memWf_writeTimebase (h : memWf s) : memWf (writeTimebase off v s) :=
  memWf_ite (memWf_unlessBad h (memWf_writeTb h)) (memWf_ite h (memWf_ite (memWf_unlessBad h h) (memWf_ite (memWf_unlessBad h h)
    (memWf_ite h (memWf_ite h (memWf_ite h (memWf_ite h (memWf_ite h (memWf_ite (memWf_unlessBad h h)
    (memWf_ite h (memWf_ite (memWf_unlessBad h h) h)))))))))))

theorem memWf_writeSrcCfg (h : memWf s) : memWf (writeSrcCfg n v s) := memWf_unlessBad h (memWf_configSource h)

theorem memWf_writeDike (h : memWf s) : memWf (writeDike off v s) :=
  memWf_ite (memWf_writeInj h) (memWf_ite (memWf_forEach (fun _ _ h' => memWf_clearSource h') h) (memWf_ite (memWf_ite (memWf_writeSrcCfg h)
    (memWf_unlessBad h h)) h))

theorem memWf_writeRouter (h : memWf s) : memWf (writeRouter off v s) := memWf_ite h (memWf_ite h (memWf_ite (memWf_unlessBad h h) h))

theorem memWf_writeSram {off : Nat} {b : Byte} (h : memWf s) : memWf (writeSram off b s) :=
  memWf_ite (memWf_withMbx (swf_sset 0 _ _) h) (memWf_iff.mpr { memWf_iff.mp h with sram := swf_sset 0 _ _ (memWf_iff.mp h).sram })

theorem memWf_writeBytes {f : Nat → Byte → State → State} {off size : Nat} {v : W32}
    (hf : ∀ k b s, memWf s → memWf (f k b s)) (h : memWf s) : memWf (writeBytes f off size v s) :=
  memWf_forEach (fun _ _ h' => hf _ _ _ h') h

theorem memWf_writeTarget {t : BusTarget} (h : memWf s) : memWf (writeTarget t a v s) := by
  unfold writeTarget
  dsimp only
  split
  · exact memWf_writeJet h
  · exact memWf_writeWell h
  · exact memWf_writeDac h
  · exact memWf_ite (memWf_writeSluice h) (memWf_ite (memWf_writeWeir h) (memWf_writeCladal h))
  · exact memWf_writeTimebase h
  · exact memWf_writeDike h
  · exact memWf_writeRouter h
  · exact memWf_writeBytes (fun _ _ _ h' => memWf_writeSram h') h
  · exact memWf_writeBasin h
  · exact h

theorem memWf_granted (h : memWf s) : memWf (granted m q a s) := memWf_countTxn (memWf_ite (memWf_takeError h) h)

theorem memWf_writeRegister (h : memWf s) : memWf (writeRegister m q addr v s) := by
  unfold writeRegister
  dsimp only
  refine memWf_ite h ?_
  split
  · exact memWf_granted (memWf_writeTarget h)
  · exact memWf_answerError h

theorem memWf_timeOut (h : memWf s) : memWf (timeOut m q addr write s) := memWf_ite h (memWf_answerError (memWf_ite (memWf_countTxn h) h))

end

end Sys2Proof.Machine
end

section
/-! SUPPORT. Every command, and so every step, keeps the byte memories in canonical form (R261, R306, R308, R372, R377). -/

namespace Sys2Proof.Machine

section
variable {s : State} {dt slot : Nat}

/-- What a command leaves has its byte memories in canonical form. -/
def MemKept (o : Host.Outcome State Fault Refusal) : Prop := ∀ t, o = .next t → memWf t

theorem memKept_run {f : State → State} (hf : ∀ s, memWf s → memWf (f s)) (h : memWf s) : MemKept (run dt s f) := by
  intro t ht
  rw [run_eq, Host.Outcome.next.injEq] at ht
  exact ht ▸ memWf_after (hf _ (memWf_begun h))

theorem memKept_live {f : State → State} (hf : ∀ s, memWf s → memWf (f s)) (h : memWf s) : MemKept (live dt s f) :=
  memKept_run (fun s h => memWf_ite h (hf s h)) h

theorem memKept_hostCmd {q : Req} {effect : SlotCmd → List Byte → State → State}
    (he : ∀ c p s, memWf s → memWf (effect c p s)) (h : memWf s) : MemKept (hostCmd q dt slot effect s) :=
  memKept_live (fun _ h => memWf_serve he h) h

theorem memKept_execTempMeasurementStart (h : memWf s) : MemKept (execTempMeasurementStart dt s) := by
  unfold execTempMeasurementStart
  exact memKept_live (fun _ h => memWf_ite h h) h

theorem memKept_execCellFailureReroute {cell : Nat} {cond : Cond} (h : memWf s) : MemKept (execCellFailureReroute dt cell cond s) := by
  unfold execCellFailureReroute
  exact memKept_live (fun _ h => memWf_ite (memWf_markCell h) h) h

theorem memKept_execDomainSet (h : memWf s) : MemKept (execDomainSet dt slot s) := by
  unfold execDomainSet
  exact memKept_hostCmd (fun _ _ _ h => memWf_finish (memWf_setDomains h)) h

theorem memKept_execConfigDelete (h : memWf s) : MemKept (execConfigDelete dt slot s) := by
  unfold execConfigDelete
  exact memKept_hostCmd (fun _ _ _ h => memWf_finish (memWf_mirror h)) h

theorem memKept_execReset (h : memWf s) : MemKept (execReset dt slot s) := by
  unfold execReset
  exact memKept_hostCmd (fun _ _ _ h => memWf_frame (memWf_mk rfl rfl rfl rfl rfl rfl (memWf_finish (memWf_pld rfl (memWf_saveTable h))))) h

theorem memKept_execCalibrate (h : memWf s) : MemKept (execCalibrate dt slot s) := by
  unfold execCalibrate
  exact memKept_hostCmd (fun _ _ _ h => memWf_openEqualisers (memWf_enterMode (memWf_frame (memWf_deferCmd h)))) h

theorem memKept_execLoopRead (h : memWf s) : MemKept (execLoopRead dt slot s) := by
  unfold execLoopRead
  exact memKept_hostCmd (fun _ _ _ h => memWf_frame (memWf_finish h)) h

theorem memKept_execLoopSet (h : memWf s) : MemKept (execLoopSet dt slot s) := by
  unfold execLoopSet
  exact memKept_hostCmd (fun _ _ _ h => memWf_ite (memWf_ite (memWf_finish h) (memWf_frame (memWf_setParams h)))
    (memWf_finish (memWf_setParams h))) h

theorem memKept_execLoopEnable (h : memWf s) : MemKept (execLoopEnable dt slot s) := by
  unfold execLoopEnable
  exact memKept_hostCmd (fun _ _ _ h => memWf_finish (memWf_ite (memWf_stopLoop h) (memWf_ite h (memWf_startLoop h)))) h

theorem memKept_execRangeSet (h : memWf s) : MemKept (execRangeSet dt slot s) := by
  unfold execRangeSet
  exact memKept_hostCmd (fun _ _ _ h => memWf_ite h (memWf_ite (memWf_finish h) h)) h

theorem memKept_execCalWrite (h : memWf s) : MemKept (execCalWrite dt slot s) := by
  unfold execCalWrite
  exact memKept_hostCmd (fun _ _ _ h => memWf_finish (memWf_frame (memWf_withdrawWaiting h))) h

theorem memKept_execCalCommit (h : memWf s) : MemKept (execCalCommit dt slot s) := by
  unfold execCalCommit
  exact memKept_hostCmd (fun _ _ _ h => memWf_frame (memWf_deferCmd h)) h

theorem memKept_execCalStatus (h : memWf s) : MemKept (execCalStatus dt slot s) := by
  unfold execCalStatus
  exact memKept_hostCmd (fun _ _ _ h => memWf_frame (memWf_finish h)) h

theorem memKept_execTrainBind (h : memWf s) : MemKept (execTrainBind dt slot s) := by
  unfold execTrainBind
  exact memKept_hostCmd (fun _ _ _ h => memWf_finish (memWf_ite (memWf_pendEntries (memWf_putTrain h))
    (memWf_pendEntries (memWf_putTrain h)))) h

theorem memKept_execEntryCommit (h : memWf s) : MemKept (execEntryCommit dt slot s) := by
  unfold execEntryCommit
  refine memKept_hostCmd (fun _ _ _ h => ?_) h
  split
  · exact memWf_finish h
  · exact memWf_ite (memWf_finish (memWf_commitStaged h)) (memWf_ite (memWf_failCmd h) (memWf_frame (memWf_deferCmd h)))

theorem memKept_execEntryDelete (h : memWf s) : MemKept (execEntryDelete dt slot s) := by
  unfold execEntryDelete
  exact memKept_hostCmd (fun _ _ _ h => memWf_finish (memWf_forEach (fun _ _ h' => memWf_ite
    (memWf_mirror (memWf_frame (memWf_dropPrep h'))) h') h)) h

theorem memKept_execTelegram (h : memWf s) : MemKept (execTelegram dt slot s) := by
  unfold execTelegram
  exact memKept_hostCmd (fun _ _ _ h => memWf_finish (memWf_takeTelegram h)) h

theorem memKept_execWeirLanes (h : memWf s) : MemKept (execWeirLanes dt slot s) := by
  unfold execWeirLanes
  exact memKept_hostCmd (fun _ _ _ h => memWf_finish (memWf_forEach (fun _ _ h' => memWf_weirLaneDown h') h)) h

theorem memKept_execWeirRead (h : memWf s) : MemKept (execWeirRead dt slot s) := by
  unfold execWeirRead
  exact memKept_hostCmd (fun _ _ _ h => memWf_frame (memWf_frame (memWf_frame (memWf_finish h)))) h

theorem memKept_execLaneUp {lane : LaneId} (h : memWf s) : MemKept (execLaneUp dt lane s) := by
  unfold execLaneUp
  refine memKept_live (fun _ h => ?_) h
  split
  · exact memWf_weirLaneUp h
  · exact memWf_cldLaneUp h

theorem memKept_execLaneDown {lane : LaneId} (h : memWf s) : MemKept (execLaneDown dt lane s) := by
  unfold execLaneDown
  refine memKept_live (fun _ h => ?_) h
  split
  · exact memWf_weirLaneDown h
  · exact memWf_cldLaneDown h

theorem memKept_execTimeSet (h : memWf s) : MemKept (execTimeSet dt slot s) := by
  unfold execTimeSet
  refine memKept_hostCmd (fun _ _ _ h => ?_) h
  extract_lets _ s₁ s₂ s₃ s₄ s₅
  have h₁ : memWf s₁ := memWf_ite h h
  have h₂ : memWf s₂ := memWf_ite h₁ h₁
  have h₃ : memWf s₃ := memWf_ite h₂ h₂
  have h₄ : memWf s₄ := memWf_ite h₃ h₃
  have h₅ : memWf s₅ := memWf_ite h₄ h₄
  exact memWf_finish (memWf_ite (memWf_writeTbCtrl h₅) h₅)

theorem memKept_execTimeRead (h : memWf s) : MemKept (execTimeRead dt slot s) := by
  unfold execTimeRead
  exact memKept_hostCmd (fun _ _ _ h => memWf_frame (memWf_finish h)) h

theorem memKept_execHoldoverExpiry (h : memWf s) : MemKept (execHoldoverExpiry dt s) := by
  unfold execHoldoverExpiry
  exact memKept_live (fun _ h => memWf_ite (memWf_setTs h) h) h

theorem memKept_execTbNowRead (h : memWf s) : MemKept (execTbNowRead dt s) := by
  unfold execTbNowRead
  exact memKept_live (fun _ h => h) h

theorem memKept_execArpRequest {port : Nat} {addr : BitVec 32} {env : Envelope} (h : memWf s) : MemKept (execArpRequest dt port addr env s)
    := by
  unfold execArpRequest
  exact memKept_live (fun _ h => memWf_ite h (memWf_ite h h)) h

theorem memKept_execMgmtFrameOther {f : Sys2Proof.PortFrame} (h : memWf s) : MemKept (execMgmtFrameOther dt f s) := by
  unfold execMgmtFrameOther
  exact memKept_live (fun _ h => memWf_ite h h) h

theorem memKept_execMgmtLinkChange {port : Nat} {up : Bool} (h : memWf s) : MemKept (execMgmtLinkChange dt port up s) := by
  unfold execMgmtLinkChange
  exact memKept_run (fun _ h => memWf_ite h (memWf_ite (memWf_setLevel h) (memWf_ite (memWf_setLevel h) h))) h

theorem memKept_execHeartbeatRx {m : LaneMsg} (h : memWf s) : MemKept (execHeartbeatRx dt m s) := by
  unfold execHeartbeatRx
  refine memKept_live (fun _ h => ?_) h
  refine memWf_received ?_ h
  intro _ h'
  split
  · exact memWf_hearHeartbeat h'
  · exact h'

theorem memKept_execFollowRx {lane : Nat} {msg : List Byte} (h : memWf s) : MemKept (execFollowRx dt lane msg s) := by
  unfold execFollowRx
  refine memKept_live (fun _ h => ?_) h
  refine memWf_received ?_ h
  intro _ h'
  split
  · exact memWf_hearMsg (fun _ h'' => memWf_plat rfl rfl rfl (memWf_takeFollow h'')) h'
  · exact h'

theorem memKept_execPairSet (h : memWf s) : MemKept (execPairSet dt slot s) := by
  unfold execPairSet
  exact memKept_hostCmd (fun _ _ _ h => memWf_finish (memWf_setCldCtrl h)) h

theorem memKept_execPromote (h : memWf s) : MemKept (execPromote dt slot s) := by
  unfold execPromote
  exact memKept_hostCmd (fun _ _ _ h => memWf_mbx rfl (memWf_frame (memWf_ite h h))) h

theorem memKept_execExchange (h : memWf s) : MemKept (execExchange dt slot s) := by
  unfold execExchange
  refine memKept_hostCmd (fun _ _ _ h => ?_) h
  dsimp only
  split
  · exact memWf_finish h
  · exact memWf_deferCmd h

theorem memKept_execFaultClear (h : memWf s) : MemKept (execFaultClear dt slot s) := by
  unfold execFaultClear
  exact memKept_hostCmd (fun _ _ _ h => memWf_finish (memWf_forEach (fun _ _ h' => memWf_clearSource h') h)) h

theorem memKept_execFaultCfg (h : memWf s) : MemKept (execFaultCfg dt slot s) := by
  unfold execFaultCfg
  exact memKept_hostCmd (fun _ _ _ h => memWf_finish (memWf_configSource h)) h

theorem memKept_execCaptureStart (h : memWf s) : MemKept (execCaptureStart dt slot s) := by
  unfold execCaptureStart
  exact memKept_hostCmd (fun _ _ _ h => memWf_finish (memWf_withCapture (fun _ => rfl) h)) h

theorem memKept_execCaptureStop (h : memWf s) : MemKept (execCaptureStop dt slot s) := by
  unfold execCaptureStop
  exact memKept_hostCmd (fun _ _ _ h => memWf_finish (memWf_stopCapture h)) h

theorem memKept_execInject (h : memWf s) : MemKept (execInject dt slot s) := by
  unfold execInject
  exact memKept_hostCmd (fun _ _ _ h => memWf_finish (memWf_ite h (memWf_ite h h))) h

theorem memKept_execPmonSet (h : memWf s) : MemKept (execPmonSet dt slot s) := by
  unfold execPmonSet
  refine memKept_hostCmd (fun _ _ _ h => ?_) h
  refine memWf_finish ?_
  split <;> exact h

theorem memKept_execAttest {otp : OtpWrite} (h : memWf s) : MemKept (execAttest dt slot otp s) := by
  unfold execAttest
  exact memKept_hostCmd (fun _ _ _ h => memWf_ite (memWf_softReset h) (memWf_finish h)) h

theorem memKept_execFwWrite (h : memWf s) : MemKept (execFwWrite dt slot s) := by
  unfold execFwWrite
  exact memKept_hostCmd (fun _ _ _ h => memWf_finish (memWf_iff.mpr { memWf_iff.mp h with staging := swf_mwrite _ _ (memWf_iff.mp h).staging
    })) h

theorem memKept_execFwActivate (h : memWf s) : MemKept (execFwActivate dt slot s) := by
  unfold execFwActivate
  exact memKept_hostCmd (fun _ _ _ h => memWf_sec rfl (memWf_deferCmd h)) h

theorem memKept_execLcTransition (h : memWf s) : MemKept (execLcTransition dt slot s) := by
  unfold execLcTransition
  refine memKept_hostCmd (fun _ _ _ h => ?_) h
  refine memWf_frame ?_
  refine memWf_finish ?_
  split
  · exact memWf_withPld (by simp) (memWf_pld rfl (memWf_saveTable h))
  · exact memWf_pld rfl (memWf_saveTable h)

theorem memKept_execEvrLock (h : memWf s) : MemKept (execEvrLock dt s) := by
  unfold execEvrLock
  exact memKept_live (fun _ h => memWf_ite h h) h

theorem memKept_exec (c : Instr) (h : memWf s) : MemKept (exec c s) := by
  cases c
  case wellSchedWrite => exact memKept_live (fun _ h => memWf_wellSchedWrite h) h
  case wellChanWrite => exact memKept_live (fun _ h => memWf_wellChanWrite h) h
  case wellTakeover => exact memKept_live (fun _ h => memWf_wellTakeover h) h
  case wellFrame => exact memKept_live (fun _ h => memWf_wellFrame h) h
  case wellWakeEnd => exact memKept_live (fun _ h => memWf_wellWakeEnd h) h
  case rangeStepDown => exact memKept_live (fun _ h => memWf_rangeStepDown h) h
  case rangeStepUp => exact memKept_live (fun _ h => memWf_rangeStepUp h) h
  case wellSliceFail => exact memKept_live (fun _ h => memWf_wellSliceFail h) h
  case dacWrite => exact memKept_live (fun _ h => memWf_dacWriteNow h) h
  case rangeChangeEnd => exact memKept_live (fun _ h => memWf_rangeEnd h) h
  case jetSwapWrite => exact memKept_live (fun _ h => memWf_swapWrite h) h
  case roundStart => exact memKept_live (fun _ h => memWf_startRound h) h
  case skipLimitExceeded => exact memKept_live (fun _ h => memWf_skipLimit h) h
  case skipWindowEnd => exact memKept_live (fun _ h => memWf_skipEnd h) h
  case lockLossTimeout => exact memKept_live (fun _ h => memWf_lockLost h) h
  case driftScan => exact memKept_live (fun _ h => memWf_scanDrift h) h
  case sramCopyRefresh => exact memKept_live (fun _ h => memWf_refreshSram h) h
  case jetTakeover => exact memKept_live (fun _ h => memWf_takeJet h) h
  case tClose => exact memKept_live (fun _ h => memWf_taggedIn (fun _ h' => memWf_closeNow h') h) h
  case tDark => exact memKept_live (fun _ h => memWf_darkNow h) h
  case levelReadback => exact memKept_live (fun _ h => memWf_doReadback h) h
  case tOpen => exact memKept_live (fun _ h => memWf_taggedIn (fun _ h' => memWf_doOpen h') h) h
  case settleDeadline => exact memKept_live (fun _ h => memWf_taggedIn (fun _ h' => memWf_doDeadline h') h) h
  case entryPrepare => exact memKept_live (fun _ h => memWf_prepareEntry h) h
  case entryArm => exact memKept_live (fun _ h => memWf_entryArmNow h) h
  case recheckDone => exact memKept_live (fun _ h => memWf_recheckOver h) h
  case calendarStart => exact memKept_live (fun _ h => memWf_startCalendar h) h
  case calendarWindow => exact memKept_live (fun _ h => memWf_passWindow h) h
  case calendarResume => exact memKept_live (fun _ h => memWf_resumeCalendar h) h
  case spiTransaction => exact memKept_run (fun _ h => memWf_spiTake h) h
  case hostWindowWrite => exact memKept_run (fun _ h => memWf_hostWrite h) h
  case mbxDoorbell | mbxCompleteClear | mbxIrqMaskWrite | mbxRingConsWrite => exact memKept_run (fun _ h => memWf_registerWord h) h
  case commandAcceptance => exact memKept_live (fun _ h => memWf_acceptAll h) h
  case barrierStart => exact memKept_live (fun _ h => memWf_startBarrier h) h
  case mbxRingLostRead => exact memKept_run (fun _ h => memWf_readLost h) h
  case powerOn => exact memKept_run (fun _ h => memWf_applyPower h) h
  case powerRemoved => exact memKept_run (fun _ h => memWf_removePower h) h
  case supplyTrip => exact memKept_run (fun _ h => memWf_tripRail h) h
  case supplyWarn => exact memKept_run (fun _ h => memWf_warnRail h) h
  case resetNLow => exact memKept_run (fun _ h => memWf_resetNLow h) h
  case resetRelease => exact memKept_run (fun _ h => memWf_releaseReset h) h
  case watchdogExpiry => exact memKept_run (fun _ h => memWf_softReset h) h
  case watchdogRestart => exact memKept_live (fun _ h => memWf_restartWatchdog h) h
  case pllLock => exact memKept_live (fun _ h => memWf_lockPlls h) h
  case basinTrained => exact memKept_live (fun _ h => memWf_trainBasin h) h
  case wipeComplete => exact memKept_live (fun _ h => memWf_completeWipe h) h
  case firmwareHandover => exact memKept_live (fun _ h => memWf_handOver h) h
  case storeLoaded => exact memKept_live (fun _ h => memWf_loadStore h) h
  case refclkLoss => exact memKept_live (fun _ h => memWf_loseRefclk h) h
  case perst | resetNHigh => exact memKept_run (fun _ h => h) h
  case railGood => exact memKept_run (fun _ h => memWf_goodRail h) h
  case supplyInRange => exact memKept_run (fun _ h => memWf_inRangeRail h) h
  case tempMeasurementStart => exact memKept_execTempMeasurementStart h
  case tempMeasurementDone => exact memKept_live (fun _ h => memWf_measureDone h) h
  case wearFold => exact memKept_live (fun _ h => memWf_foldAll h) h
  case wearSave => exact memKept_live (fun _ h => memWf_saveHour h) h
  case eolPrediction => exact memKept_live (fun _ h => memWf_predictAll h) h
  case heaterBPendingInsert => exact memKept_live (fun _ h => memWf_pendingInsert h) h
  case heaterBTIns => exact memKept_live (fun _ h => memWf_heaterBClose h) h
  case heaterBReopen => exact memKept_live (fun _ h => memWf_heaterBReopen h) h
  case heaterB => exact memKept_hostCmd (fun _ _ _ h => memWf_heaterBNow h) h
  case tempRead | connect | configDefine | setMode | recentre | setRate | calStop | timeStep => exact memKept_hostCmd (fun _ _ _ h => h) h
  case tempCfg | wearRead | domainGet | configRead | cellRead | setGap | identify | status | loopCfg | calRead | trainRead | entryWrite
      | entryRead | trackCfg | weirPort | weirQueue | setTod | netSet | pairRead | faultRead | captureRead | pmonRead | attestRead
      | measureRead =>
    exact memKept_hostCmd (fun _ _ _ h => memWf_finish h) h
  case routeRequest => exact memKept_live (fun _ h => memWf_beginRoute h) h
  case routeComplete => exact memKept_live (fun _ h => memWf_completeRoute h) h
  case cellFailureReroute => exact memKept_execCellFailureReroute h
  case backgroundRerouteDone => exact memKept_live (fun _ h => memWf_backgroundDone h) h
  case reconfArm => exact memKept_live (fun _ h => memWf_armReady h) h
  case reconfReport => exact memKept_live (fun _ h => memWf_reportReconf h) h
  case domainSet => exact memKept_execDomainSet h
  case configDelete => exact memKept_execConfigDelete h
  case configApply => exact memKept_hostCmd (fun _ _ _ h => memWf_tagStage h) h
  case cellMark => exact memKept_hostCmd (fun _ _ _ h => memWf_markCell h) h
  case reset => exact memKept_execReset h
  case modeChange => exact memKept_live (fun _ h => memWf_changeMode h) h
  case calibrate => exact memKept_execCalibrate h
  case calibrationEnd => exact memKept_live (fun _ h => memWf_endCalibration h) h
  case loopRead => exact memKept_execLoopRead h
  case loopSet => exact memKept_execLoopSet h
  case loopEnable => exact memKept_execLoopEnable h
  case rangeSet => exact memKept_execRangeSet h
  case calWrite => exact memKept_execCalWrite h
  case calCommit => exact memKept_execCalCommit h
  case calCommitDone => exact memKept_live (fun _ h => memWf_calCommitDone h) h
  case calStatus => exact memKept_execCalStatus h
  case trainBind => exact memKept_execTrainBind h
  case entryCommit => exact memKept_execEntryCommit h
  case entryCommitDone => exact memKept_live (fun _ h => memWf_entryCommitDone h) h
  case entryDelete => exact memKept_execEntryDelete h
  case telegram => exact memKept_execTelegram h
  case telegramReceive => exact memKept_live (fun _ h => memWf_frameArrives h) h
  case trainStale => exact memKept_live (fun _ h => memWf_trainStaleNow h) h
  case weirLanes => exact memKept_execWeirLanes h
  case weirRead => exact memKept_execWeirRead h
  case laneUp => exact memKept_execLaneUp h
  case laneDown => exact memKept_execLaneDown h
  case weirRequest => exact memKept_live (fun _ h => memWf_weirMessage h) h
  case weirDecision => exact memKept_live (fun _ h => memWf_weirDecide h) h
  case timeMessageTx => exact memKept_live (fun _ h => memWf_weirTime h) h
  case timeSet => exact memKept_execTimeSet h
  case timeRead => exact memKept_execTimeRead h
  case timeStepApply => exact memKept_live (fun _ h => memWf_applyStep h) h
  case ptpMessageRx => exact memKept_live (fun _ h => memWf_ptpArrives h) h
  case delayReqTx => exact memKept_live (fun _ h => memWf_sendDelayReq h) h
  case announceTimeout => exact memKept_live (fun _ h => memWf_announceLost h) h
  case syncTimeout => exact memKept_live (fun _ h => memWf_syncLost h) h
  case ppsInEdge => exact memKept_live (fun _ h => memWf_ppsEdge h) h
  case ppsTimeout => exact memKept_live (fun _ h => memWf_ppsGone h) h
  case holdoverExpiry => exact memKept_execHoldoverExpiry h
  case secondBoundary => exact memKept_live (fun _ h => memWf_secondPasses h) h
  case ppsOutEnd => exact memKept_live (fun _ h => memWf_ppsFalls h) h
  case tbNowRead => exact memKept_execTbNowRead h
  case arpRequest => exact memKept_execArpRequest h
  case mgmtFrameOther => exact memKept_execMgmtFrameOther h
  case mgmtLinkChange => exact memKept_execMgmtLinkChange h
  case heartbeatTx => exact memKept_live (fun _ h => memWf_sendHeartbeat h) h
  case heartbeatRx => exact memKept_execHeartbeatRx h
  case linkDownTimeout => exact memKept_live (fun _ h => memWf_linkFalls h) h
  case mirrorSend => exact memKept_live (fun _ h => memWf_mirrorSend h) h
  case mirrorItemRx =>
    exact memKept_live (fun _ h => memWf_received (fun _ h' => memWf_ite h' (memWf_hearMsg (fun _ h'' => memWf_applyPart h'') h')) h) h
  case followRx => exact memKept_execFollowRx h
  case retransmitRequest => exact memKept_live (fun _ h => memWf_received (fun _ h' => memWf_ite (memWf_resend h') h') h) h
  case resyncItemRx => exact memKept_live (fun _ h => memWf_received (fun _ h' => memWf_ite h' (memWf_hearResync h')) h) h
  case resyncComplete => exact memKept_live (fun _ h => memWf_leaveResync h) h
  case calPosPeriodic => exact memKept_live (fun _ h => memWf_mirror h) h
  case pairSet => exact memKept_execPairSet h
  case promote => exact memKept_execPromote h
  case exchange => exact memKept_execExchange h
  case exchangeRelease => exact memKept_live (fun _ h => memWf_exchangeRelease h) h
  case roleInChange => exact memKept_run (fun _ h => memWf_roleInChange h) h
  case roleInReleased => exact memKept_live (fun _ h => memWf_roleInReleased h) h
  case roleSplit => exact memKept_live (fun _ h => memWf_roleSplits h) h
  case presentInChange => exact memKept_run (fun _ h => memWf_presentInChange h) h
  case presentFault => exact memKept_live (fun _ h => memWf_presentFaulty h) h
  case dualActive => exact memKept_live (fun _ h => memWf_dualActiveSeen h) h
  case promotion => exact memKept_live (fun _ h => memWf_promote h) h
  case takeoverReport => exact memKept_live (fun _ h => memWf_reportTakeover h) h
  case faultClear => exact memKept_execFaultClear h
  case faultCfg => exact memKept_execFaultCfg h
  case faultInject => exact memKept_hostCmd (fun _ _ _ h => memWf_beginInjection h) h
  case dikeInjGo => exact memKept_live (fun _ h => memWf_writeInj h) h
  case faultOccurrence => exact memKept_live (fun _ h => memWf_faultOccurs h) h
  case faultWindowClose => exact memKept_live (fun _ h => memWf_windowEnds h) h
  case captureStart => exact memKept_execCaptureStart h
  case captureStop => exact memKept_execCaptureStop h
  case inject => exact memKept_execInject h
  case injectionDurationEnd => exact memKept_live (fun _ h => h) h
  case pmonSet => exact memKept_execPmonSet h
  case attest => exact memKept_execAttest h
  case fwWrite => exact memKept_execFwWrite h
  case fwActivate => exact memKept_execFwActivate h
  case fwActivateDone => exact memKept_live (fun _ h => memWf_activateDone h) h
  case lcTransition => exact memKept_execLcTransition h
  case registerWrite => exact memKept_live (fun _ h => memWf_writeRegister h) h
  case busTimeout => exact memKept_live (fun _ h => memWf_timeOut h) h
  case evrLock => exact memKept_execEvrLock h

end

/-- Settles O58, command by command. -/
theorem stepKeepsMemories : Obligations.StepKeepsMemories := by
  intro s t hs h
  cases hq : s.pending with
  | nil =>
    rw [step_nil hq, Host.Outcome.next.injEq] at h
    exact h ▸ hs
  | cons c rest =>
    rw [step_cons hq] at h
    exact memKept_exec c (memWf_frame hs) t h

end Sys2Proof.Machine
end

section
/-! SUPPORT. Responses (R268, R273). -/

namespace Sys2Proof.Machine

section
variable {n opcode seq status : Nat} {payload : List Byte} {s : State}

/-- The slot's registers and bytes once its response is written. -/
theorem respond_mbx : (respond n opcode seq status payload s).mbx =
    { s.mbx with mem := mwrite s.mbx.mem (slotBase n) (frameBytes opcode seq status payload)
                 busy := setBit s.mbx.busy n false
                 done := setBit s.mbx.done n true } := by
  unfold respond
  dsimp only
  split
  · exact signal_mbx _ _
  · rfl

/-- An interrupt message leaves the device or waits as a pending bit: nothing else changes. -/
theorem signal_eq (v : Nat) (s : State) :
    signal v s = { s with mbx := (signal v s).mbx, out := (signal v s).out, pcie := { s.pcie with pend := (signal v s).pcie.pend } } := by
  unfold signal
  split
  · rfl
  · split <;> rfl

theorem respond_eq : let t := respond n opcode seq status payload s
    t = { s with mbx := t.mbx, out := t.out, pcie := { s.pcie with pend := t.pcie.pend } } := by
  unfold respond
  dsimp only
  split
  · exact signal_eq n _
  · rfl

/-- A slot whose DONE is set already sends no message. -/
theorem respond_of_done (h : s.mbx.done.getLsbD n = true) :
    (respond n opcode seq status payload s).out = s.out ∧ (respond n opcode seq status payload s).pcie = s.pcie := by
  simp [respond, withMbx, h]

end

/-- Settles O12: what `respond` stores reads back, and its flags are one bit of two registers. -/
theorem responseWritten : Obligations.ResponseWritten := by
  intro n opcode seq status payload s hn _ t frame
  have hm : t.mbx = _ := respond_mbx
  refine ⟨?read, fun x hx => ?frame, fun k => ?busy, fun k => ?done, ?rest, respond_of_done⟩
  case read =>
    rw [hm]
    exact mread_mwrite _ _ _
  case frame =>
    rw [hm]
    exact (sget_mwrite _ _ _ _).trans (if_neg (by simp only [frame] at hx; omega))
  case busy =>
    rw [hm, getLsbD_setBit _ _ _ _ hn]
    by_cases hk : k = n <;> simp [hk]
  case done =>
    rw [hm, getLsbD_setBit _ _ _ _ hn]
    by_cases hk : k = n <;> simp [hk]
  case rest =>
    exact respond_eq.trans (by rw [hm])

end Sys2Proof.Machine
end

section
/-! SUPPORT. The system commands (R14, R17, R272, R287 to R289, R332, R386). -/

namespace Sys2Proof.Machine

section
variable {dt slot : Nat} {c : SlotCmd} {p : List Byte} {s : State}

/-- A command that is due is one of a unit out of Reset. -/
theorem awake_of_due {a : State} {op : Nat} (hd : due a slot op c p = true) : awake a = true := by
  simp only [due, Bool.and_eq_true] at hd
  exact hd.1.1.1.1

theorem anyMode_of_awake {a : State} (ha : awake a = true) : anyMode a.sys.mode = true := by
  unfold anyMode
  split
  · simp_all [awake]
  · rfl

/-- A TARGET that a mode reaches is one of the four. -/
theorem target_le_of_reachable {m : Mode} {t : Nat} (h : reachable m t = true) : t ≤ 3 := by
  cases m <;> simp only [reachable, Bool.false_eq_true, decide_eq_true_eq] at h <;> omega

theorem identify_next (hd : due (begun dt s) slot 0x0100 c [] = true) :
    exec (.identify dt slot) s = .next (after (begun dt s) (finish c 0 (identifyBytes (begun dt s)) (begun dt s))) :=
  hostCmd_next hd (anyMode_of_awake (awake_of_due hd)) rfl rfl (by simp)

theorem status_next (hd : due (begun dt s) slot 0x0101 c [] = true) :
    exec (.status dt slot) s = .next (after (begun dt s) (finish c 0 (statusBytes (begun dt s)) (begun dt s))) :=
  hostCmd_next hd (anyMode_of_awake (awake_of_due hd)) rfl rfl (by simp)

/-- R288, R332: the wear table is saved, the response written, and Reset comes 10 us later; every other command is lost. -/
theorem reset_next (hd : due (begun dt s) slot 0x0102 c [0, 0, 0, 0] = true)
    (hm : inRun (begun dt s).sys.mode = true ∨ (begun dt s).sys.mode = .safe) (hf : (begun dt s).dike.fatal = false) :
    let b := loseCommands (finish c 0 [] (keepWear (begun dt s)))
    exec (.reset dt slot) s = .next (after (begun dt s) { b with sys := { b.sys with resetAt := some (b.tb.now + ns 10000) } }) :=
  hostCmd_next hd (by simpa [runOrSafe] using hm) rfl rfl (by simp [rsvd, fld, leNat, hf])

/-- R14, R287, R386: a TARGET that the mode reaches, where Operate is no target of a returned unit or of one that is not calibrated. -/
theorem setMode_next (hd : due (begun dt s) slot 0x0103 c p = true) (hm : inRun (begun dt s).sys.mode = true) (hp : p.length = 4)
    (hz : fld p 1 3 = 0) (hr : reachable (begun dt s).sys.mode (fld p 0 1) = true)
    (ho : fld p 0 1 = 1 → lcNow (begun dt s) ≠ .returned ∧ calibrated (begun dt s) = true) :
    let b := hold c (begun dt s)
    exec (.setMode dt slot) s = .next (after (begun dt s) { b with sys := { b.sys with
      trans := some ⟨targetMode (fld p 0 1), slot, (begun dt s).jets.round, false⟩ } }) := by
  have hlc : decide (lcNow (begun dt s) = .returned ∧ fld p 0 1 = 1) = false := decide_eq_false fun ⟨hl, h1⟩ => (ho h1).1 hl
  have hcal : (decide (fld p 0 1 = 1) && !calibrated (begun dt s)) = false := by
    by_cases h1 : fld p 0 1 = 1
    · simp [(ho h1).2]
    · simp [h1]
  refine hostCmd_next hd hm hlc rfl ?_
  simp [hp, rsvd, hz, hr, hcal, target_le_of_reachable hr]

/-- R289: KIND, BAND and COUNT that R289 gives, cells that the part has, and a deferral to be had. -/
theorem calibrate_next (hd : due (begun dt s) slot 0x0104 c p = true) (hm : (begun dt s).sys.mode = .dark)
    (hp : p.length = 4 + 2 * fld p 2 2) (hb : calBad p = false) (hc : ∀ k ∈ calCellsOf p, k < (begun dt s).part.cells)
    (hn : noDefer (begun dt s) = false) : let b := deferCmd c (begun dt s)
    exec (.calibrate dt slot) s = .next (after (begun dt s) (openEqualisers (enterMode .calibrate { b with sys := { b.sys with
      calFull := decide (fld p 0 1 = 0), calBand := bit (fld p 1 1) 0, calCells := calCellsOf p } }))) := by
  have hlen : ¬p.length < 4 := by omega
  refine hostCmd_next hd (by simp [hm]) rfl rfl ?_
  simpa [hlen, hb, hn, ← hp] using hc

end

/-- Settles O13, command by command. -/
theorem systemCommandsComplete : Obligations.SystemCommandsComplete := fun _ _ _ _ _ =>
  ⟨identify_next, status_next, reset_next, fun hd hm hp hz hr _ ho => setMode_next hd hm hp hz hr ho, calibrate_next⟩

end Sys2Proof.Machine
end

section
/-! SUPPORT. Accesses of the host's window (R262 to R265, R273, R275, R276, R278, R311). -/

namespace Sys2Proof.Machine

section
variable {dt off : Nat} {v : W32} {b hi lo op : Byte} {data : List Byte} {s : State}

/-! ### What a register's word does -/

theorem windowWrite_status : windowWrite 0x0008 v s = servePend { s with mbx := { s.mbx with
    statChg := s.mbx.statChg && !v.getLsbD 0, faultChg := s.mbx.faultChg && !v.getLsbD 1,
    ringOvf := s.mbx.ringOvf && !v.getLsbD 2, hostErr := s.mbx.hostErr && !v.getLsbD 3 } } := rfl

theorem windowWrite_doorbell : windowWrite 0x0010 v s = servePend (ringSlots v (ev 292 s)) := rfl

theorem windowWrite_complete : windowWrite 0x0014 v s = servePend (clearDone v s) := rfl

theorem windowWrite_mask : windowWrite 0x0018 v s = servePend (writeMask v s) := rfl

/-- A read-only register, or an offset that holds none, ignores the word (R264). -/
theorem windowWrite_other (h8 : off ≠ 0x0008) (h10 : off ≠ 0x0010) (h14 : off ≠ 0x0014) (h18 : off ≠ 0x0018)
    (h24 : off ≠ 0x0024) : windowWrite off v s = servePend s := by
  unfold windowWrite
  split
  · exact absurd rfl h8
  · exact absurd rfl h10
  · exact absurd rfl h14
  · exact absurd rfl h18
  · exact absurd rfl h24
  · rfl

/-- R276: a CONS that leaves an unread count of 0 to 96 is taken, and may post LOST. -/
theorem windowWrite_cons (h : (s.mbx.prod - v).toNat ≤ 96) :
    windowWrite 0x0024 v s = servePend (flushLost { s with mbx := { s.mbx with cons := v, ringArmed := true } }) :=
  congrArg servePend (if_neg (Nat.not_lt.2 h))

theorem windowWrite_cons_refused (h : 96 < (s.mbx.prod - v).toNat) :
    windowWrite 0x0024 v s = servePend { s with mbx := { s.mbx with hostErr := true } } :=
  congrArg servePend (if_pos h)

/-! ### Which accesses reach the window -/

theorem refuseAccess_eq :
    refuseAccess s = raise 187 { s with pcie := { s.pcie with urSeen := true }, out := s.out ++ [.unsupported] } := rfl

theorem registerWord_live (hl : windowLive s = true) (hp : portAsleep s = false) : registerWord off v s = windowWrite off v s := by
  simp [registerWord, hl, hp]

theorem registerWord_asleep (hp : portAsleep s = true) : registerWord off v s = refuseAccess s := if_pos hp

theorem registerWord_dead (hl : windowLive s = false) (hp : portAsleep s = false) : registerWord off v s = s := by
  simp [registerWord, hl, hp]

theorem readLost_live (hl : windowLive s = true) (hp : portAsleep s = false) :
    readLost s = { s with out := s.out ++ [.readData (s.mbx.lost.zeroExtend 32)], mbx := { s.mbx with lost := 0 } } := by
  simp [readLost, hl, hp, withMbx, emit]

theorem readLost_asleep (hp : portAsleep s = true) : readLost s = refuseAccess s := if_pos hp

theorem readLost_dead (hl : windowLive s = false) (hp : portAsleep s = false) :
    readLost s = { s with out := s.out ++ [.readData 0xFFFFFFFF] } := by
  simp [readLost, hl, hp, emit]

/-- PCIe is the port that the straps select wherever an endpoint can be asleep. -/
theorem spi_of_portAsleep (hp : portAsleep s = true) : s.sys.spi = false := by
  simp only [portAsleep, Bool.and_eq_true, Bool.not_eq_true'] at hp
  exact hp.1

theorem hostWrite_asleep (hp : portAsleep s = true) (hr : off + data.length ≤ 0x10000) : hostWrite off data s = refuseAccess s := by
  simp [hostWrite, spi_of_portAsleep hp, hp, hr]

theorem hostWrite_dead (hl : windowLive s = false) (hp : portAsleep s = false) : hostWrite off data s = s := by
  simp [hostWrite, hl, hp]

/-! ### Writes over PCIe to a live window -/

section
variable (hl : windowLive s = true) (hp : portAsleep s = false) (hs : s.sys.spi = false)
include hl hp hs

/-- R264: a register takes an aligned word. -/
theorem hostWrite_word (hd : data.length = 4) (hr : off + 4 ≤ 0x1000) (ha : off % 4 = 0) :
    hostWrite off data s = windowWrite off (BitVec.ofNat 32 (leNat data)) s := by
  have hin : ¬0x10000 < off + 4 := by omega
  have hreg : off < 0x1000 := by omega
  simp [hostWrite, hl, hp, hs, hd, ha, hin, hreg]

/-- R264: a register refuses every access but an aligned word's. -/
theorem hostWrite_misaligned (hr : off + data.length ≤ 0x10000) (hreg : off < 0x1000) (hd : data.length ≠ 4 ∨ off % 4 ≠ 0) :
    hostWrite off data s = refuseAccess s := by
  have hbad : ¬(data.length = 4 ∧ off % 4 = 0) := by omega
  simp only [hostWrite, hl, hp, hs, hreg, hbad, Nat.not_lt.2 hr]
  rfl

theorem hostWrite_memory (hm : 0x1000 ≤ off) (hr : off + data.length ≤ 0x10000) :
    hostWrite off data s = memoryWrites off data s := by
  simp [hostWrite, hl, hp, hs, Nat.not_lt.2 hm, Nat.not_lt.2 hr]

theorem hostWrite_byte (hm : 0x1000 ≤ off) (hr : off < 0x10000) : hostWrite off [b] s = memoryWrite off b s :=
  hostWrite_memory hl hp hs hm hr

end

/-! ### A byte of the window's memory -/

/-- The slots stand from 0x1000 to 0x8FFF. -/
theorem slotAt_range {n : Nat} (h : slotAt off = some n) : 0x1000 ≤ off ∧ off < 0x9000 := by
  by_contra hn
  simp [slotAt, hn] at h

theorem slotAt_eq_none (h : 0x9000 ≤ off) : slotAt off = none := if_neg (by omega)

theorem memoryWrite_slot {n : Nat} (h : slotAt off = some n) (hb : s.mbx.busy.getLsbD n = false) :
    memoryWrite off b s = { s with mbx := { s.mbx with mem := sset 0 s.mbx.mem off b } } := by
  simp [memoryWrite, h, hb, withMbx]

theorem memoryWrite_busy {n : Nat} (h : slotAt off = some n) (hb : s.mbx.busy.getLsbD n = true) :
    memoryWrite off b s = { s with mbx := { s.mbx with hostErr := true } } := by
  simp [memoryWrite, h, hb, withMbx]

theorem memoryWrite_outside (h : slotAt off = none) : memoryWrite off b s = s := by
  simp [memoryWrite, h]

/-! ### SPI transactions (R265) -/

section
variable (hs : s.sys.spi = true)
include hs

theorem spiTake_write (hl : windowLive s = true) :
    spiTake (0x02 :: hi :: lo :: data) s = spiWrite (hi.toNat * 256 + lo.toNat) [] data s := by
  simp [spiTake, hs, hl]

theorem spiTake_read (hl : windowLive s = true) : spiTake (0x03 :: hi :: lo :: data) s =
    emit (.spi (spiRead (data.length - 1) (hi.toNat * 256 + lo.toNat) none [] s).1)
      (spiRead (data.length - 1) (hi.toNat * 256 + lo.toNat) none [] s).2 := by
  simp [spiTake, hs, hl]

theorem spiTake_write_dead (hl : windowLive s = false) : spiTake (0x02 :: hi :: lo :: data) s = s := by
  simp [spiTake, hs, hl]

theorem spiTake_read_dead (hl : windowLive s = false) : spiTake (0x03 :: hi :: lo :: data) s =
    { s with out := s.out ++ [.spi (List.replicate (data.length - 1) 0xFF)] } := by
  simp [spiTake, hs, hl, emit]

/-- A command byte that is neither write nor read has no effect, however many bytes follow it. -/
theorem spiTake_other (h2 : op ≠ 0x02) (h3 : op ≠ 0x03) : spiTake (op :: data) s = s := by
  match data with
  | [] | [_] => simp [spiTake, hs]
  | _ :: _ :: _ => simp only [spiTake, hs, if_neg h2, if_neg h3, Bool.not_true, Bool.false_eq_true, if_false]

end

/-! ### The clauses of O9 -/

/-- An endpoint in D3hot refuses every access (R262, R311). -/
theorem window_refused {dt : Nat} {off : BitVec 16} (hp : portAsleep (begun dt s) = true) :
    let a := begun dt s
    let refused := after a (raise 187 { a with pcie := { a.pcie with urSeen := true }, out := a.out ++ [.unsupported] })
    exec (.mbxDoorbell dt v) s = .next refused ∧ exec (.mbxCompleteClear dt v) s = .next refused ∧
    exec (.mbxIrqMaskWrite dt v) s = .next refused ∧ exec (.mbxRingConsWrite dt v) s = .next refused ∧
    exec (.mbxRingLostRead dt) s = .next refused ∧
    (off.toNat + data.length ≤ 0x10000 → exec (.hostWindowWrite dt off data) s = .next refused) :=
  ⟨run_next (registerWord_asleep hp), run_next (registerWord_asleep hp), run_next (registerWord_asleep hp),
    run_next (registerWord_asleep hp), run_next (readLost_asleep hp), fun hr => run_next (hostWrite_asleep hp hr)⟩

/-- Before the wipe is complete, and in Reset, no access has an effect (R263, R396). -/
theorem window_dead {dt : Nat} {off : BitVec 16} (hl : windowLive (begun dt s) = false) (hp : portAsleep (begun dt s) = false) :
    let a := begun dt s
    exec (.mbxDoorbell dt v) s = .next (after a a) ∧ exec (.mbxCompleteClear dt v) s = .next (after a a) ∧
    exec (.mbxIrqMaskWrite dt v) s = .next (after a a) ∧ exec (.mbxRingConsWrite dt v) s = .next (after a a) ∧
    exec (.mbxRingLostRead dt) s = .next (after a { a with out := a.out ++ [.readData 0xFFFFFFFF] }) ∧
    exec (.hostWindowWrite dt off data) s = .next (after a a) :=
  ⟨run_next (registerWord_dead hl hp), run_next (registerWord_dead hl hp), run_next (registerWord_dead hl hp),
    run_next (registerWord_dead hl hp), run_next (readLost_dead hl hp), run_next (hostWrite_dead hl hp)⟩

end

/-- Settles O9: each access by what its port, its offset and the window's state make of it. -/
theorem windowComplete : Obligations.WindowComplete := by
  intro dt n k v off b hi lo op data s a
  refine ⟨fun hl hp => ⟨?doorbell, ?complete, ?mask, ?cons, ?consRefused, ?lost, fun hs => ?pcie⟩, windowWrite_status,
    windowWrite_other, fun hs => ?spi, window_refused, window_dead⟩
  case doorbell => exact run_next ((registerWord_live hl hp).trans windowWrite_doorbell)
  case complete => exact run_next ((registerWord_live hl hp).trans windowWrite_complete)
  case mask => exact run_next ((registerWord_live hl hp).trans windowWrite_mask)
  case cons => exact fun hc => run_next ((registerWord_live hl hp).trans (windowWrite_cons hc))
  case consRefused => exact fun hc => run_next ((registerWord_live hl hp).trans (windowWrite_cons_refused hc))
  case lost => exact run_next (readLost_live hl hp)
  case pcie =>
    refine ⟨fun hd hr ha => run_next (hostWrite_word hl hp hs hd hr ha),
      fun hr hreg hd => run_next (hostWrite_misaligned hl hp hs hr hreg hd), fun hm hr => run_next (hostWrite_memory hl hp hs hm hr),
      fun hn hb => ?_, fun hn hb => ?_, fun hm => ?_⟩
    · exact run_next ((hostWrite_byte hl hp hs (slotAt_range hn).1 off.isLt).trans (memoryWrite_slot hn hb))
    · exact run_next ((hostWrite_byte hl hp hs (slotAt_range hn).1 off.isLt).trans (memoryWrite_busy hn hb))
    · exact run_next ((hostWrite_byte hl hp hs (by omega) off.isLt).trans (memoryWrite_outside (slotAt_eq_none hm)))
  case spi =>
    exact ⟨fun hl => run_next (spiTake_write hs hl), fun hl => run_next (spiTake_read hs hl),
      fun hl => ⟨run_next (spiTake_write_dead hs hl), run_next (spiTake_read_dead hs hl)⟩,
      fun h2 h3 => run_next (spiTake_other hs h2 h3)⟩

end Sys2Proof.Machine
end

section
/-! SUPPORT. Acceptance and the barrier (R270, R274, R371). -/

namespace Sys2Proof.Machine

section
variable {n code : Nat} {s : State}

/-- R270's first frame check: a LENGTH above 4,080 is answered whatever the payload. -/
theorem frameFails_long {h p : List Byte} (hl : 4080 < fld h 4 4) : frameFails s h p = some 0x10 := if_pos hl

theorem acceptSlot_long (hl : 4080 < fld (slotHeader s n) 4 4) :
    acceptSlot n s = respond n (fld (slotHeader s n) 0 2) (fld (slotHeader s n) 2 2) 0x10 []
      { s with mbx := { s.mbx with rung := setBit s.mbx.rung n false } } := by
  simp [acceptSlot, frameFails_long hl, withMbx]

/-- A frame that fails a check is answered at once with the check's code. -/
theorem acceptSlot_fails (hl : fld (slotHeader s n) 4 4 ≤ 4080)
    (hf : frameFails { s with mbx := { s.mbx with rung := setBit s.mbx.rung n false } } (slotHeader s n) (slotPayload s n) = some code) :
    acceptSlot n s = respond n (fld (slotHeader s n) 0 2) (fld (slotHeader s n) 2 2) code []
      { s with mbx := { s.mbx with rung := setBit s.mbx.rung n false } } := by
  simp [acceptSlot, Nat.not_lt.2 hl, hf, withMbx]

/-- A slot's frame as the command that it becomes (R270). -/
def cmdOfSlot (n : Nat) (s : State) : SlotCmd :=
  let h := slotHeader s n
  { slot := n, opcode := fld h 0 2, seq := BitVec.ofNat 16 (fld h 2 2), notify := bit (fld h 8 4) 0,
    barrier := bit (fld h 8 4) 1 && !s.mbx.cmds.isEmpty, acc := s.tb.now }

/-- A frame that passes becomes the slot's command; a CONNECT or CONFIG_APPLY may be tagged. -/
theorem acceptSlot_sound (hl : fld (slotHeader s n) 4 4 ≤ 4080)
    (hf : frameFails { s with mbx := { s.mbx with rung := setBit s.mbx.rung n false } } (slotHeader s n) (slotPayload s n) = none) :
    let b := { s with mbx := { s.mbx with rung := setBit s.mbx.rung n false, cmds := s.mbx.cmds ++ [cmdOfSlot n s] } }
    acceptSlot n s =
      if fld (slotHeader s n) 0 2 = 0x0202 ∨ fld (slotHeader s n) 0 2 = 0x0206 then tagEnter (some n) none b else b := by
  simp [acceptSlot, cmdOfSlot, Nat.not_lt.2 hl, hf, withMbx]

theorem acceptAll_served (h : served s 0x0100 = true) :
    acceptAll s = forEach (ones 8 s.mbx.rung) s fun s n => acceptSlot n s := if_pos h

/-- R274: a barrier falls once its command is the first still due. -/
theorem startBarrier_of_first {c : SlotCmd} (hc : cmdAt s n = some c) (hb : c.barrier = true)
    (hf : s.mbx.cmds.takeWhile (· != c) = []) :
    startBarrier n s = { s with mbx := { s.mbx with
      cmds := s.mbx.cmds.map fun x => if x = c then { x with barrier := false } else x } } := by
  simp [startBarrier, hc, hb, hf, withMbx]

end

/-- Settles O10: acceptance slot by slot, and the barrier's fall. -/
theorem acceptanceCompletes : Obligations.AcceptanceCompletes := by
  intro dt n code c s a ha _
  refine ⟨fun hs => ?accept, fun u => ⟨acceptSlot_long, acceptSlot_fails, acceptSlot_sound⟩, fun hc hb hf => ?barrier⟩
  case accept => exact acceptAll_served hs ▸ live_next ha
  case barrier => exact startBarrier_of_first hc hb hf ▸ live_next ha

end Sys2Proof.Machine
end

section
/-! SUPPORT. The step and the checks of a host command (R285). -/

namespace Sys2Proof.Machine

/-- Settles O1: the two cases of the queue. -/
theorem stepTakesTheFrontCommand : Obligations.StepTakesTheFrontCommand := fun _ => ⟨fun _ _ => step_cons, step_nil⟩

/-! ### The first failed check -/

section
variable {q : Req} {s : State} {p : List Byte}

theorem Req.fails_mode (hm : q.modes s.sys.mode = false) : q.fails s p = some 3 := by
  simp [Req.fails, hm]

theorem Req.fails_lifeCycle (hm : q.modes s.sys.mode = true) (hl : q.lcBad s p = true) : q.fails s p = some 7 := by
  simp [Req.fails, hm, hl]

theorem Req.fails_role (hm : q.modes s.sys.mode = true) (hl : q.lcBad s p = false) (hr : q.roles s.sys.role = false) :
    q.fails s p = some 4 := by
  simp [Req.fails, hm, hl, hr]

theorem Req.fails_busy (hm : q.modes s.sys.mode = true) (hl : q.lcBad s p = false) (hr : q.roles s.sys.role = true)
    (hb : busyNow s q.opcode = true) : q.fails s p = some 5 := by
  simp [Req.fails, hm, hl, hr, hb]

end

/-- Settles O11: a failed check is answered with its code, and each of the four is the first to fail where those before it pass. -/
theorem checksInOrder : Obligations.ChecksInOrder := by
  intro q dt slot c effect s a p answer ha hs hk
  have answered : ∀ {code}, q.fails a p = some code → answer code := hostCmd_fails ha hs hk
  exact ⟨fun hm => answered (Req.fails_mode hm), fun hm hl => answered (Req.fails_lifeCycle hm hl),
    fun hm hl hr => answered (Req.fails_role hm hl hr), fun hm hl hr hb => answered (Req.fails_busy hm hl hr hb)⟩

end Sys2Proof.Machine
end

section
/-! SUPPORT. The fault commands and injections (R304, R305, R325 to R328). -/

namespace Sys2Proof.Machine

/-! ### Payload bytes -/

theorem fld_byte_lt (p : List Byte) (off : Nat) : fld p off 1 < 256 := by
  unfold fld
  rcases p.drop off with _ | ⟨b, t⟩
  · exact Nat.zero_lt_succ _
  · exact b.isLt

theorem toNat_fld_byte (p : List Byte) (off : Nat) : (BitVec.ofNat 8 (fld p off 1)).toNat = fld p off 1 :=
  Nat.mod_eq_of_lt (fld_byte_lt p off)

/-- A flag's byte of a payload, as its bit and as its number. -/
theorem bit_of_le_one {n : Nat} (h : n ≤ 1) : bit n 0 = decide (n = 1) := by
  interval_cases n <;> rfl

/-- The set *run + Safe*. -/
theorem runOrSafe_iff {m : Mode} : runOrSafe m = true ↔ inRun m = true ∨ m = .safe := by simp [runOrSafe]

/-! ### An injection -/

section
variable {c : SlotCmd} {n k : BitVec 8} {v : W32} {a : State}

theorem beginInjection_of_ne (h : a.part ≠ .kx256) : beginInjection c n k a = finish c 0 [] (startInjection n k none a) := if_pos h

/-- R327: on the Kolox 256 the command runs as long as its injection. -/
theorem beginInjection_of_short (h : a.part = .kx256) (hk : k.toNat ≤ 100) :
    beginInjection c n k a = startInjection n k (some c.slot) (hold c a) := by
  simp [beginInjection, h, Nat.not_lt.2 hk]

theorem beginInjection_of_long (h : a.part = .kx256) (hk : 100 < k.toNat) :
    beginInjection c n k a = deferCmd c (startInjection n k none a) := by
  simp [beginInjection, h, hk]

/-! ### A write of DIKE_INJ (R328) -/

theorem writeInj_of_reserved (hc : a.pwr.refclk = true)
    (h : srcCheck (v.extractLsb' 0 8).toNat = false ∨ srcAbsent a.part (v.extractLsb' 0 8).toNat = true ∨ v.extractLsb' 8 8 = 0) :
    writeInj v a = emit .busError a := by
  have hbad : (!srcCheck (v.extractLsb' 0 8).toNat || srcAbsent a.part (v.extractLsb' 0 8).toNat ||
      decide (v.extractLsb' 8 8 = 0)) = true := by
    simpa [or_assoc] using h
  unfold writeInj
  rw [if_neg (by simp [hc])]
  exact if_pos hbad

section
variable (hc : a.pwr.refclk = true) (hs : srcCheck (v.extractLsb' 0 8).toNat = true)
  (ha : srcAbsent a.part (v.extractLsb' 0 8).toNat = false) (hk : v.extractLsb' 8 8 ≠ 0)
include hc hs ha hk

theorem writeInj_of_sound : writeInj v a =
    if (v.getLsbD 31 && canInject a) = true then startInjection (v.extractLsb' 0 8) (v.extractLsb' 8 8) none a
    else { a with dike := { a.dike with injSrc := v.extractLsb' 0 8, injCount := v.extractLsb' 8 8 } } := by
  have hgood : ¬(!srcCheck (v.extractLsb' 0 8).toNat || srcAbsent a.part (v.extractLsb' 0 8).toNat ||
      decide (v.extractLsb' 8 8 = 0)) = true := by
    simp only [hs, ha, hk, decide_false, Bool.not_true, Bool.or_false, Bool.false_eq_true, not_false_iff]
  unfold writeInj
  rw [if_neg (by simp [hc])]
  exact if_neg hgood

/-- Without GO, or where the part may not inject, SOURCE and COUNT are kept. -/
theorem writeInj_of_idle (h : v.getLsbD 31 = false ∨ canInject a = false) : writeInj v a =
    { a with dike := { a.dike with injSrc := v.extractLsb' 0 8, injCount := v.extractLsb' 8 8 } } :=
  (writeInj_of_sound hc hs ha hk).trans (if_neg (by simpa [or_iff_not_imp_left] using h))

theorem writeInj_of_go (hg : v.getLsbD 31 = true) (hi : canInject a = true) :
    writeInj v a = startInjection (v.extractLsb' 0 8) (v.extractLsb' 8 8) none a :=
  (writeInj_of_sound hc hs ha hk).trans (if_pos (by simp [hg, hi]))

end

end

/-! ### The commands -/

section
variable {dt slot : Nat} {c : SlotCmd} {p : List Byte} {s : State}

theorem faultRead_next (hd : due (begun dt s) slot 0x0900 c [] = true)
    (hm : inRun (begun dt s).sys.mode = true ∨ (begun dt s).sys.mode = .safe) :
    exec (.faultRead dt slot) s = .next (after (begun dt s) (finish c 0 (sourceBytes (begun dt s).dike (·.sticky) ++
      sourceBytes (begun dt s).dike (·.lasting) ++ le 4 (summaryWord (begun dt s).dike).toNat ++ zeros 4) (begun dt s))) :=
  hostCmd_next hd (runOrSafe_iff.mpr hm) rfl rfl (by simp)

/-- R325: the sources that the payload's bits name. -/
theorem faultClear_next (hd : due (begun dt s) slot 0x0901 c p = true) (hm : inRun (begun dt s).sys.mode = true) (hp : p.length = 24) :
    let b := forEach ((List.range 192).filter fun n => bit (fld p (n / 8) 1) (n % 8)) (begun dt s) fun s n => clearSource n s
    exec (.faultClear dt slot) s = .next (after (begun dt s) (finish c 0 (sourceBytes b.dike (·.sticky)) b)) :=
  hostCmd_next hd hm rfl rfl (by simp [hp])

/-- R316, R322, R328: a source of the part that is not the Dike's own, MASK of a MINOR one alone. -/
theorem faultCfg_next (hd : due (begun dt s) slot 0x0902 c p = true) (hm : inRun (begun dt s).sys.mode = true) (hp : p.length = 8)
    (hz : fld p 5 3 = 0) (hmask : fld p 1 1 ≤ 1) (hlo : 3 < fld p 0 1) (hhi : fld p 0 1 < 192)
    (hs : srcAbsent (begun dt s).part (fld p 0 1) = false) (hw : fld p 2 2 ≠ 0) (ht : fld p 4 1 ≠ 0)
    (hc : fld p 1 1 = 1 → srcClass (fld p 0 1) = .minor) :
    exec (.faultCfg dt slot) s = .next (after (begun dt s) (finish c 0 [] (configSource (fld p 0 1) (BitVec.ofNat 16 (fld p 2 2))
      (BitVec.ofNat 8 (fld p 4 1)) (decide (fld p 1 1 = 1)) (begun dt s)))) := by
  rw [← bit_of_le_one hmask]
  exact hostCmd_next hd hm rfl rfl (by simpa [hp, rsvd, hz, hmask, hlo, hhi, hs, hw, ht] using hc)

section
variable (hd : due (begun dt s) slot 0x0903 c p = true) (hm : (begun dt s).sys.mode = .maintenance) (hp : p.length = 4)
  (hz : fld p 2 2 = 0) (hn : fld p 0 1 < 192) (hk : fld p 1 1 ≠ 0) (hs : srcAbsent (begun dt s).part (fld p 0 1) = false)
  (hc : srcCheck (fld p 0 1) = true)
include hd hm hp hz hn hk hs hc

/-- R326, R327: a source with a checker, and a deferral to be had where the injection outlasts 100 ms. -/
theorem faultInject_next (hi : canInject (begun dt s) = true)
    (hf : (begun dt s).part = .kx256 → 100 < fld p 1 1 → noDefer (begun dt s) = false) :
    exec (.faultInject dt slot) s = .next (after (begun dt s)
      (beginInjection c (BitVec.ofNat 8 (fld p 0 1)) (BitVec.ofNat 8 (fld p 1 1)) (begun dt s))) := by
  refine hostCmd_next hd (by simp [hm]) (by simp [hi]) rfl ?_
  simpa [hp, rsvd, hz, Nat.not_le.2 hn, hk, hs, hc] using hf

theorem faultInject_finishes (hpart : (begun dt s).part ≠ .kx256) :
    exec (.faultInject dt slot) s = .next (after (begun dt s)
      (finish c 0 [] (startInjection (BitVec.ofNat 8 (fld p 0 1)) (BitVec.ofNat 8 (fld p 1 1)) none (begun dt s)))) :=
  beginInjection_of_ne (c := c) hpart ▸
    faultInject_next hd hm hp hz hn hk hs hc (by simp [canInject, hpart]) fun h => absurd h hpart

/-- R327: the Kolox 256 injects in FACTORY. -/
theorem faultInject_runs (hpart : (begun dt s).part = .kx256) (hl : lcNow (begun dt s) = .factory) :
    let n := BitVec.ofNat 8 (fld p 0 1)
    let k := BitVec.ofNat 8 (fld p 1 1)
    (fld p 1 1 ≤ 100 →
      exec (.faultInject dt slot) s = .next (after (begun dt s) (startInjection n k (some slot) (hold c (begun dt s))))) ∧
    (100 < fld p 1 1 → noDefer (begun dt s) = false →
      exec (.faultInject dt slot) s = .next (after (begun dt s) (deferCmd c (startInjection n k none (begun dt s))))) := by
  have taken := faultInject_next hd hm hp hz hn hk hs hc (by simp [canInject, hl])
  have hcount := toNat_fld_byte p 1
  obtain ⟨rfl, -, -⟩ := due_slot hd
  refine ⟨fun hshort => ?_, fun hlong hf => ?_⟩
  · rw [taken fun _ h => absurd hshort (Nat.not_le.2 h), beginInjection_of_short hpart (hcount.trans_le hshort)]
  · rw [taken fun _ _ => hf, beginInjection_of_long hpart (hlong.trans_eq hcount.symm)]

end

end

/-- Settles O47, command by command; of a write of DIKE_INJ, form by form. -/
theorem faultCommandsComplete : Obligations.FaultCommandsComplete := by
  intro dt slot c p v s a
  refine ⟨faultRead_next, faultClear_next, faultCfg_next,
    fun hd hm hpart hp hz hn hk hs hc => faultInject_finishes hd hm hp hz hn hk hs hc hpart,
    fun hd hm hpart hl hp hz hn hk hs hc => faultInject_runs hd hm hp hz hn hk hs hc hpart hl,
    fun ha hclk => ⟨fun hbad => ?reserved, fun hs hb hk => ⟨fun hidle => ?idle, fun hg hi => ?go⟩⟩, fun ha hf => ?lock⟩
  case reserved => exact live_next_of_effect ha (writeInj_of_reserved hclk hbad)
  case idle => exact live_next_of_effect ha (writeInj_of_idle hclk hs hb hk hidle)
  case go => exact live_next_of_effect ha (writeInj_of_go hclk hs hb hk hg hi)
  case lock => exact live_next_of_effect ha (if_pos hf)

end Sys2Proof.Machine
end

section
/-! SUPPORT. The diagnostic commands (R306, R307, R332, R344, R348, R367 to R371). -/

namespace Sys2Proof.Machine

section
variable {dt slot : Nat} {c : SlotCmd} {p : List Byte} {s : State}

/-! ### Capture (R306) -/

/-- A capture of loops that the part has, outside the throttle. -/
theorem captureStart_next (hd : due (begun dt s) slot 0x0A00 c p = true) (hm : (begun dt s).sys.mode = .maintenance)
    (hp : p.length = 12) (hz : fld p 10 2 = 0) (hlo : 1 ≤ fld p 2 2) (hhi : fld p 2 2 ≤ 2560)
    (hl : fld p 0 2 + fld p 2 2 ≤ (begun dt s).part.loops) (hdec : fld p 4 2 ≠ 0) (ht : fld p 6 1 ≤ 1) (hw : fld p 7 1 ≤ 1)
    (hslo : 1 ≤ fld p 8 2) (hshi : fld p 8 2 ≤ 2048) (hth : (begun dt s).sys.throttle = false) :
    let v : Capture := { first := fld p 0 2, count := fld p 2 2, decim := fld p 4 2, trig := decide (fld p 6 1 = 1),
                         wrapMode := decide (fld p 7 1 = 1), sizeMib := fld p 8 2, running := !decide (fld p 6 1 = 1),
                         waiting := decide (fld p 6 1 = 1) }
    exec (.captureStart dt slot) s = .next (after (begun dt s) (finish c 0 []
      { begun dt s with plat := { (begun dt s).plat with capture := v } })) := by
  have hr : ¬(fld p 2 2 < 1 ∨ 2560 < fld p 2 2 ∨ (begun dt s).part.loops < fld p 0 2 + fld p 2 2 ∨ fld p 4 2 = 0 ∨ 1 < fld p 6 1 ∨
      1 < fld p 7 1 ∨ fld p 8 2 < 1 ∨ 2048 < fld p 8 2) := by omega
  refine hostCmd_next hd (by simp [hm]) rfl rfl ?_
  simp only [hr, decide_false, List.forall_mem_cons]
  simp [hp, rsvd, hz, hth]

theorem captureStop_next (hd : due (begun dt s) slot 0x0A01 c [0, 0, 0, 0] = true) (hm : (begun dt s).sys.mode = .maintenance) :
    let v := (stopCapture (begun dt s)).plat.capture
    exec (.captureStop dt slot) s = .next (after (begun dt s) (finish c 0 (le 8 (min (2 ^ 64 - 1) v.records) ++
      le 4 (min 0xFFFFFFFF v.rounds) ++ le 1 (flag v.wrapped) ++ zeros 3) (stopCapture (begun dt s)))) :=
  hostCmd_next hd (by simp [hm]) rfl rfl (by simp [rsvd, fld, leNat])

theorem captureRead_next (hd : due (begun dt s) slot 0x0A02 c p = true)
    (hm : inRun (begun dt s).sys.mode = true ∨ (begun dt s).sys.mode = .safe) (hp : p.length = 12) (ho : fld p 0 8 % 16 = 0)
    (hn : fld p 8 4 % 16 = 0) (hlo : 16 ≤ fld p 8 4) (hhi : fld p 8 4 ≤ 4064) :
    exec (.captureRead dt slot) s = .next (after (begun dt s)
      (finish c 0 (mread (begun dt s).plat.capture.mem (fld p 0 8) (fld p 8 4)) (begun dt s))) :=
  hostCmd_next hd (runOrSafe_iff.mpr hm) rfl rfl (by simp [hp, ho, hn, hlo, hhi])

/-! ### Test injection (R307) -/

section
variable (hd : due (begun dt s) slot 0x0A03 c p = true) (hm : (begun dt s).sys.mode = .maintenance) (hp : p.length = 16)
  (hz : fld p 5 1 = 0) (hl : fld p 2 2 < (begun dt s).part.loops)
include hd hm hp hz hl

/-- A signal of a Jet's generator, on a loop that carries no path. -/
theorem inject_signal (hk : fld p 0 1 = 0) (hw : fld p 1 1 ≤ 1) (ht : fld p 4 1 = 0) (ha : fld p 6 2 ≤ 4095) (hf : fld p 8 4 ≤ 2 ^ 22)
    (hon : onPath (begun dt s) (fld p 2 2) = false) :
    exec (.inject dt slot) s = .next (after (begun dt s) (finish c 0 [] (startTest c p (begun dt s)))) := by
  have hw' : fld p 1 1 ≤ 3 := by omega
  refine hostCmd_next_of_effect hd (by simp [hm]) rfl rfl ?_ (by rw [if_pos hk])
  simpa [hp, rsvd, hz, hl, hk, hw, hw', ht, ha, hon] using hf

/-- A current of a well, into a tap of a cell that carries no path. -/
theorem inject_current (hk : fld p 0 1 = 1) (hw : fld p 1 1 = 0) (hcell : fld p 2 2 < (begun dt s).part.cells) (ht : fld p 4 1 ≤ 1)
    (ha : fld p 6 2 ≤ 15) (hf : fld p 8 4 = 0) (hon : onPath (begun dt s) (fld p 2 2) = false) :
    exec (.inject dt slot) s = .next (after (begun dt s) (finish c 0 [] (startCurrent c p (begun dt s)))) := by
  refine hostCmd_next_of_effect hd (by simp [hm]) rfl rfl ?_ (by rw [if_neg (by simp [hk]), if_pos hk])
  simp [hp, rsvd, hz, hl, hk, hw, hcell, ht, ha, hf, hon]

/-- A stop names a live loop too. -/
theorem inject_stop (hk : fld p 0 1 = 2) (hw : fld p 1 1 = 0) (ht : fld p 4 1 = 0) (hf : fld p 8 4 = 0) :
    exec (.inject dt slot) s =
      .next (after (begun dt s) (finish c 0 [] (stopOn (fld p 2 2) (fun _ => true) (begun dt s)))) := by
  refine hostCmd_next_of_effect hd (by simp [hm]) rfl rfl ?_ (by rw [if_neg (by simp [hk]), if_neg (by simp [hk])])
  simp [hp, rsvd, hz, hl, hk, hw, ht, hf]

end

/-! ### Temperature and wear (R332, R344, R348) -/

theorem tempRead_next (hd : due (begun dt s) slot 0x0A04 c [] = true)
    (hm : inRun (begun dt s).sys.mode = true ∨ (begun dt s).sys.mode = .safe) : let b := hold c (begun dt s)
    exec (.tempRead dt slot) s =
      .next (after (begun dt s) { b with temp := { b.temp with busy := true, waiting := b.temp.waiting ++ [slot] } }) :=
  hostCmd_next hd (runOrSafe_iff.mpr hm) rfl rfl (by simp)

theorem tempCfg_next (hd : due (begun dt s) slot 0x0A05 c p = true) (hm : inRun (begun dt s).sys.mode = true) (hp : p.length = 12)
    (hb : tempCfgBad p = false) : let rate := decide (fld p 1 1 = 1)
    exec (.tempCfg dt slot) s = .next (after (begun dt s) (finish c 0 [] (modGroup (fld p 0 1) (fun g =>
      { g with rateMode := rate, interval := fld p 2 2, warn := sgn 16 (fld p 4 2), thr := sgn 16 (fld p 6 2),
               hyst := sgn 16 (fld p 8 2), period := fld p 10 2, fresh := g.fresh || g.rateMode != rate,
               since := if rate && !g.rateMode then (begun dt s).tb.now else g.since }) (begun dt s)))) :=
  hostCmd_next hd hm rfl rfl (by simp [hp, hb])

theorem wearRead_next (hd : due (begun dt s) slot 0x0A06 c p = true)
    (hm : inRun (begun dt s).sys.mode = true ∨ (begun dt s).sys.mode = .safe) (hp : p.length = 4) (hlo : 1 ≤ fld p 2 2)
    (hhi : fld p 2 2 ≤ 254) (hc : fld p 0 2 + fld p 2 2 ≤ (begun dt s).part.cells) :
    exec (.wearRead dt slot) s = .next (after (begun dt s)
      (finish c 0 ((List.range (fld p 2 2)).flatMap fun i => wearBytes (begun dt s) (fld p 0 2 + i)) (begun dt s))) :=
  hostCmd_next hd (runOrSafe_iff.mpr hm) rfl rfl (by simp [hp, hhi, hc, Nat.one_le_iff_ne_zero.mp hlo])

/-! ### Performance monitor (R367 to R371) -/

section
variable (hd : due (begun dt s) slot 0x0A07 c p = true) (hm : inRun (begun dt s).sys.mode = true) (hp : p.length = 16)
  (hz : fld p 2 2 = 0) (hz' : fld p 15 1 = 0) (hn : fld p 0 1 ≤ 63)
include hd hm hp hz hz' hn

/-- Action 0 configures a counter. -/
theorem pmonSet_configures (ha : fld p 1 1 = 0) (hs : selectOk (sub p 4 12) = true) :
    exec (.pmonSet dt slot) s = .next (after (begun dt s) (finish c 0 [] (configPmon (fld p 0 1) (sub p 4 12) (begun dt s)))) :=
  hostCmd_next_of_effect hd hm rfl rfl (by simp [hp, rsvd, hz, hz', hn, ha, hs]) (by simp only [ha])

/-- Action 3 takes a snapshot. -/
theorem pmonSet_snapshots (ha : fld p 1 1 = 3) :
    exec (.pmonSet dt slot) s = .next (after (begun dt s) (finish c 0 [] (pmonSnapshot (begun dt s)))) :=
  hostCmd_next_of_effect hd hm rfl rfl (by simp [hp, rsvd, hz, hz', hn, ha]) (by simp only [ha])

end

theorem pmonRead_next (hd : due (begun dt s) slot 0x0A08 c p = true)
    (hm : inRun (begun dt s).sys.mode = true ∨ (begun dt s).sys.mode = .safe) (hp : p.length = 4) (hz : fld p 3 1 = 0)
    (hlo : 1 ≤ fld p 1 1) (hhi : fld p 1 1 ≤ 64) (hn : fld p 0 1 + fld p 1 1 ≤ 64) (hsnap : fld p 2 1 = 0) :
    exec (.pmonRead dt slot) s = .next (after (begun dt s) (finish c 0 ((List.range (fld p 1 1)).flatMap fun i =>
      let v : Pmon := sget {} (begun dt s).plat.pmon (fld p 0 1 + i)
      le 6 v.value.toNat ++ le 1 (flag v.wrap) ++ zeros 1) (begun dt s))) :=
  hostCmd_next_of_effect hd (runOrSafe_iff.mpr hm) rfl rfl
    (by simp [hp, rsvd, hz, hhi, hn, hsnap, Nat.one_le_iff_ne_zero.mp hlo]) (by simp only [hsnap, if_true])

end

/-- Settles O52, command by command. -/
theorem diagnosticsComplete : Obligations.DiagnosticsComplete := fun _ _ _ _ _ =>
  ⟨captureStart_next, captureStop_next, captureRead_next,
    fun hd hm hp hz hl => ⟨inject_signal hd hm hp hz hl, inject_current hd hm hp hz hl, inject_stop hd hm hp hz hl⟩,
    fun ha => live_next ha, tempRead_next, tempCfg_next, wearRead_next,
    fun hd hm hp hz hz' hn => ⟨pmonSet_configures hd hm hp hz hz' hn, pmonSet_snapshots hd hm hp hz hz' hn⟩, pmonRead_next⟩

end Sys2Proof.Machine
end

section
/-! SUPPORT. The security commands (R308, R379, R381 to R384, R386 to R389). -/

namespace Sys2Proof.Machine

/-! ### A stored image (R381) -/

@[simp] theorem slotImage_writeSlot (b : List Byte) (p : Pld) : slotImage (writeSlot b p) (!p.slotUsed) = b := by
  cases h : p.slotUsed <;> simp [writeSlot, slotImage, h]

@[simp] theorem writeSlot_slotUsed (b : List Byte) (p : Pld) : (writeSlot b p).slotUsed = p.slotUsed := by
  unfold writeSlot
  split <;> rfl

@[simp] theorem slotImage_preferNew (p : Pld) (one : Bool) : slotImage (preferNew p) one = slotImage p one := by
  unfold preferNew
  dsimp only
  split <;> rfl

/-- Flash that reads back what was written: the image is stored and preferred. -/
theorem storeImage_same (b : List Byte) (p : Pld) : storeImage b b p = (preferNew (writeSlot b p), true) := by
  simp [storeImage]

/-- The verified image, where it reads back as written, answers the deferred command. -/
theorem activateDone_of_valid {a : State} {c : SlotCmd} {back : Option (List Byte)} (hf : fwLive a = true)
    (hs : a.sec.fwSlot.isSome = true) (hc : deferredCmd a 0x0B04 = some c)
    (hi : imageOk a.part a.pld (mread a.sec.staging 0 a.sec.fwLen) = true) :
    let i := mread a.sec.staging 0 a.sec.fwLen
    let x := storeImage i (back.getD i) a.pld
    let b := { a with sec := { a.sec with fwSlot := none }, pld := x.1 }
    activateDone back a = if x.2 then finish c 0 [] b else failCmd c 0x20 b := by
  unfold activateDone
  rw [if_pos (by simp [hf, hs]), hc]
  exact if_pos hi

/-! ### The commands -/

section
variable {dt slot : Nat} {c : SlotCmd} {p : List Byte} {s : State}

section
variable {bad : Nat} (hd : due (begun dt s) slot 0x0B00 c p = true) (hm : inRun (begun dt s).sys.mode = true)
  (hl : lcNow (begun dt s) ≠ .factory) (hs : secretless (lcNow (begun dt s)) = false) (hu : attUsable (begun dt s).pld = true)
  (hp : p.length = 32) (hn : (begun dt s).pld.attNext + bad < 1048576)
include hd hm hl hs hu hp hn

/-- R382 to R384: the statement is signed with the next index whose OTP bit can be programmed. -/
theorem attest_signed : let i := (begun dt s).pld.attNext + bad
    let st := statementBytes (begun dt s) p i
    let b := { begun dt s with pld := { (begun dt s).pld with attNext := i + 1 } }
    exec (.attest dt slot ⟨bad, false⟩) s = .next (after (begun dt s) (finish c 0 (st ++ le 4 i ++ le 4 5076)
      { b with sec := { b.sec with sig := hssSign (begun dt s).pld.attSeed (begun dt s).pld.attId i st } })) :=
  hostCmd_next_of_effect hd hm (by simp [hl, hs, hu]) rfl (by simp [hp, hn]) rfl

/-- R384: a Reset between programming and signing spends the index. -/
theorem attest_cut : let i := (begun dt s).pld.attNext + bad
    exec (.attest dt slot ⟨bad, true⟩) s =
      .next (after (begun dt s) (softReset { begun dt s with pld := { (begun dt s).pld with attNext := i + 1 } })) :=
  hostCmd_next_of_effect hd hm (by simp [hl, hs, hu]) rfl (by simp [hp, hn]) rfl

end

theorem attestRead_next (hd : due (begun dt s) slot 0x0B01 c p = true) (hm : inRun (begun dt s).sys.mode = true) (hp : p.length = 4)
    (hlo : 1 ≤ fld p 2 2) (hhi : fld p 2 2 ≤ 4064) (hend : fld p 0 2 + fld p 2 2 ≤ 5076) :
    exec (.attestRead dt slot) s = .next (after (begun dt s)
      (finish c 0 (pad (fld p 2 2) (sub (begun dt s).sec.sig (fld p 0 2) (fld p 2 2))) (begun dt s))) :=
  hostCmd_next hd hm rfl rfl (by simp [hp, hhi, hend, Nat.one_le_iff_ne_zero.mp hlo])

theorem measureRead_next (hd : due (begun dt s) slot 0x0B02 c [] = true) (hm : inRun (begun dt s).sys.mode = true) :
    exec (.measureRead dt slot) s = .next (after (begun dt s)
      (finish c 0 (le 1 (begun dt s).pld.log.length ++ zeros 3 ++ logBytes (begun dt s).pld) (begun dt s))) :=
  hostCmd_next hd hm rfl rfl (by simp)

/-- R308: whole lines of 16 bytes inside the staging image. -/
theorem fwWrite_next (hd : due (begun dt s) slot 0x0B03 c p = true) (hm : inSvc (begun dt s).sys.mode = true) (hlo : 24 ≤ p.length)
    (hn : (p.length - 8) % 16 = 0) (hhi : p.length ≤ 4072) (hz : fld p 4 4 = 0) (ho : fld p 0 4 % 16 = 0)
    (hend : fld p 0 4 + (p.length - 8) ≤ 0x400000) :
    exec (.fwWrite dt slot) s = .next (after (begun dt s) (finish c 0 [] { begun dt s with sec := { (begun dt s).sec with
      staging := mwrite (begun dt s).sec.staging (fld p 0 4) (p.drop 8) } })) := by
  have hlen : ¬(p.length < 24 ∨ (p.length - 8) % 16 ≠ 0 ∨ 4064 < p.length - 8) := by omega
  have hoff : ¬(fld p 0 4 % 16 ≠ 0 ∨ 0x400000 < fld p 0 4 + (p.length - 8)) := by omega
  refine hostCmd_next hd hm rfl rfl ?_
  simp only [hlen, hoff, decide_false, List.forall_mem_cons]
  simp [rsvd, hz]

theorem fwActivate_next (hd : due (begun dt s) slot 0x0B04 c p = true) (hm : inSvc (begun dt s).sys.mode = true) (hp : p.length = 8)
    (hz : fld p 4 4 = 0) (hlen : fld p 0 4 ≤ 0x400000) (hf : noDefer (begun dt s) = false) : let b := deferCmd c (begun dt s)
    exec (.fwActivate dt slot) s =
      .next (after (begun dt s) { b with sec := { b.sec with fwLen := fld p 0 4, fwSlot := some slot } }) :=
  hostCmd_next hd hm rfl rfl (by simp [hp, rsvd, hz, hlen, hf])

/-- R386 to R389: a transition of the table with the AUTH that it needs; the wear table is saved, and Reset follows the response. -/
theorem lcTransition_next {t : Lc} (hd : due (begun dt s) slot 0x0B05 c p = true) (hm : (begun dt s).sys.mode = .dark)
    (ht : lcTarget (fld p 0 1) = some t) (hl : lcMoves (begun dt s) t = true) (hp : p.length = 36) (hz : fld p 1 3 = 0)
    (ha : authOk (begun dt s) t (sub p 4 32) = true) :
    let b := keepWear (begun dt s)
    let d := finish c 0 [] { b with pld := writeLc t b.pld }
    exec (.lcTransition dt slot) s =
      .next (after (begun dt s) { d with sys := { d.sys with resetAt := some (d.tb.now + ns 10000) } }) := by
  refine hostCmd_next_of_effect hd (by simp [hm]) (by simp [ht, hl]) rfl (by simp [hp, rsvd, hz, ht, ha]) ?_
  simp only [ht]
  rfl

end

/-- Settles O54, command by command. -/
theorem securityCommandsComplete : Obligations.SecurityCommandsComplete := by
  intro dt slot bad back c p to_ s a
  refine ⟨fun hd hm hl hs hu hp hn => ⟨attest_signed hd hm hl hs hu hp hn, attest_cut hd hm hl hs hu hp hn⟩, attestRead_next,
    measureRead_next, fwWrite_next, fwActivate_next, ?activated, lcTransition_next⟩
  case activated =>
    intro ha hf hs hc i b hi x
    refine ⟨live_next_of_effect ha (activateDone_of_valid hf hs hc hi), fun hback => ?_⟩
    have hx : x = (preferNew (writeSlot i a.pld), true) := by
      simp only [x, hback, Option.getD_none, storeImage_same]
    rw [hx]
    exact ⟨rfl, (slotImage_preferNew _ _).trans (slotImage_writeSlot i a.pld)⟩

end Sys2Proof.Machine
end

section
/-! SUPPORT. The boot timeline, the handover and the entry into Dark (R248, R344, R353, R376, R380, R382, R385, R388, R390, R396, R398 to
R400). -/

namespace Sys2Proof.Machine

theorem awake_of_boot {a : State} (hm : a.sys.mode = .boot) : awake a = true := by simp [hm]

/-! ### The timeline -/

theorem restartWatchdog_of_answers {a : State} (h : answers a = true) :
    restartWatchdog a = { a with pwr := { a.pwr with watchdog := a.tb.now } } := if_pos h

theorem lockPlls_of_boot {a : State} (hm : a.sys.mode = .boot) :
    lockPlls a = { a with pwr := { a.pwr with refclk := true, plls := true } } := if_pos hm

theorem trainBasin_of_locked {a : State} (hm : a.sys.mode = .boot) (hp : a.pwr.plls = true) :
    trainBasin a = { a with pwr := { a.pwr with basin := true } } := if_pos (by simp [hm, hp])

/-- R386, R390: the window is cleared, and the boot ROM reads the life cycle. -/
theorem completeWipe_of_trained {a : State} (hm : a.sys.mode = .boot) (hp : a.pwr.plls = true) (hb : a.pwr.basin = true)
    (hw : a.pwr.wiped = false) :
    completeWipe a = { a with
      mbx := { msixOn := a.mbx.msixOn }, pcie := { a.pcie with pend := 0 }, pwr := { a.pwr with wiped := true }, pld := readLc a.pld } :=
  if_pos (by simp [hm, hp, hb, hw])

theorem loseRefclk_of_clocked {a : State} (hc : a.pwr.refclk = true) :
    loseRefclk a = raise 14 (releaseRole (safeValves { a with pwr := { a.pwr with refclk := false, plls := false } })) := if_pos hc

/-- Settles O6, happening by happening. -/
theorem bootTimelineCompletes : Obligations.BootTimelineCompletes := fun _ _ =>
  ⟨fun ha h => live_next_of_effect ha (restartWatchdog_of_answers h),
    fun hm => live_next_of_effect (awake_of_boot hm) (lockPlls_of_boot hm),
    fun hm hp => live_next_of_effect (awake_of_boot hm) (trainBasin_of_locked hm hp),
    fun hm hp hb hw => live_next_of_effect (awake_of_boot hm) (completeWipe_of_trained hm hp hb hw),
    fun ha hc => live_next_of_effect ha (loseRefclk_of_clocked hc)⟩

/-! ### The handover -/

/-- What the boot ROM measures before it looks for an image: itself and OTP, once (R382). -/
def romMeasured (p : Pld) : Pld := if p.log.isEmpty then measure (otpEntry p) (measure Config.romDigest p) else p

theorem handOver_of_chosen {codes : List (BitVec 14 × BitVec 14)} {jets wells : List Nat} {k : Bool} {img : List Byte} {a : State}
    (hm : a.sys.mode = .boot) (hw : a.pwr.wiped = true) (hc : a.pwr.refclk = true) (hf : a.sys.fwRun = false)
    (hs : a.pwr.stopped = false) (hi : bootChoice a.part (romMeasured a.pld) = some (k, img)) :
    handOver codes jets wells a =
      let d := digestNat (imageBytes img)
      startFirmware img codes jets wells { a with pld := { measure d (romMeasured a.pld) with
        fwDigest := d, slotUsed := k, keyUsed := bit (fld img 11 1) 0, imgSvn := fld img 12 4, imgRevoke := bit (fld img 24 1) 0 } } := by
  have hrom : (if a.pld.log.isEmpty then withPld (fun p => measure (otpEntry p) (measure Config.romDigest p)) a else a) =
      { a with pld := romMeasured a.pld } := by
    unfold romMeasured
    split <;> rfl
  unfold handOver
  rw [if_pos (by simp [hm, hw, hc, hf, hs]), hrom]
  simp only [hi]
  rfl

/-- Settles O7. -/
theorem handoverCompletes : Obligations.HandoverCompletes := by
  intro dt k img codes jets wells s a m d hm hw hc hf hs hi
  exact live_next_of_effect (awake_of_boot hm) (handOver_of_chosen hm hw hc hf hs hi)

/-! ### Into Dark -/

/-- What follows once the stores are loaded: the channel table is locked and measured, and Dark entered (R400). -/
def finishLoad (u : State) : State := enterMode .dark
  { u with plat := { u.plat with lock := true },
           pld := settlePolder (measure (digestNat (chanBytes { u.plat with lock := true })) u.pld) }

section
variable {a : State} (hm : a.sys.mode = .boot) (hf : fwLive a = true) (ht : a.temp.measured = true)
include hm hf ht

/-- R385, R399: the fabric is prepared from the authentic record. -/
theorem loadStore_of_record {r : CalRec} (hr : calRecord a.pld = some r)
    (hu : (loadWear (prepareFabric (some (decide (r.hdr.band = 1))) r.data
      { a with pld := measure (digestNat (calBytes r)) a.pld })).sys.mode = .boot) :
    loadStore a = finishLoad (loadWear (prepareFabric (some (decide (r.hdr.band = 1))) r.data
      { a with pld := measure (digestNat (calBytes r)) a.pld })) := by
  unfold loadStore
  rw [if_pos (by simp [hm, hf, ht])]
  simp only [hr, withPld]
  exact if_pos hu

/-- R385: without one CALSTORE_AUTH occurs. -/
theorem loadStore_of_none (hr : calRecord a.pld = none)
    (hu : (loadWear (raise 190 { a with pld := measure 0 a.pld })).sys.mode = .boot) :
    loadStore a = finishLoad (loadWear (raise 190 { a with pld := measure 0 a.pld })) := by
  unfold loadStore
  rw [if_pos (by simp [hm, hf, ht])]
  simp only [hr, withPld]
  exact if_pos hu

end

/-- Settles O8, by what the calibration store holds. -/
theorem storeLoadCompletes : Obligations.StoreLoadCompletes := by
  intro dt r s a last hm hf ht
  exact ⟨fun hr hu => live_next_of_effect (awake_of_boot hm) (loadStore_of_record hm hf ht hr hu),
    fun hr hu => live_next_of_effect (awake_of_boot hm) (loadStore_of_none hm hf ht hr hu)⟩

end Sys2Proof.Machine
end

section
/-! SUPPORT. The refractory period of the event router (R366). -/

namespace Sys2Proof.Machine

@[simp] theorem countBy_echo (e : Nat) (inc : Pmon → Nat) (s : State) : (countBy e inc s).plat.echo = s.plat.echo := by
  unfold countBy
  split
  · rfl
  · exact foldl_keeps (fun u : State => u.plat.echo) (fun u _ => ev 302 u) (fun _ _ => rfl) _ _

@[simp] theorem countBy_lastEv (e : Nat) (inc : Pmon → Nat) (s : State) : (countBy e inc s).plat.lastEv = s.plat.lastEv := by
  unfold countBy
  split
  · rfl
  · exact foldl_keeps (fun u : State => u.plat.lastEv) (fun u _ => ev 302 u) (fun _ _ => rfl) _ _

/-- `lastEv` holds the instant of the accepted event plus one, and 0 stands for none. -/
theorem inPeriod_iff {t0 t d : Nat} (hle : t0 ≤ t) : 0 < t0 + 1 ∧ t0 + 1 ≤ t + 1 ∧ t + 1 < t0 + 1 + d ↔ t < t0 + d := by omega

section
variable {n : Nat} {t0 t : Time} {s : State} (hl : sget 0 s.plat.lastEv n = t0 + 1) (hle : t0 ≤ t)
include hl hle

/-- Less than 16 ns after the accepted event: a dropped event marks its source and leaves the period. -/
theorem acceptEv_of_early (h : t < t0 + ns 16) : acceptEv n t s =
    (count 0x0208 1 { s with plat := { s.plat with echo := setBit s.plat.echo n true } }, false) :=
  if_pos (hl ▸ (inPeriod_iff hle).mpr h)

/-- Later: the event is accepted, and the period starts anew. -/
theorem acceptEv_of_late (h : t0 + ns 16 ≤ t) : acceptEv n t s =
    (count n 1 { s with plat := { s.plat with lastEv := sset 0 s.plat.lastEv n (t + 1) } }, true) :=
  if_neg (hl ▸ mt (inPeriod_iff hle).mp (not_lt_of_ge h))

theorem acceptEv_accepts_iff : (acceptEv n t s).2 = true ↔ t0 + ns 16 ≤ t := by
  rcases lt_or_ge t (t0 + ns 16) with h | h
  · simp [acceptEv_of_early hl hle h, h]
  · simp [acceptEv_of_late hl hle h, h]

end

/-- Settles O51, by whether the event comes within the period. -/
theorem eventRefractoryPeriod : Obligations.EventRefractoryPeriod := by
  intro n t0 t s hn hl hle u
  refine ⟨fun h => ?early, fun h => ?late⟩
  case early =>
    have hu : u = count 0x0208 1 { s with plat := { s.plat with echo := setBit s.plat.echo n true } } :=
      congrArg Prod.fst (acceptEv_of_early hl hle h)
    have hecho : ∀ k, u.plat.echo.getLsbD k = if k = n then true else s.plat.echo.getLsbD k := fun k => by
      rw [hu, countBy_echo, getLsbD_setBit _ _ _ _ hn]
    exact ⟨congrArg Prod.snd (acceptEv_of_early hl hle h), (hecho n).trans (if_pos rfl), hu ▸ countBy_lastEv _ _ _,
      fun k hk => (hecho k).trans (if_neg hk)⟩
  case late =>
    have hu : u = count n 1 { s with plat := { s.plat with lastEv := sset 0 s.plat.lastEv n (t + 1) } } :=
      congrArg Prod.fst (acceptEv_of_late hl hle h)
    have hlast : ∀ k, sget 0 u.plat.lastEv k = if k = n then t + 1 else sget 0 s.plat.lastEv k := fun k => by
      rw [hu, countBy_lastEv, sget_sset]
    have hsame : sget 0 u.plat.lastEv n = t + 1 := (hlast n).trans (if_pos rfl)
    exact ⟨congrArg Prod.snd (acceptEv_of_late hl hle h), hsame, hu ▸ countBy_echo _ _ _, fun k hk => (hlast k).trans (if_neg hk),
      fun t' ht' => acceptEv_accepts_iff hsame ht'⟩

end Sys2Proof.Machine
end

section
/-! SUPPORT. Wear, heater B and temperature (R329, R332 to R338, R341, R344, R346). -/

namespace Sys2Proof.Machine

/-! ### A measurement's end -/

theorem temp_of_kept {s t : State} (h : kept s = kept t) : s.temp = t.temp := (congrArg State.temp h :)

@[simp] theorem setLevel_temp (n : Nat) (level : Bool) (s : State) : (setLevel n level s).temp = s.temp :=
  temp_of_kept (by simp [setLevel])

@[simp] theorem setCaps_temp (v : BitVec 8) (s : State) : (setCaps v s).temp = s.temp :=
  temp_of_kept (t := s) (kept_forEach (List.range s.part.jets) s _ fun s j => kept_modJet j _ s)

@[simp] theorem stopCapture_temp (s : State) : (stopCapture s).temp = s.temp := temp_of_kept (kept_stopCapture s)

@[simp] theorem throttle_temp (on : Bool) (s : State) : (throttle on s).temp = s.temp := by
  unfold throttle
  split
  · rfl
  · dsimp only
    split
    · rw [setCaps_temp, ev_temp]
      split <;> simp
    · simp

theorem answers_temp (l : List Nat) (p : List Byte) (s : State) : (forEach l s fun s k => finishSlot k 0 p s).temp = s.temp :=
  foldl_keeps State.temp (fun s k => finishSlot k 0 p s) (fun s k => (finishSlot_only k 0 p s).temp) l s

/-- R346: a measurement's end leaves its readings; what follows them changes no temperature. -/
theorem measureDone_temp {readings : List (BitVec 16)} {a : State} (hf : fwLive a = true) (hb : a.temp.busy = true) :
    (measureDone readings a).temp.busy = false ∧ (measureDone readings a).temp.last = readings := by
  unfold measureDone
  rw [if_neg (by simp [hf, hb])]
  dsimp only
  rw [answers_temp, setLevel_temp, setLevel_temp, setLevel_temp, throttle_temp]
  exact ⟨rfl, rfl⟩

/-! ### Heater B -/

section
variable {n : Nat} {c : SlotCmd} {i : Insert} {a : State}

/-- R338: a command for a cell whose insertion is under way joins it. -/
theorem heaterBNow_of_insert (hi : insertOf (hold c a).fab n = some i) :
    heaterBNow c n a = modInsert n (fun i => { i with slots := i.slots ++ [c.slot] }) (hold c a) :=
  if_pos (by rw [hi]; rfl)

section
variable (hi : insertOf (hold c a).fab n = none) (hx : condAt (hold c a).fab n ≠ .opaqueCell) (hu : unlit (hold c a) = true)
include hi hx hu

/-- R334: with the valves blocked the insertion is made at once. -/
theorem heaterBNow_of_unlit (hb : unbegun (hold c a).fab.inserts = []) : heaterBNow c n a = insertNow n [c.slot] (hold c a) := by
  have hf : ¬frozenCell (hold c a) n = true := mt (frozenCell_iff _ n).mp hx
  unfold heaterBNow
  dsimp only
  rw [if_neg (by rw [hi]; exact Bool.false_ne_true), if_neg hf, if_pos (by simp [hu]), hb]
  rfl

/-- R274: but no sooner than those of earlier commands. -/
theorem heaterBNow_of_unlit_behind (hb : unbegun (hold c a).fab.inserts ≠ []) : heaterBNow c n a =
    { hold c a with fab := { (hold c a).fab with inserts := (hold c a).fab.inserts ++
      [{ cell := n, tIns := (unbegun (hold c a).fab.inserts).foldl (fun t i => max t i.tIns) (hold c a).tb.now, slots := [c.slot],
         carried := carries (hold c a) n }] } } := by
  have hf : ¬frozenCell (hold c a) n = true := mt (frozenCell_iff _ n).mp hx
  unfold heaterBNow
  dsimp only
  rw [if_neg (by rw [hi]; exact Bool.false_ne_true), if_neg hf, if_pos (by simp [hu]), if_neg (by simpa using hb)]

end

theorem pendingInsert_of_due (hf : fwLive a = true) (hm : inSvc a.sys.mode = true) (hw : (sget {} a.wear n : Wear).pending = true)
    (hi : insertOf a.fab n = none) (hx : condAt a.fab n ≠ .opaqueCell) (hu : unlit a = true)
    (hj : (jetOf a (jetOfLoop a.part n)).remap = false) :
    pendingInsert n a = { a with fab := { a.fab with inserts := a.fab.inserts ++
      [{ cell := n, tIns := a.tb.now, running := true, carried := carries a n }] } } := by
  have hx' : (condAt a.fab n != .opaqueCell) = true := bne_iff_ne.mpr hx
  unfold pendingInsert insertNow
  simp only [hf, hm, hw, hi, hx', hu, hj, Option.isNone_none, Bool.true_or, Bool.not_false, Bool.and_self, if_true]

/-- R335, R338: the open valves behind the cell close at T_ins. -/
theorem heaterBClose_of_first (hi : insertOf a.fab n = some i) (hr : i.running = false)
    (hb : unbegun (a.fab.inserts.takeWhile fun x => x.cell != n) = []) (hj : (jetOf a (jetOfLoop a.part n)).remap = false) :
    let b := reach i.tIns a
    let through := egrPorts (connsThrough b.part b.fab.cells b.fab.conns n)
    let ports := through &&& (b.fab.openPorts ||| insertBlocked b)
    let d := forEach (ones b.part.ports (through &&& b.fab.openPorts)) b fun s n => jetValve n false s
    heaterBClose n a = modInsert n
      (fun i => { i with running := true, tIns := d.tb.now, closed := ports, carried := i.carried || decide (ports ≠ 0) }) d := by
  unfold heaterBClose
  simp only [hi]
  exact if_neg (by simp [hr, hb, hj])

/-- R337: after the remap the insertion is over, and its valves reopen. -/
theorem heaterBReopen_of_remapped (hi : insertOf a.fab n = some i) (hr : i.running = true) (hm : i.remapped = true) :
    let b := reach (i.tIns + ns 200120) a
    let d := { b with fab := { b.fab with inserts := b.fab.inserts.filter fun x => x.cell != n } }
    let e := if valvesLive d.sys then openValves (i.closed &&& openPortsOf d) d else d
    let w := { e with wear := smod {} e.wear n fun w => { w with pending := false } }
    heaterBReopen n a = forEach i.slots (notifyInsert i.slots.head? (insertFlags i) n (framesLost w i) w)
      fun s k => finishSlot k 0 [] s := by
  unfold heaterBReopen
  simp only [hi]
  exact if_neg (by simp [hr, hm])

end

/-! ### HEATER_B -/

section
variable {dt slot : Nat} {c : SlotCmd} {p : List Byte} {s t : State} (hd : due (begun dt s) slot 0x0307 c p = true)
  (hm : inSvc (begun dt s).sys.mode = true) (hp : p.length = 4) (hz : fld p 2 2 = 0) (hn : fld p 0 2 < (begun dt s).part.cells)
include hd hm hp hz hn

/-- A cell on heater A, or one whose insertion is under way. -/
theorem heaterB_next (hc : (loopOf (begun dt s) (fld p 0 2)).desc.htrB = false ∨ insertOf (begun dt s).fab (fld p 0 2) ≠ none)
    (ht : heaterBNow c (fld p 0 2) (begun dt s) = t) : exec (.heaterB dt slot) s = .next (after (begun dt s) t) := by
  have hc' : ((loopOf (begun dt s) (fld p 0 2)).desc.htrB && (insertOf (begun dt s).fab (fld p 0 2)).isNone) = false := by
    rcases hc with h | h
    · simp [h]
    · simp [Option.isSome_iff_ne_none.mpr h]
  exact hostCmd_next_of_effect hd hm rfl rfl (by simp only [List.forall_mem_cons, hc']; simp [hp, rsvd, hz, hn]) ht

end

/-- Settles O53, happening by happening. -/
theorem wearAndTemperatureComplete : Obligations.WearAndTemperatureComplete := by
  intro dt slot cell c p i readings s a a0 ha
  refine ⟨fun hf => ⟨?start, ?save, ?predict, ?fold, fun hb => ⟨live_next ha, measureDone_temp hf hb⟩⟩, ?command,
    fun hf hm hw hi hx hu hj => live_next_of_effect ha (pendingInsert_of_due hf hm hw hi hx hu hj),
    fun hm hi hr hb hj => live_next_of_effect ((awake_iff a0).mpr hm) (heaterBClose_of_first hi hr hb hj),
    fun hm hi hr hre => live_next_of_effect ((awake_iff a0).mpr hm) (heaterBReopen_of_remapped hi hr hre)⟩
  case start => exact live_next_of_effect ha (if_pos hf)
  case save => exact live_next_of_effect ha (if_pos hf)
  case predict => exact live_next_of_effect ha (if_pos hf)
  case fold => exact live_next_of_effect ha (if_pos hf)
  case command =>
    intro hd hm hp hz hn
    obtain ⟨rfl, -, -⟩ := due_slot hd
    refine ⟨fun hB hi hx hu => ⟨fun hb => ?_, fun hb => ?_⟩, fun hi hi' => ?_⟩
    · exact heaterB_next hd hm hp hz hn (.inl hB) (heaterBNow_of_unlit hi hx hu hb)
    · exact heaterB_next hd hm hp hz hn (.inl hB) (heaterBNow_of_unlit_behind hi hx hu hb)
    · exact heaterB_next hd hm hp hz hn (.inr fun h => absurd (hi'.symm.trans h) (Option.some_ne_none i)) (heaterBNow_of_insert hi)

end Sys2Proof.Machine
end

section
/-! SUPPORT. Occurrences and windows of the Dike's sources (R309, R312 to R317, R323): what an occurrence and a window's end record, and
the reaction that follows. -/

namespace Sys2Proof.Machine

/-! ### A source's record -/

section
variable {n : Nat} {holds : Bool} {v : Src}

theorem srcOccur_sticky : (srcOccur n holds v).sticky = true := by
  unfold srcOccur
  dsimp only
  split
  · rfl
  · split <;> split <;> rfl

theorem srcOccur_input : (srcOccur n holds v).input = holds := by
  unfold srcOccur
  dsimp only
  split
  · rfl
  · split <;> split <;> rfl

/-- An occurrence leaves a source's settings. -/
theorem srcOccur_settings :
    (srcOccur n holds v).winMs = v.winMs ∧ (srcOccur n holds v).thresh = v.thresh ∧ (srcOccur n holds v).mask = v.mask := by
  unfold srcOccur
  dsimp only
  split
  · exact ⟨rfl, rfl, rfl⟩
  · split <;> split <;> exact ⟨rfl, rfl, rfl⟩

theorem srcOccur_of_lasting (h : v.lasting = true) : srcOccur n holds v = { v with sticky := true, input := holds } := by
  simp [srcOccur, h]

/-- The count of a source's window with one occurrence more (R313). -/
def countNext (v : Src) : BitVec 8 := if v.winOpen then satInc v.count else 1

theorem srcOccur_of_counted (hn : 3 < n) (h : v.lasting = false) : srcOccur n holds v =
    { v with sticky := true, input := holds, winOpen := true, count := countNext v,
             lasting := decide (v.thresh.toNat ≤ (countNext v).toNat) } := by
  unfold srcOccur countNext
  dsimp only
  rw [if_neg (by simp [h, hn])]
  cases hw : v.winOpen <;> simp only [Bool.false_eq_true, if_true, if_false] <;> split <;> simp_all

end

/-! ### Classes -/

theorem classCode_maxClass (a b : FClass) : classCode (maxClass a b) = max (classCode a) (classCode b) := by
  unfold maxClass
  split <;> omega

/-- R315 speaks of the Jets and wells alone. -/
theorem occurClass_of_other {n : Nat} (hn : n < 20 ∨ 155 < n) (s : State) : occurClass s n = srcClass n := by
  unfold occurClass
  rw [if_neg (by omega), if_neg (by omega)]

theorem markFailed_of_other {n : Nat} (hn : n < 20 ∨ 155 < n) (s : State) : markFailed n s = s := by
  unfold markFailed
  rw [if_neg (by omega), if_neg (by omega)]

/-! ### An occurrence -/

/-- An occurrence makes its source lasting, and no mask holds its lasting class off (R314, R316). -/
def becomesLasting (n : Nat) (holds : Bool) (s : State) : Bool :=
  (srcOccur n holds (src s.dike n)).lasting && !(src s.dike n).lasting && !(src s.dike n).mask

/-- The class that an occurrence applies (R314 to R316). -/
def classApplied (n : Nat) (holds : Bool) (s : State) : FClass :=
  if becomesLasting n holds s then maxClass (occurClass s n) (srcLasting n) else occurClass s n

/-- The source's record after an occurrence. -/
def recordAfter (n : Nat) (holds : Bool) (s : State) : Src :=
  { srcOccur n holds (src s.dike n) with applied := maxClass (src s.dike n).applied (classApplied n holds s) }

/-- An occurrence recorded, before anything is told of it. -/
def recorded (n : Nat) (holds : Bool) (s : State) : State :=
  ev 294 (markFailed n { s with dike := setSrc s.dike n (recordAfter n holds s) })

/-- A FAULT notification, where one is due. -/
def tellIf (b : Bool) (n : Nat) (s : State) : State := if b then notifyFault n s else s

theorem tellIf_only (b : Bool) (n : Nat) (s : State) : OnlyMbx s (tellIf b n s) := .ite (notify_only _ _ s) (.refl s)

section
variable {n : Nat} {holds : Bool} {s : State}

/-- An occurrence is recorded and may be told; its class is reacted to, and may be told then. -/
theorem occur_eq (hm : s.sys.mode ≠ .reset) (hn : n < 192) (hp : srcAbsent s.part n = false) :
    ∃ tell also, occur n holds s = tellIf also n (react n (classApplied n holds s) (tellIf tell n (recorded n holds s))) := by
  unfold occur
  rw [if_neg (by simp [hm, hp, hn])]
  exact ⟨_, _, rfl⟩

theorem react_of_low {c : FClass} (h : classCode c < 2) : react n c s = s := if_pos h

theorem recorded_dike (hn : n < 20 ∨ 155 < n) : (recorded n holds s).dike = setSrc s.dike n (recordAfter n holds s) := by
  unfold recorded
  rw [markFailed_of_other hn]
  rfl

theorem recorded_sys (hn : n < 20 ∨ 155 < n) : (recorded n holds s).sys = s.sys := by
  unfold recorded
  rw [markFailed_of_other hn]
  rfl

/-- Of a class below MAJOR nothing follows but what the host is told. -/
theorem occur_of_low (hm : s.sys.mode ≠ .reset) (hn : n < 192) (hp : srcAbsent s.part n = false)
    (hc : classCode (classApplied n holds s) < 2) : OnlyMbx (recorded n holds s) (occur n holds s) := by
  obtain ⟨tell, also, h⟩ := occur_eq (holds := holds) hm hn hp
  rw [h, react_of_low hc]
  exact (tellIf_only _ _ _).trans (tellIf_only _ _ _)

theorem classCode_classApplied_lt (ho : n < 20 ∨ 155 < n) (hc : classCode (srcClass n) < 2) (hl : classCode (srcLasting n) < 2) :
    classCode (classApplied n holds s) < 2 := by
  unfold classApplied
  rw [occurClass_of_other ho]
  split
  · rw [classCode_maxClass]
    exact max_lt hc hl
  · exact hc

theorem windowEnds_of_stayed (hn : n < 192) (hp : srcAbsent s.part n = false) : windowEnds n true s = closeWindow n s :=
  if_neg (by simp [hp, hn])

/-- Outside an injection an occurrence is no check of one. -/
theorem faultOccurs_of_idle (h : s.dike.injLeft = 0) : faultOccurs n holds s = occur n holds s := by
  simp [faultOccurs, checkMade, h]

/-! ### A window's end -/

/-- The window's only occurrence is the one since which the input has stayed asserted: the source becomes lasting (R314). -/
def heldThrough (n : Nat) (s : State) : Bool :=
  (src s.dike n).input && decide ((src s.dike n).count = 1) && !(src s.dike n).lasting

/-- The source's record as its window ends, with the count that the window had (R323). -/
def recordClosed (n : Nat) (s : State) : Src :=
  { src s.dike n with
    winOpen := false
    lasting := (src s.dike n).lasting || heldThrough n s
    applied := if heldThrough n s && !(src s.dike n).mask then maxClass (src s.dike n).applied (srcLasting n)
      else (src s.dike n).applied }

/-- The count that a window leaves. -/
def clearCount (n : Nat) (s : State) : State := { s with dike := setSrc s.dike n { src s.dike n with count := 0 } }

/-- A window's end is recorded and may be told; a lasting class that applies now is reacted to, and the count is cleared. -/
theorem closeWindow_eq (hw : (src s.dike n).winOpen = true) : ∃ tell,
    let u := tellIf tell n { s with dike := setSrc s.dike n (recordClosed n s) }
    closeWindow n s = clearCount n (if heldThrough n s && !(src s.dike n).mask then react n (srcLasting n) u else u) := by
  unfold closeWindow
  rw [if_pos hw]
  exact ⟨_, rfl⟩

theorem src_clearCount (k : Nat) :
    src (clearCount n s).dike k = if k = n then { src s.dike n with count := 0 } else src s.dike k := src_setSrc _ _ _ _

/-- Of a lasting class below MAJOR only the record changes. -/
theorem src_closeWindow_of_low (hw : (src s.dike n).winOpen = true) (hl : classCode (srcLasting n) < 2) (k : Nat) :
    src (closeWindow n s).dike k = if k = n then { recordClosed n s with count := 0 } else src s.dike k := by
  obtain ⟨tell, h⟩ := closeWindow_eq hw
  rw [h, react_of_low hl, ite_self, src_clearCount, (tellIf_only _ _ _).dike, src_setSrc, src_setSrc, if_pos rfl]
  split <;> simp_all

end

/-- Settles O48: the record that an occurrence leaves, and the record that a window's end leaves. -/
theorem occurrencesComplete : Obligations.OccurrencesComplete := by
  intro dt n holds s a v ha hn hp
  have hm : a.sys.mode ≠ .reset := (awake_iff a).mp ha
  refine ⟨fun hi => live_next_of_effect ha (faultOccurs_of_idle hi), ?occurrence,
    live_next_of_effect ha (windowEnds_of_stayed hn hp), ?window⟩
  case occurrence =>
    intro h3 ho hc hl
    have honly := occur_of_low (holds := holds) hm hn hp (classCode_classApplied_lt ho hc hl)
    have hsrc : ∀ k, src (occur n holds a).dike k = if k = n then recordAfter n holds a else src a.dike k := fun k => by
      rw [honly.dike, recorded_dike ho, src_setSrc]
    have hself : src (occur n holds a).dike n = recordAfter n holds a := (hsrc n).trans (if_pos rfl)
    obtain ⟨hms, hth, hmask⟩ := srcOccur_settings (n := n) (holds := holds) (v := v)
    rw [hself]
    refine ⟨srcOccur_sticky, srcOccur_input, hms, hth, hmask, fun hlast => ?_, fun hlast => ?_, honly.sys.trans (recorded_sys ho),
      fun k hk => (hsrc k).trans (if_neg hk)⟩
    · have hrec : srcOccur n holds v = _ := srcOccur_of_counted h3 hlast
      have hcount : (recordAfter n holds a).count = countNext v := congrArg Src.count hrec
      have hlasting : (recordAfter n holds a).lasting = decide (v.thresh.toNat ≤ (countNext v).toNat) := congrArg Src.lasting hrec
      exact ⟨congrArg Src.winOpen hrec, hcount, by rw [hlasting, hcount, decide_eq_true_iff]⟩
    · have hrec : srcOccur n holds v = _ := srcOccur_of_lasting hlast
      exact ⟨(congrArg Src.lasting hrec :).trans hlast, (congrArg Src.winOpen hrec :), (congrArg Src.count hrec :)⟩
  case window =>
    intro hw hl
    have hsrc := src_closeWindow_of_low hw hl
    rw [hsrc n, if_pos rfl]
    refine ⟨rfl, rfl, rfl, ?_, fun k hk => (hsrc k).trans (if_neg hk)⟩
    cases hlast : v.lasting <;> simp [recordClosed, heldThrough, v, hlast]

end Sys2Proof.Machine
end

section
/-! SUPPORT. What a unit in Safe keeps (R81, R314, R318, R320): its valves closed at SAFE_CODE, the safe line and what the Dike has latched,
one lemma for each operation that follows a command. -/

namespace Sys2Proof.Machine

/-! ### The unit shut down -/

/-- What the Dike holds until a Reset or a clear: of one source the sticky bit and LASTING, and the FATAL latch, each where it is asked
for. -/
structure Latched where
  source : Nat
  sticky : Bool
  lasting : Bool
  fatal : Bool

/-- The Dike's latch and records hold it. -/
structure Latched.In (x : Latched) (fatal : Bool) (records : Sparse Src) : Prop where
  sticky : x.sticky = true → (sget (srcReset x.source) records x.source).sticky = true
  lasting : x.lasting = true → (sget (srcReset x.source) records x.source).lasting = true
  fatal : x.fatal = true → fatal = true

/-- Outputs and Dike of a unit in mode `m` as an entry into Safe leaves them. -/
structure Shut (x : Latched) (m : Mode) (p : Part) (mode : Mode) (line fatal : Bool) (records : Sparse Src) (valves : PortMap)
    (ladders : Sparse PortDac) : Prop where
  mode : mode = m
  line : line = true
  latched : x.In fatal records
  valves : ones p.ports valves = []
  ladders : ∀ k < p.ports, (sget {} ladders (256 + k) : PortDac).safe = true

/-- The safe line is raised, no valve is open, every valve ladder is at SAFE_CODE, and `x` is latched. -/
def ShutDown (x : Latched) (m : Mode) (s : State) : Prop :=
  Shut x m s.part s.sys.mode s.dike.safeLine s.dike.fatal s.dike.src s.fab.openPorts s.dac.port

section
variable {x : Latched} {m : Mode} {s : State}

theorem ShutDown.valveOutput (h : ShutDown x m s) {k : Nat} (hk : k < s.part.ports) :
    let d : PortDac := sget {} s.dac.port (256 + k)
    d.safe = true ∧ valveOutput d = d.safeCode :=
  ⟨h.ladders k hk, if_pos (h.ladders k hk)⟩

/-! ### Updates, branches, folds and what the host is told -/

/-- An update of what lies beside outputs and Dike. -/
theorem shutDown_frame {pwr : Pwr} {mbx : Mbx} {pcie : Pcie} {tap : Tap} {jets : Jets} {wells : Sparse Well} {cal : CalData} {tb : Tb}
    {servo : Servo} {trk : Trk} {slc : Slc} {weir : Weir} {cld : Cld} {pair : PairSt} {wear : Sparse Wear} {temp : Temp} {plat : Plat}
    {pld : Pld} {sec : Sec} {out : List Out} {draws : Nat} {pending : List Instr} (h : ShutDown x m s) :
    ShutDown x m ⟨s.part, pwr, s.sys, mbx, pcie, tap, s.dike, jets, wells, s.dac, cal, s.fab, tb, servo, trk, slc, weir, cld, pair, wear,
      temp, plat, pld, sec, out, draws, pending⟩ := h

theorem shutDown_ite {c : Prop} [Decidable c] {a b : State} (ha : ShutDown x m a) (hb : ShutDown x m b) :
    ShutDown x m (if c then a else b) := by
  split
  · exact ha
  · exact hb

theorem shutDown_forEach {α : Type} {l : List α} {f : State → α → State} (hf : ∀ s x', ShutDown x m s → ShutDown x m (f s x'))
    (h : ShutDown x m s) : ShutDown x m (forEach l s f) :=
  List.foldlRecOn (motive := ShutDown x m) _ _ h fun s hs y _ => hf s y hs

theorem shutDown_of_only {t : State} (hst : OnlyMbx s t) (h : ShutDown x m s) : ShutDown x m t := by
  simpa only [ShutDown, hst.part, hst.sys, hst.dike, hst.fab, hst.dac] using h

theorem shutDown_notifyAt {t : Time} {typ : Nat} {a : About} {d : Bool} {body : List Byte} (h : ShutDown x m s) :
    ShutDown x m (notifyAt t typ a d body s) := shutDown_of_only (notifyAt_only _ _ _ _ _ s) h

theorem shutDown_notifyFault {n : Nat} (h : ShutDown x m s) : ShutDown x m (notifyFault n s) := shutDown_notifyAt h

theorem shutDown_finish {c : SlotCmd} {status : Nat} {p : List Byte} (h : ShutDown x m s) : ShutDown x m (finish c status p s) :=
  shutDown_of_only (finish_only c status p s) h

theorem shutDown_failCmd {c : SlotCmd} {code : Nat} (h : ShutDown x m s) : ShutDown x m (failCmd c code s) := shutDown_finish h

theorem shutDown_finishSlot {k status : Nat} {p : List Byte} (h : ShutDown x m s) : ShutDown x m (finishSlot k status p s) :=
  shutDown_of_only (finishSlot_only k status p s) h

theorem shutDown_failSlot {k code : Nat} (h : ShutDown x m s) : ShutDown x m (failSlot k code s) :=
  shutDown_of_only (failSlot_only k code s) h

/-! ### What an entry into Safe and the end of Maintenance stop -/

theorem shutDown_stopCapture (h : ShutDown x m s) : ShutDown x m (stopCapture s) := by
  have h₁ : ShutDown x m (if s.plat.capture.running then ev 301 s else s) := shutDown_ite h h
  exact h₁

theorem shutDown_endInjection {status : Nat} (h : ShutDown x m s) : ShutDown x m (endInjection status s) := by
  unfold endInjection
  extract_lets k _ _ s₁
  have h₁ : ShutDown x m s₁ := by
    unfold s₁
    split
    · exact shutDown_ite (shutDown_finish h) (shutDown_failCmd h)
    · exact h
  clear_value k s₁
  cases k with
  | some k => exact shutDown_ite (shutDown_finishSlot h₁) (shutDown_failSlot h₁)
  | none => exact h₁

theorem shutDown_stopInjections (h : ShutDown x m s) : ShutDown x m (stopInjections s) := h

theorem shutDown_leaveMaintenance (h : ShutDown x m s) : ShutDown x m (leaveMaintenance s) :=
  shutDown_endInjection (shutDown_stopInjections (shutDown_stopCapture h))

theorem shutDown_stopInserts (h : ShutDown x m s) : ShutDown x m (stopInserts s) := by
  have h₁ : ShutDown x m (forEach s.fab.inserts s fun s i =>
      let s := { s with wear := smod {} s.wear i.cell fun w => { w with pending := !i.remapped } }
      if i.remapped then notifyInsert i.slots.head? (insertFlags i) i.cell (framesLost s i) s else s) :=
    shutDown_forEach (fun _ _ h' => shutDown_ite (shutDown_notifyAt h') h') h
  exact h₁

theorem shutDown_releaseRole (h : ShutDown x m s) : ShutDown x m (releaseRole s) := by
  unfold releaseRole
  dsimp only
  refine shutDown_ite ?_ h
  split
  · exact shutDown_failCmd h
  · exact h

theorem shutDown_abandonPromotion (h : ShutDown x m s) : ShutDown x m (abandonPromotion s) := by
  unfold abandonPromotion
  dsimp only
  split
  · split
    · exact shutDown_failSlot h
    · exact h
  · exact h

theorem shutDown_fireAbandoned (h : ShutDown x m s) : ShutDown x m (fireAbandoned s) :=
  shutDown_forEach (fun _ _ h' => shutDown_forEach (fun _ _ h'' => h'') h') h

theorem shutDown_abandonReconfs (h : ShutDown x m s) : ShutDown x m (abandonReconfs s) := shutDown_fireAbandoned h

theorem shutDown_dropRoutes (h : ShutDown x m s) : ShutDown x m (dropRoutes s) := h

theorem shutDown_stopJets (h : ShutDown x m s) : ShutDown x m (stopJets s) := h

theorem shutDown_abandonCalibration (h : ShutDown x m s) : ShutDown x m (abandonCalibration s) := shutDown_ite h h

/-! ### An occurrence in Safe -/

theorem srcOccur_keeps_lasting {n : Nat} {holds : Bool} {v : Src} (h : v.lasting = true) : (srcOccur n holds v).lasting = true := by
  rw [srcOccur_of_lasting h]
  exact h

/-- A record that loses neither its sticky bit nor LASTING. -/
theorem shutDown_setSrc {n : Nat} {v : Src} (hs : (src s.dike n).sticky = true → v.sticky = true)
    (hl : (src s.dike n).lasting = true → v.lasting = true) (h : ShutDown x m s) :
    ShutDown x m { s with dike := setSrc s.dike n v } := by
  have hget : ∀ k, sget (srcReset k) (setSrc s.dike n v).src k = if k = n then v else src s.dike k := fun k => src_setSrc s.dike n k v
  refine ⟨h.mode, h.line, ⟨fun hx => ?_, fun hx => ?_, h.latched.fatal⟩, h.valves, h.ladders⟩
  · rw [hget]
    split
    case isTrue hk => exact hs (hk ▸ h.latched.sticky hx)
    case isFalse => exact h.latched.sticky hx
  · rw [hget]
    split
    case isTrue hk => exact hl (hk ▸ h.latched.lasting hx)
    case isFalse => exact h.latched.lasting hx

theorem shutDown_markFailed {n : Nat} (h : ShutDown x m s) : ShutDown x m (markFailed n s) :=
  shutDown_ite (shutDown_ite h h) (shutDown_ite (shutDown_ite h h) h)

theorem shutDown_recorded {n : Nat} {holds : Bool} (h : ShutDown x m s) : ShutDown x m (recorded n holds s) :=
  shutDown_markFailed (shutDown_setSrc (fun _ => srcOccur_sticky) srcOccur_keeps_lasting h)

theorem shutDown_latchFatal {t : Time} (h : ShutDown x m s) : ShutDown x m { s with dike := latchFatal s.dike t } :=
  ⟨h.mode, h.line, ⟨h.latched.sticky, h.latched.lasting, fun _ => rfl⟩, h.valves, h.ladders⟩

/-- In Safe a class is reacted to with the latch, and with halted cores at most (R317, R322). -/
theorem shutDown_react {n : Nat} {c : FClass} (h : ShutDown x .safe s) : ShutDown x .safe (react n c s) := by
  unfold react
  extract_lets s₁
  have h₁ : ShutDown x .safe s₁ := shutDown_ite (shutDown_latchFatal h) h
  refine shutDown_ite h ?_
  rw [h₁.mode]
  exact shutDown_ite h₁ h₁

theorem occur_of_absent {n : Nat} {holds : Bool} (h : 192 ≤ n ∨ srcAbsent s.part n = true) : occur n holds s = s :=
  if_pos (by rcases h with h | h <;> simp [h])

theorem shutDown_occur {n : Nat} {holds : Bool} (h : ShutDown x .safe s) : ShutDown x .safe (occur n holds s) := by
  by_cases ha : 192 ≤ n ∨ srcAbsent s.part n = true
  · rw [occur_of_absent ha]
    exact h
  · rw [not_or, Nat.not_le, Bool.not_eq_true] at ha
    have hm : s.sys.mode ≠ .reset := by simp [h.mode]
    obtain ⟨tell, also, ho⟩ := occur_eq (holds := holds) hm ha.1 ha.2
    rw [ho]
    exact shutDown_of_only (tellIf_only _ _ _) (shutDown_react (shutDown_of_only (tellIf_only _ _ _) (shutDown_recorded h)))

/-! ### The rules -/

theorem shutDown_answerMode (h : ShutDown x m s) : ShutDown x m (answerMode s) := by
  unfold answerMode
  dsimp only
  split
  · exact shutDown_finishSlot h
  · exact h

/-- No degraded condition leads out of Safe (R14). -/
theorem settleDegraded_of_safe (hm : s.sys.mode = .safe) : settleDegraded s = s := by
  simp [settleDegraded, hm]

theorem shutDown_soloRule (h : ShutDown x m s) : ShutDown x m (soloRule s) :=
  shutDown_ite h (shutDown_ite h (shutDown_releaseRole h))

theorem blockValves_of_none (hv : ones s.part.ports s.fab.openPorts = []) : blockValves s = s := by
  simp [blockValves, hv]

theorem shutDown_blockValves (h : ShutDown x m s) : ShutDown x m (blockValves s) := by
  rw [blockValves_of_none h.valves]
  exact h

theorem shutDown_rules (h : ShutDown x .safe s) : ShutDown x .safe (rules s) := by
  have h₁ : ShutDown x .safe (soloRule (settleDegraded (answerMode s))) := by
    rw [settleDegraded_of_safe (shutDown_answerMode h).mode]
    exact shutDown_soloRule (shutDown_answerMode h)
  exact shutDown_ite h₁ (shutDown_blockValves h₁)

/-! ### The counters and the router -/

theorem shutDown_countBy {e : Nat} {inc : Pmon → Nat} (h : ShutDown x m s) : ShutDown x m (countBy e inc s) :=
  shutDown_ite h (shutDown_forEach (fun _ _ h' => h') h)

theorem shutDown_count {e k : Nat} (h : ShutDown x m s) : ShutDown x m (count e k s) := shutDown_countBy h

theorem shutDown_tagStage {mine : TagSt → Bool} {k : Nat} (h : ShutDown x m s) : ShutDown x m (tagStage mine k s) := by
  unfold tagStage
  dsimp only
  split
  · refine shutDown_ite ?_ h
    have hc : ∀ {c : Prop} [Decidable c] {e : Nat} {i : Pmon → Nat}, ShutDown x m (if c then countBy e i s else s) :=
      shutDown_ite (shutDown_countBy h) h
    exact shutDown_ite (shutDown_frame (shutDown_countBy (shutDown_frame hc))) (shutDown_frame hc)
  · exact h

theorem shutDown_tagEnter {slot : Option Nat} {entry : Option (Bool × Nat × Nat)} (h : ShutDown x m s) :
    ShutDown x m (tagEnter slot entry s) :=
  shutDown_ite (shutDown_ite h (shutDown_ite (shutDown_countBy h) h)) h

theorem shutDown_tagDrop {mine : TagSt → Bool} (h : ShutDown x m s) : ShutDown x m (tagDrop mine s) := by
  unfold tagDrop
  dsimp only
  split
  · exact shutDown_ite h h
  · exact h

theorem shutDown_captureOne {l : Nat} (h : ShutDown x m s) : ShutDown x m (captureOne s l) :=
  shutDown_ite h (shutDown_ite (shutDown_stopCapture h) h)

theorem shutDown_captureRound (h : ShutDown x m s) : ShutDown x m (captureRound s) :=
  shutDown_ite h (shutDown_ite h (shutDown_forEach (fun _ _ h' => shutDown_captureOne h') h))

theorem shutDown_doTask {n : Nat} (h : ShutDown x .safe s) : ShutDown x .safe (doTask n s) :=
  shutDown_ite h (shutDown_ite h (shutDown_ite h (shutDown_ite h (shutDown_ite (shutDown_occur h)
    (shutDown_ite (shutDown_ite (shutDown_captureRound h) h) (shutDown_ite (shutDown_ite (shutDown_stopCapture h) h)
      (shutDown_ite h (shutDown_ite h (shutDown_ite h h)))))))))

theorem shutDown_acceptEv {n : Nat} {t : Time} (h : ShutDown x m s) : ShutDown x m (acceptEv n t s).1 := by
  unfold acceptEv
  dsimp only
  split <;> exact shutDown_count (shutDown_frame h)

theorem shutDown_activations {lag : Nat} (h : ShutDown x m s) : ShutDown x m (activations lag s).1 :=
  List.foldlRecOn (motive := fun y : State × List (Nat × Nat) => ShutDown x m y.1) _ _ h fun _ hy _ _ => shutDown_acceptEv hy

theorem shutDown_routeOnce {lag : Nat} (h : ShutDown x .safe s) : ShutDown x .safe (routeOnce lag s) := by
  have ha : ∀ {p : Plat}, ShutDown x .safe { (activations lag s).1 with plat := p } := shutDown_activations h
  exact shutDown_forEach (fun _ _ h' => shutDown_forEach (fun _ _ h'' => shutDown_doTask h'') h') (shutDown_ite ha (shutDown_countBy ha))

theorem shutDown_routeAll {k : Nat} (h : ShutDown x .safe s) : ShutDown x .safe (routeAll k s) := by
  induction k generalizing s with
  | zero => exact h
  | succ k ih => exact shutDown_ite h (ih (shutDown_routeOnce h))

/-! ### The Weir -/

theorem shutDown_weirSend {l : Nat} {p : List Byte} (h : ShutDown x m s) : ShutDown x m (weirSend l p s) := shutDown_ite h h

theorem shutDown_discard {n q colour reason : Nat} {tag : BitVec 16} (h : ShutDown x m s) :
    ShutDown x m (discard n q colour reason tag s) := shutDown_frame (shutDown_frame (shutDown_weirSend h))

theorem shutDown_refit {d : Nat} {c : Cal} {conns : ConnMap} (h : ShutDown x m s) : ShutDown x m (refit d c conns s) :=
  shutDown_forEach (fun _ _ h' => shutDown_forEach (fun _ _ h'' => shutDown_ite h'' (shutDown_forEach (fun _ _ h'' =>
    shutDown_discard h'') h'')) h') h

theorem shutDown_withdraw {d : Nat} (h : ShutDown x m s) : ShutDown x m (withdraw d s) :=
  shutDown_forEach (fun _ _ h' => shutDown_forEach (fun _ _ h'' => shutDown_ite h'' (shutDown_forEach (fun _ _ h'' =>
    shutDown_discard h'') h'')) h') h

theorem shutDown_weirFresh (h : ShutDown x m s) : ShutDown x m (weirFresh s) := by
  unfold weirFresh
  dsimp only
  refine shutDown_forEach (fun _ _ h' => ?_) h
  split
  · exact shutDown_refit h'
  · exact h'

theorem shutDown_weirSilence (h : ShutDown x m s) : ShutDown x m (weirSilence s) := by
  unfold weirSilence
  dsimp only
  refine shutDown_ite h ?_
  generalize (s.weir.port.flatMap fun e => e.2.unsent) = back
  induction back with
  | nil => exact h
  | cons _ back ih => exact ih

theorem shutDown_sendDue (h : ShutDown x m s) : ShutDown x m (sendDue s) :=
  shutDown_ite h (shutDown_forEach (fun _ _ h' => shutDown_forEach (fun _ _ h'' => shutDown_weirSend h'') h') h)

theorem shutDown_trim (h : ShutDown x m s) : ShutDown x m (trim s) :=
  shutDown_ite (shutDown_sendDue (shutDown_frame h)) (shutDown_frame (shutDown_sendDue (shutDown_frame h)))

/-! ### The Sluice -/

theorem shutDown_mirror {i : Item} (h : ShutDown x m s) : ShutDown x m (mirror i s) := shutDown_ite h h

theorem shutDown_readEntry {tracked : Bool} {d e : Nat} {w : Nat × Nat × Time} (h : ShutDown x m s) :
    ShutDown x m (readEntry tracked d e w s) := shutDown_tagStage (shutDown_tagEnter h)

theorem shutDown_fillPrep (h : ShutDown x m s) : ShutDown x m (fillPrep s) := by
  unfold fillPrep
  dsimp only
  refine shutDown_ite h ?_
  split
  · exact shutDown_readEntry h
  · exact h

theorem shutDown_giveUpPreps {f : Prep → Bool} (h : ShutDown x m s) : ShutDown x m (giveUpPreps f s) :=
  shutDown_forEach (fun _ _ h' => shutDown_fillPrep h') (shutDown_forEach (fun _ _ h' => shutDown_tagDrop h') h)

theorem shutDown_startCalendar {d : Nat} (h : ShutDown x m s) : ShutDown x m (startCalendar d s) := by
  unfold startCalendar
  dsimp only
  split
  · exact shutDown_notifyAt (shutDown_refit h)
  · exact h

theorem shutDown_passWindow {d : Nat} (h : ShutDown x m s) : ShutDown x m (passWindow d s) := by
  unfold passWindow
  dsimp only
  split
  · exact shutDown_ite h h
  · exact h

theorem shutDown_ownPositions (h : ShutDown x m s) : ShutDown x m (ownPositions s) :=
  shutDown_forEach (fun _ _ h' => shutDown_ite h' h') h

theorem shutDown_sluiceStops (h : ShutDown x m s) : ShutDown x m (sluiceStops s) :=
  shutDown_forEach (fun _ _ h' => shutDown_ite (shutDown_notifyAt h') (shutDown_ite h' h'))
    (shutDown_weirSilence (shutDown_forEach (fun _ _ h' => shutDown_tagDrop h') h))

theorem shutDown_resumeFrom {t : Time} {d : Nat} (h : ShutDown x m s) : ShutDown x m (resumeFrom t d s) := by
  unfold resumeFrom
  dsimp only
  split
  · exact shutDown_ite h h
  · exact h

theorem shutDown_sluiceStarts (h : ShutDown x m s) : ShutDown x m (sluiceStarts s) :=
  shutDown_forEach (fun _ _ h' => shutDown_resumeFrom h') h

theorem shutDown_stopCalendar {about : About} {d event : Nat} (h : ShutDown x m s) : ShutDown x m (stopCalendar about d event s) :=
  shutDown_notifyAt (shutDown_giveUpPreps (shutDown_ite (shutDown_withdraw h) h))

theorem shutDown_takeStop {d k : Nat} (h : ShutDown x m s) : ShutDown x m (takeStop d k s) := by
  unfold takeStop
  extract_lets _ s₁ _ s₂
  have h₁ : ShutDown x m s₁ := by
    refine shutDown_ite (shutDown_startCalendar h) ?_
    split
    · exact shutDown_ite (shutDown_passWindow h) h
    · exact h
  have h₂ : ShutDown x m s₂ := shutDown_ite (shutDown_mirror (shutDown_stopCalendar h₁)) h₁
  exact shutDown_finishSlot h₂

theorem shutDown_takeStops (h : ShutDown x m s) : ShutDown x m (takeStops s) := by
  unfold takeStops
  refine shutDown_forEach (fun _ _ h' => ?_) h
  split
  · exact shutDown_ite h' (shutDown_takeStop h')
  · exact h'

/-! ### What follows a command -/

theorem shutDown_weirClear (h : ShutDown x m s) : ShutDown x m (weirClear s) := shutDown_frame h

theorem shutDown_edgesOfRole {a : State} (h : ShutDown x m s) : ShutDown x m (edgesOfRole a s) := by
  unfold edgesOfRole
  extract_lets s₁
  have h₁ : ShutDown x m s₁ := shutDown_ite (shutDown_leaveMaintenance h) h
  exact shutDown_ite (shutDown_weirClear h₁) (shutDown_ite (shutDown_ownPositions (shutDown_weirFresh h₁)) h₁)

theorem shutDown_edgesOfSluice (h : ShutDown x m s) : ShutDown x m (edgesOfSluice s) :=
  shutDown_frame (shutDown_ite h (shutDown_ite (shutDown_sluiceStarts h) (shutDown_sluiceStops h)))

theorem shutDown_edgesOfPair {a : State} (h : ShutDown x m s) : ShutDown x m (edgesOfPair a s) :=
  shutDown_ite (shutDown_frame h) (shutDown_frame (shutDown_frame h))

theorem shutDown_edges {a : State} (h : ShutDown x .safe s) : ShutDown x .safe (edges a s) :=
  shutDown_edgesOfPair (shutDown_edgesOfSluice (shutDown_edgesOfRole (shutDown_rules h)))

theorem shutDown_safeCounters {a : State} (h : ShutDown x m s) : ShutDown x m (safeCounters a s) := shutDown_ite (shutDown_frame h) h

theorem shutDown_settled {a : State} (h : ShutDown x .safe s) : ShutDown x .safe (settled a s) := by
  have hsettle : ∀ {b u}, ShutDown x .safe u → ShutDown x .safe (settle b u) := fun hu =>
    shutDown_safeCounters (shutDown_edges (shutDown_routeAll (shutDown_safeCounters (shutDown_edges hu))))
  exact hsettle (hsettle (shutDown_takeStops h))

theorem shutDown_signal {v : Nat} (h : ShutDown x m s) : ShutDown x m (signal v s) := shutDown_of_only (signal_only v s) h

theorem shutDown_tellStatus {a : State} (h : ShutDown x m s) : ShutDown x m (tellStatus a s) :=
  shutDown_ite h (shutDown_notifyAt (shutDown_ite (shutDown_signal (shutDown_frame h)) (shutDown_frame h)))

theorem shutDown_tellFaults {a : State} (h : ShutDown x m s) : ShutDown x m (tellFaults a s) :=
  shutDown_ite (shutDown_ite (shutDown_signal (shutDown_frame h)) (shutDown_frame h)) h

theorem shutDown_tellPair {a : State} (h : ShutDown x m s) : ShutDown x m (tellPair a s) := shutDown_ite (shutDown_frame h) h

theorem shutDown_tell {a : State} (h : ShutDown x m s) : ShutDown x m (tell a s) :=
  shutDown_ite (shutDown_tellPair (shutDown_tellFaults (shutDown_tellStatus h))) h

theorem shutDown_tellPositions {a : State} (h : ShutDown x m s) : ShutDown x m (tellPositions a s) := shutDown_ite h (shutDown_mirror h)

theorem shutDown_forgetEvents (h : ShutDown x m s) : ShutDown x m (forgetEvents s) := shutDown_frame h

theorem shutDown_commit {a : State} (h : ShutDown x .safe s) : ShutDown x .safe (commit a s) :=
  shutDown_ite (shutDown_forgetEvents h)
    (shutDown_trim (shutDown_forgetEvents (shutDown_tell (shutDown_tellPositions (shutDown_settled h)))))

/-- R318: whatever follows a command, a unit in Safe stays shut down. -/
theorem shutDown_after {a : State} (h : ShutDown x .safe s) : ShutDown x .safe (after a s) := shutDown_frame (shutDown_commit h)

end

end Sys2Proof.Machine
end

section
/-! SUPPORT. The entry into Safe (R314, R316 to R318): what a source of class MAJOR or FATAL, or one that becomes lasting MAJOR, leaves of
the unit. -/

namespace Sys2Proof.Machine

/-! ### Ladders at SAFE_CODE -/

theorem sget_filterMap {α : Type} [DecidableEq α] (d : α) (f : Nat → α) (l : List Nat) (i : Nat) :
    sget d (l.filterMap fun j => if f j = d then none else some (j, f j)) i = if i ∈ l then f i else d := by
  induction l with
  | nil => rfl
  | cons j l ih =>
    by_cases hj : f j = d
    · simp only [List.filterMap_cons, hj, if_true, ih]
      by_cases hi : i = j <;> simp_all
    · simp only [List.filterMap_cons, hj, if_false, sget, ih]
      by_cases hi : i = j <;> simp [hi]

theorem sget_smap {α : Type} [DecidableEq α] (d : α) (n : Nat) (a : Sparse α) (f : Nat → α → α) (i : Nat) :
    sget d (smap d n a f) i = if i < n then f i (sget d a i) else d := by
  simp [smap, stab, sget_filterMap]

section
variable {x : Latched} {s : State}

/-- A ladder of the part's valves puts out its SAFE_CODE. -/
def safeLadder (s : State) (n : Nat) (d : PortDac) : PortDac :=
  if 256 ≤ n ∧ n < 256 + s.part.ports then { d with safe := true } else d

theorem safeValves_port : (safeValves s).dac.port = smap {} 512 s.dac.port (safeLadder s) := by
  unfold safeValves safeLadder
  dsimp only

theorem safeValves_beside : (safeValves s).part = s.part ∧ (safeValves s).sys = s.sys ∧ (safeValves s).dike = s.dike ∧
    (safeValves s).fab = s.fab := by
  unfold safeValves
  exact ⟨rfl, rfl, rfl, rfl⟩

/-- R81: every valve ladder of the part puts out its SAFE_CODE. -/
theorem safeValves_ladder {k : Nat} (hk : k < s.part.ports) : (sget {} (safeValves s).dac.port (256 + k) : PortDac).safe = true := by
  have hp := ports_le s.part
  rw [safeValves_port, sget_smap, if_pos (by omega), safeLadder, if_pos (by omega)]

theorem blockValves_dike : (blockValves s).dike = s.dike :=
  foldl_keeps State.dike (fun s n => writeValve n false s) (fun _ _ => rfl) _ s

/-! ### The entry -/

/-- Safe line and valves, before the mode changes. -/
theorem shutDown_safeValves (hx : x.In s.dike.fatal s.dike.src) (hl : s.dike.safeLine = true) :
    ShutDown x s.sys.mode (safeValves (blockValves s)) := by
  obtain ⟨hpart, hsys, hdike, hfab⟩ := safeValves_beside (s := blockValves s)
  rw [blockValves_part] at hpart
  rw [blockValves_sys] at hsys
  rw [blockValves_dike] at hdike
  rw [ShutDown, hpart, hsys, hdike, hfab]
  exact ⟨rfl, hl, hx, ones_blockValves s, fun k hk => safeValves_ladder (by rwa [blockValves_part])⟩

/-- The unit's mode becomes Safe. -/
theorem ShutDown.intoSafe {m : Mode} (h : ShutDown x m s) : ShutDown x .safe { s with sys := { s.sys with mode := .safe } } :=
  ⟨rfl, h.line, h.latched, h.valves, h.ladders⟩

/-- R318, step by step. -/
theorem shutDown_enterSafe {n : Nat} (hx : x.In s.dike.fatal s.dike.src) : ShutDown x .safe (enterSafe n s) := by
  unfold enterSafe
  extract_lets _ s₀ s₁ _ s₂ _ s₃ s₄ s₅ _ s₆
  have h₁ : ShutDown x s.sys.mode s₁ := shutDown_safeValves (s := s₀) hx rfl
  clear_value s₁
  have h₂ : ShutDown x s.sys.mode s₂ := shutDown_ite (shutDown_frame h₁) h₁
  clear_value s₂
  have h₃ : ShutDown x s.sys.mode s₃ := shutDown_forEach (fun _ _ h' => shutDown_finish h') (shutDown_stopInserts h₂)
  clear_value s₃
  have h₄ : ShutDown x s.sys.mode s₄ := shutDown_abandonPromotion (shutDown_releaseRole h₃)
  clear_value s₄
  have h₅ : ShutDown x s.sys.mode s₅ := shutDown_stopInjections (shutDown_stopCapture
    (shutDown_stopJets (shutDown_dropRoutes (shutDown_abandonReconfs h₄))))
  clear_value s₅
  have h₆ : ShutDown x s.sys.mode s₆ := shutDown_endInjection (shutDown_abandonCalibration h₅)
  clear_value s₆
  exact shutDown_forEach (fun _ _ h' => shutDown_notifyFault h') h₆.intoSafe

/-- Firmware runs: Boot is that of firmware, and neither Reset nor Safe is the mode. -/
structure RunsFirmware (y : Sys) : Prop where
  reset : y.mode ≠ .reset
  safe : y.mode ≠ .safe
  boot : y.mode = .boot → y.fwRun = true

/-- R317: where firmware runs a class from MAJOR on leads into Safe, and FATAL sets its latch. -/
theorem shutDown_react_of_high {n : Nat} {c : FClass} (hc : 2 ≤ classCode c) (hr : RunsFirmware s.sys)
    (hx : x.In (decide (c = .fatal)) s.dike.src) : ShutDown x .safe (react n c s) := by
  unfold react
  extract_lets s₁
  have hsys : s₁.sys = s.sys := by unfold s₁; split <;> rfl
  have hx₁ : x.In s₁.dike.fatal s₁.dike.src := by
    unfold s₁
    split
    case isTrue => exact ⟨hx.sticky, hx.lasting, fun _ => rfl⟩
    case isFalse hf => exact ⟨hx.sticky, hx.lasting, fun h => absurd (of_decide_eq_true (hx.fatal h)) hf⟩
  have henter : ShutDown x .safe (enterSafe n s₁) := shutDown_enterSafe hx₁
  rw [if_neg (by omega), hsys]
  split
  case h_1 hm => exact absurd hm hr.reset
  case h_2 hm => exact absurd hm hr.safe
  case h_3 hm => simpa only [hr.boot hm, if_true] using henter
  case h_4 => exact henter

/-! ### A check of an injection's checker -/

/-- No injection into a checker. -/
def injectionCleared (s : State) : State := { s with dike := { s.dike with injLeft := 0, ftm := false, injSlot := none } }

theorem endInjection_only (status : Nat) (s : State) : OnlyMbx (injectionCleared s) (endInjection status s) := by
  unfold endInjection
  extract_lets k _ _ s₁
  have h₁ : OnlyMbx (injectionCleared s) s₁ := by
    unfold s₁
    split
    · exact .ite (finish_only _ _ _ _) (finish_only _ _ _ _)
    · exact .refl _
  clear_value k s₁
  cases k with
  | some k => exact h₁.trans (.ite (finishSlot_only _ _ _ _) (failSlot_only _ _ _))
  | none => exact h₁

/-- A check counts for the injection alone. -/
theorem checkMade_keeps (n : Nat) (s : State) :
    (checkMade n s).part = s.part ∧ (checkMade n s).sys = s.sys ∧ (checkMade n s).dike.src = s.dike.src := by
  unfold checkMade
  split
  · split
    · have h := endInjection_only 0 s
      exact ⟨h.part, h.sys, (congrArg Dike.src h.dike :)⟩
    · exact ⟨rfl, rfl, rfl⟩
  · exact ⟨rfl, rfl, rfl⟩

/-! ### An occurrence and a window's end -/

section
variable {n : Nat} {holds : Bool}

/-- An occurrence of a class from MAJOR on leads into Safe, with its record. -/
theorem shutDown_occur_of_high (hr : RunsFirmware s.sys) (hn : n < 192) (ho : n < 20 ∨ 155 < n) (hp : srcAbsent s.part n = false)
    (hc : 2 ≤ classCode (classApplied n holds s)) :
    ShutDown ⟨n, true, (srcOccur n holds (src s.dike n)).lasting, decide (classApplied n holds s = .fatal)⟩ .safe (occur n holds s) := by
  obtain ⟨tell, also, h⟩ := occur_eq (holds := holds) hr.reset hn hp
  have htold := tellIf_only tell n (recorded n holds s)
  have hrec : src (tellIf tell n (recorded n holds s)).dike n = recordAfter n holds s := by
    rw [htold.dike, recorded_dike ho, src_setSrc, if_pos rfl]
  rw [h]
  refine shutDown_of_only (tellIf_only _ _ _) (shutDown_react_of_high hc ?_ ⟨fun _ => ?_, fun hl => ?_, id⟩)
  · rw [htold.sys, recorded_sys ho]
    exact hr
  · exact (congrArg Src.sticky hrec).trans srcOccur_sticky
  · exact (congrArg Src.lasting hrec).trans hl

theorem classCode_le_applied (ho : n < 20 ∨ 155 < n) : classCode (srcClass n) ≤ classCode (classApplied n holds s) := by
  unfold classApplied
  rw [occurClass_of_other ho]
  split
  · rw [classCode_maxClass]
    exact Nat.le_max_left _ _
  · exact Nat.le_refl _

theorem classCode_lasting_le_applied (hb : becomesLasting n holds s = true) :
    classCode (srcLasting n) ≤ classCode (classApplied n holds s) := by
  rw [classApplied, if_pos hb, classCode_maxClass]
  exact Nat.le_max_right _ _

theorem eq_fatal_of_code {c : FClass} (h : 3 ≤ classCode c) : c = .fatal := by
  cases c
  case fatal => rfl
  all_goals exact absurd h (by decide)

/-- The sources of lasting class MAJOR are counted. -/
theorem counted_of_lastingMajor (h : srcLasting n = .major) : 3 < n := by
  by_contra hle
  rw [Nat.not_lt] at hle
  interval_cases n <;> exact absurd h (by decide)

/-- R314: an occurrence that reaches THRESHOLD makes the source lasting. -/
theorem lasting_of_reached (hn : 3 < n) {v : Src} (hl : v.lasting = false) (ht : v.thresh.toNat ≤ (countNext v).toNat) :
    (srcOccur n holds v).lasting = true := by
  rw [srcOccur_of_counted hn hl]
  exact decide_eq_true ht

theorem shutDown_clearCount {m : Mode} (h : ShutDown x m s) : ShutDown x m (clearCount n s) := shutDown_setSrc id id h

/-- R314, R316: a window through which the input stayed asserted leads an unmasked source of lasting class MAJOR into Safe. -/
theorem shutDown_windowEnds (hr : RunsFirmware s.sys) (hn : n < 192) (hp : srcAbsent s.part n = false) (hm : srcLasting n = .major)
    (hk : (src s.dike n).mask = false) (hw : (src s.dike n).winOpen = true) (hh : heldThrough n s = true) :
    ShutDown ⟨n, false, true, false⟩ .safe (windowEnds n true s) := by
  obtain ⟨tell, h⟩ := closeWindow_eq hw
  have htold := tellIf_only tell n { s with dike := setSrc s.dike n (recordClosed n s) }
  rw [windowEnds_of_stayed hn hp, h, if_pos (by rw [hh, hk]; rfl), hm]
  refine shutDown_clearCount (shutDown_react_of_high (by decide) ?_ ⟨nofun, fun _ => ?_, nofun⟩)
  · rw [htold.sys]
    exact hr
  · have hrec : src (tellIf tell n { s with dike := setSrc s.dike n (recordClosed n s) }).dike n = recordClosed n s := by
      rw [htold.dike, src_setSrc, if_pos rfl]
    exact (congrArg Src.lasting hrec).trans (by simp [recordClosed, hh])

end

end

/-- Settles O49: an occurrence or a window's end applies a class from MAJOR on, whose reaction enters Safe, and nothing that follows the
command opens a valve or clears what is latched. -/
theorem majorSourceEntersSafe : Obligations.MajorSourceEntersSafe := by
  intro dt n holds s a v safe ha hn ho hp hsafe hboot
  obtain ⟨hpart, hsys, hsrc⟩ := checkMade_keeps n a
  have hv : src (checkMade n a).dike n = v := congrArg (fun r => sget (srcReset n) r n) hsrc
  have hr : RunsFirmware a.sys := ⟨(awake_iff a).mp ha, hsafe, hboot⟩
  have hoccur := fun hc => shutDown_after (a := a) (shutDown_occur_of_high (s := checkMade n a) (holds := holds) (hsys ▸ hr) hn ho
    (hpart ▸ hp) hc)
  have hsafeOf : ∀ {x t}, ShutDown x .safe t → safe t := fun h => ⟨h.mode, h.line, h.valves, fun _ => h.valveOutput⟩
  refine ⟨fun hc => ?_, fun hm hl hk => ⟨fun ht => ?_, fun hw hi hcount => ?_⟩⟩
  · have hle := classCode_le_applied (holds := holds) (s := checkMade n a) ho
    have h := hoccur (le_trans (by rcases hc with h | h <;> simp [h, classCode]) hle)
    refine ⟨_, live_next_of_effect ha rfl, hsafeOf h, h.latched.sticky rfl, fun hf => h.latched.fatal (decide_eq_true ?_)⟩
    exact eq_fatal_of_code (le_trans (by simp [hf, classCode]) hle)
  · have hlast : (srcOccur n holds (src (checkMade n a).dike n)).lasting = true :=
      lasting_of_reached (counted_of_lastingMajor hm) (hv ▸ hl) (hv ▸ ht)
    have hle := classCode_lasting_le_applied (n := n) (holds := holds) (s := checkMade n a) (by rw [becomesLasting, hlast, hv, hl, hk]; rfl)
    have h := hoccur (le_trans (by simp [hm, classCode]) hle)
    exact ⟨_, live_next_of_effect ha rfl, hsafeOf h, h.latched.sticky rfl, h.latched.lasting hlast⟩
  · have h := shutDown_after (a := a) (shutDown_windowEnds hr hn hp hm hk hw
      (show (v.input && decide (v.count = 1) && !v.lasting) = true by simp [hi, hcount, hl]))
    exact ⟨_, live_next_of_effect ha rfl, hsafeOf h, h.latched.lasting rfl⟩

end Sys2Proof.Machine
end
